-- ==== Sys2Proof/Word.lean ====
section
/-! DEFINITION. The words of the SX-880: an instruction word is 32 bits, a register 64 bits, memory is bytes (R7, R219). -/

namespace Sys2Proof

/-- An instruction word (R219). -/
abbrev Word := BitVec 32

/-- A scalar register's value (R164). -/
abbrev X64 := BitVec 64

/-- One byte of memory. -/
abbrev Byte := BitVec 8

/-- A sparse table: the entries that differ from the reset entry, by rising index. -/
abbrev SMap (α : Type) := List (Nat × α)

end Sys2Proof
end

