-- ==== Sys2Proof/Syntax.lean ====
section
/-! DEFINITION. The steps of the part: one constructor of Instr for each row of the opcode table (instruction words, and
the steps of the part's other units that spec/95_what_each_step_holds.md calls whole and indivisible), with the messages
those steps carry. -/

namespace Sys2Proof

/-- The class of a core (R219). -/
inductive CoreClass where
  | lookup
  | dense
  deriving DecidableEq, Repr

/-- A hardware thread (lookup core 0 to 511 and slot 0 to 15, R161) or a register bank (dense tile 0 to 63, bank 0 or 1, R178). -/
inductive Agent where
  | thread (core slot : Nat)
  | bank (tile b : Nat)
  deriving DecidableEq, Repr

/-- Who made a request: a thread or bank, a copy command (its engine's core unit and its identity), or the host (R86, R118). -/
inductive Who where
  | agent (a : Agent)
  | copy (unit cmd : Nat)
  | host
  /-- the L1 of a lookup core, which writes a line back (R40) -/
  | l1 (core : Nat)
  deriving DecidableEq, Repr

/-- A core of the module by its class and index (R393: die x 256 + sector x 16 + core, or die x 32 + sector x 2 + tile). -/
inductive CoreRef where
  | lc (i : Nat)
  | dt (j : Nat)
  deriving DecidableEq, Repr

/-- A refusal: cause (R350), detail, the value its rule names and whether it is an error of poisoned data (R58). -/
structure Refused where
  cause : Nat
  detail : Nat
  tval : Nat
  deriving DecidableEq, Repr

/-- Where a reply goes (R263, R269, R273, R294). -/
inductive Dest where
  /-- no register -/
  | none
  /-- scalar register `d`, extended as width code `w` gives (R223) -/
  | x (d : BitVec 5) (w : BitVec 3)
  /-- bytes of vector register `d` from byte `ofs` (R264) -/
  | v (d : BitVec 5) (ofs : Nat)
  /-- the thread's own scratchpad at byte `ofs`, and then a value to a scalar register when the last part lands (R289, R295) -/
  | area (ofs : Nat) (d : BitVec 5) (val : Nat)
  /-- scalar register `d` holds the sum of the values that the replies carry (R292) -/
  | count (d : BitVec 5)
  /-- bytes at this offset of what the instruction reads before it goes on (R271, R342 to R344) -/
  | inbox (ofs : Nat)
  /-- a line of the core's instruction cache, by the owned alias of its address (R226) -/
  | code (line : Nat)
  deriving DecidableEq, Repr

/-- What a request asks of its site (R32, R63, R107). -/
inductive ReqOp where
  | load
  | store
  /-- atomic function code `fn` of R242, operand in the data -/
  | amo (fn : BitVec 3) (wantsOld : Bool)
  | cas (expected : Nat)
  /-- accumulate of elements of format `t` (R270): 0 f32, 1 f16, 2 bf16 -/
  | radd (t : BitVec 2)
  /-- add a count to a milestone word (R107) -/
  | contribute (n : Nat)
  /-- post an expectation (R108) -/
  | msarm (n : Nat) (ra : Bool)
  /-- read the generation (R109) -/
  | generation
  /-- a line written back by an L1, with the threads named in its writer mask (R63) -/
  | writeBack (writers : BitVec 16)
  /-- a fill of an L1 line, and the bytes of it that the load wants (R40) -/
  | fill (lo n : Nat)
  deriving DecidableEq, Repr

/-- A request on its way to a site (R53, R63). `pa` is the global physical address, `data` the bytes it carries with the
byte offsets they go to, `jent` its journal entry, `held` whether it is pending under an open waypoint (R103). Of a load whose other
bytes have been read already, `data` holds those and `mask` marks the bytes still to be read (R64). `named` is the address that the
instruction names, `orig` the address that the request had before a home forwarded it, and `hops` the tile windows of other modules that it
still has to visit, with the bytes of each (R68). -/
structure Request where
  who : Who
  core : Nat
  key : Nat
  op : ReqOp
  pa : Nat
  len : Nat
  data : List Byte := []
  mask : List Bool := []
  dest : Dest := .none
  jent : Option Nat := none
  held : Bool := false
  acq : Bool := false
  named : Option Nat := none
  orig : Option Nat := none
  hops : List (Nat × List Bool) := []
  /-- the bytes that it stores are poisoned (R58) -/
  poison : Bool := false
  deriving DecidableEq, Repr

/-- A reply on its way to a thread, bank or engine (R162). -/
structure Reply where
  who : Who
  dest : Dest
  data : List Byte := []
  refused : Option Refused := none
  poison : Bool := false
  acq : Bool := false
  /-- for a fill: the line address, and whether the home marked it no-allocate (R39) -/
  line : Option Nat := none
  noAlloc : Bool := false
  lo : Nat := 0
  n : Nat := 0
  /-- the row that it answers for (R289) -/
  row : Option Nat := none
  deriving DecidableEq, Repr

/-- A row read (R79, R289, R290). -/
structure Gather where
  who : Agent
  core : Nat
  key : Nat
  tid : Nat
  pair : Nat
  row : Nat
  step : Nat
  area : Nat
  d : BitVec 5
  count : Nat
  peek : Bool
  tries : Nat
  merge : Option Nat
  /-- where it waits at its home, the cycle in which it began to (R85) -/
  since : Nat := 0
  deriving DecidableEq, Repr

/-- A step-tagged accumulate of part of a row (R81): first element, values as f32 words. -/
structure Accum where
  who : Agent
  core : Nat
  key : Nat
  tid : Nat
  pair : Nat
  row : Nat
  step8 : Nat
  fmt : Nat
  e0 : Nat
  vals : List (Option (BitVec 32))
  jent : Option Nat
  held : Bool
  poison : Bool := false
  deriving DecidableEq, Repr

/-- A row write-back (R82, R292). -/
structure RowWrite where
  who : Agent
  core : Nat
  key : Nat
  tid : Nat
  pair : Nat
  row : Nat
  step : Nat
  data : List Byte
  d : BitVec 5
  poison : Bool := false
  deriving DecidableEq, Repr

/-- A buffer zeroing (R82, R293). -/
structure RowZero where
  who : Agent
  core : Nat
  key : Nat
  tid : Nat
  pair : Nat
  row : Nat
  k : Nat
  c : Nat
  d : BitVec 5
  deriving DecidableEq, Repr

/-- A travel context with its header (R169). -/
structure Travel where
  pc : BitVec 48
  regs : List (BitVec 64)
  dst : Nat
  src : Nat
  key : Nat
  tag : Nat
  scnt : Nat
  spawner : Option Agent
  /-- the number of its own that the spawning thread is known by (R172) -/
  number : Nat := 0
  /-- set on a context returned to its sender: the refusing core and tinfo[7:0] of R173 or the cause of R271 -/
  back : Option Refused
  deriving DecidableEq, Repr

/-- A revocation (R25): interval [lo, hi], scope code of R87, who issued it, and a number of its own among those of all modules, by which
the answers to it are told from those to another of the same interval. -/
structure Revocation where
  key : Nat
  lo : Nat
  hi : Nat
  scope : Nat
  who : Who
  id : Nat := 0
  deriving DecidableEq, Repr

/-- A posted task operation (R196, R339, R340). -/
inductive TaskOp where
  | msg (chan : Nat) (data : Nat)
  | hold (set : Bool)
  | ready
  | prio (p : Nat)
  deriving DecidableEq, Repr

/-- A task operation on its way to a core: target task reference or core number (R195). -/
structure TaskReq where
  who : Agent
  core : Nat
  key : Nat
  ref : Nat
  op : TaskOp
  jent : Option Nat
  held : Bool
  deriving DecidableEq, Repr

/-- One segment of an LSEND (R294). -/
structure Segment where
  who : Agent
  core : Nat
  key : Nat
  dst : Nat
  ofs : Nat
  data : List Byte
  ms : Option Nat
  jent : Option Nat
  last : Bool
  held : Bool
  poison : Bool := false
  deriving DecidableEq, Repr

/-- An announcement's bytes on their way to one subscriber (R72), with the version of the range, in whose order a subscriber gets them (R73). -/
structure Delivery where
  who : Who
  key : Nat
  module : Nat
  pa : Nat
  data : List Byte
  msPa : Nat
  jent : Option Nat
  token : Nat
  ok : Bool
  poison : Bool := false
  version : Nat := 0
  deriving DecidableEq, Repr

/-- What a Laralair packet carries in its op field and data flits (R396, R398). -/
inductive Payload where
  | req (r : Request)
  | reply (r : Reply)
  | gather (g : Gather)
  | accum (a : Accum)
  | rowWrite (w : RowWrite)
  | rowZero (z : RowZero)
  | travel (t : Travel)
  | task (t : TaskReq)
  | segment (g : Segment)
  | delivery (d : Delivery)
  | revoke (r : Revocation)
  | commit (who : Agent)
  | ack (who : Agent) (jent : Nat) (refused : Option Refused) (last : Bool)
  | gangStart (k kNew : Nat) (slow : Bool)
  | marker (k : Nat)
  | gkeyRemove (k : Nat)
  /-- an answer to a commit, a command, a revocation or a key removal: what it answers and its values -/
  | done (who : Who) (kind : Nat) (args : List Nat)
  /-- a home command of R274 or LTAB (R282): top byte and operands -/
  | command (who : Agent) (top : Nat) (args : List Nat)
  deriving DecidableEq, Repr

/-- A Laralair packet: the header fields of R396 and what it carries. -/
structure Packet where
  dst : Nat
  src : Nat
  key : Nat
  scnt : Nat
  vc : Nat
  nd : Nat
  kind : Nat
  tag : Nat
  jent : Nat
  seq : Nat
  addr : Nat
  body : Payload
  /-- where it is held behind a gap or waits for a path, the cycle in which it began to (R406, R407) -/
  since : Nat := 0
  deriving DecidableEq, Repr

/-- One 64-byte flit of a link (R396): its number on the link, its channel, and the packet it completes. -/
structure Flit where
  num : Nat
  vc : Nat
  pkt : Option Packet
  deriving DecidableEq, Repr

/-- A host access through the HBM window, or of host memory by the device (R410, R411). -/
structure HostAccess where
  write : Bool
  addr : Nat
  len : Nat
  data : List Byte
  deriving DecidableEq, Repr

/-- A CXL.cache request kind (R411). -/
inductive CacheReq where
  | read
  | own
  | writeBack
  deriving DecidableEq, Repr

/-- A register written by REGISTER_WRITE: control-space offset or BAR 2 offset (R9). -/
inductive RegSpace where
  | control
  | bar2
  deriving DecidableEq, Repr

/-- A firmware image as the boot ROM reads it (R427): the key it carries, its security version, its body, whether the
signature verifies under that key, and whether HBM, bulk training and scrub succeed. -/
structure Firmware where
  keyBytes : List Byte
  body : List Byte
  version : BitVec 32
  signature : BitVec 512
  deriving DecidableEq, Repr

/-- A step of the part: the 187 instruction words, the steps of its other units that the part itself makes
due, and last those that arrive from outside it (spec/95, opcode table). -/
inductive Instr where
  /-- R245: No operation. -/
  | nop
  /-- R245: Adds X[a] and X[b] shifted left by s into X[d], modulo 2^64. -/
  | add (d : BitVec 5) (a : BitVec 5) (b : BitVec 5) (s : BitVec 3)
  /-- R245: Subtracts X[b] shifted left by s from X[a] into X[d]. -/
  | sub (d : BitVec 5) (a : BitVec 5) (b : BitVec 5) (s : BitVec 3)
  /-- R245: Adds a sign-extended 14-bit immediate to X[a] into X[d]. -/
  | addi (d : BitVec 5) (a : BitVec 5) (i : BitVec 14)
  /-- R245: Writes the low 64 bits of X[a] times X[b]. -/
  | mul (d : BitVec 5) (a : BitVec 5) (b : BitVec 5)
  /-- R245: Writes the high 64 bits of the signed or unsigned 128-bit product. -/
  | mulh (d : BitVec 5) (a : BitVec 5) (b : BitVec 5) (u : BitVec 1)
  /-- R246: Signed or unsigned division rounded toward zero, setting DZ on division by zero. -/
  | div (d : BitVec 5) (a : BitVec 5) (b : BitVec 5) (u : BitVec 1)
  /-- R246: Signed or unsigned remainder with the sign of the dividend. -/
  | rem (d : BitVec 5) (a : BitVec 5) (b : BitVec 5) (u : BitVec 1)
  /-- R247: Bitwise and of two registers. -/
  | and (d : BitVec 5) (a : BitVec 5) (b : BitVec 5)
  /-- R247: Bitwise or of two registers. -/
  | or (d : BitVec 5) (a : BitVec 5) (b : BitVec 5)
  /-- R247: Bitwise exclusive or of two registers. -/
  | xor (d : BitVec 5) (a : BitVec 5) (b : BitVec 5)
  /-- R247: Logic operation of X[a] with a zero-extended 11-bit immediate. -/
  | logi (d : BitVec 5) (a : BitVec 5) (f : BitVec 3) (i : BitVec 11)
  /-- R247: Shifts or rotates X[a] by the low six bits of X[b]. -/
  | shift (d : BitVec 5) (a : BitVec 5) (b : BitVec 5) (f : BitVec 2)
  /-- R247: Shifts or rotates X[a] by an immediate amount. -/
  | shifti (d : BitVec 5) (a : BitVec 5) (f : BitVec 2) (n : BitVec 6)
  /-- R249: Writes 1 when the comparison of X[a] and X[b] holds, else 0. -/
  | cmp (d : BitVec 5) (a : BitVec 5) (b : BitVec 5) (f : BitVec 3)
  /-- R249: Compares X[a] with a sign-extended 11-bit immediate. -/
  | cmpi (d : BitVec 5) (a : BitVec 5) (f : BitVec 3) (i : BitVec 11)
  /-- R250: Writes the signed or unsigned minimum of two registers. -/
  | min (d : BitVec 5) (a : BitVec 5) (b : BitVec 5) (u : BitVec 1)
  /-- R250: Writes the signed or unsigned maximum of two registers. -/
  | max (d : BitVec 5) (a : BitVec 5) (b : BitVec 5) (u : BitVec 1)
  /-- R250: Selects X[a] or X[b] by a condition on X[c]. -/
  | sel (d : BitVec 5) (a : BitVec 5) (b : BitVec 5) (c : BitVec 3) (x : BitVec 5)
  /-- R247: Population count, leading or trailing zeros of 64 or 32 bits. -/
  | bitc (d : BitVec 5) (a : BitVec 5) (w : BitVec 1) (o : BitVec 2)
  /-- R248: Extracts a bit field of X[a], sign- or zero-extended. -/
  | extr (d : BitVec 5) (a : BitVec 5) (s : BitVec 1) (p : BitVec 6) (l : BitVec 6)
  /-- R248: Inserts the low bits of X[a] into a field of X[d]. -/
  | insr (d : BitVec 5) (a : BitVec 5) (p : BitVec 6) (l : BitVec 6)
  /-- R251: Loads a sign-extended 19-bit immediate. -/
  | li (d : BitVec 5) (i : BitVec 19)
  /-- R251: Replaces one 16-bit chunk of X[d]. -/
  | lih (d : BitVec 5) (p : BitVec 3) (c : BitVec 16)
  /-- R252: Conditional branch on X[a]. -/
  | br (c : BitVec 3) (a : BitVec 5) (o : BitVec 16)
  /-- R252: Relative jump, optionally linking into x31. -/
  | jmp (l : BitVec 1) (o : BitVec 23)
  /-- R252: Jumps to the address in X[a], writing the link to X[d]. -/
  | jmpr (d : BitVec 5) (a : BitVec 5)
  /-- R255: Pushes a hardware loop of X[a] iterations or skips the body. -/
  | loop (a : BitVec 5) (i : BitVec 14)
  /-- R257: Leaves n nested loops, optionally on a condition. -/
  | lexit (a : BitVec 5) (n : BitVec 3)
  /-- R258: Reads the iteration index of a loop level. -/
  | lidx (d : BitVec 5) (l : BitVec 3)
  /-- R263: Loads 1 to 8 bytes through a handle with extension and ordering. -/
  | ld (d : BitVec 5) (h : BitVec 3) (a : BitVec 5) (w : BitVec 3) (o : BitVec 2) (i : BitVec 6)
  /-- R263: Stores 1 to 8 bytes through a handle. -/
  | st (d : BitVec 5) (h : BitVec 3) (a : BitVec 5) (w : BitVec 3) (o : BitVec 2) (i : BitVec 6)
  /-- R263: Loads a whole vector register. -/
  | ldv (d : BitVec 5) (h : BitVec 3) (a : BitVec 5) (o : BitVec 2) (i : BitVec 6)
  /-- R263: Stores a whole vector register. -/
  | stv (d : BitVec 5) (h : BitVec 3) (a : BitVec 5) (o : BitVec 2) (i : BitVec 6)
  /-- R264: Strided vector load, one element per active lane. -/
  | ldvs (d : BitVec 5) (a : BitVec 5) (b : BitVec 5) (m : BitVec 3) (q : BitVec 3) (e : BitVec 2)
  /-- R264: Strided vector store, one element per active lane. -/
  | stvs (d : BitVec 5) (a : BitVec 5) (b : BitVec 5) (m : BitVec 3) (q : BitVec 3) (e : BitVec 2)
  /-- R265: Translates a virtual page into a handle, walking on a miss. -/
  | trns (d : BitVec 3) (a : BitVec 5)
  /-- R265: Supervisor form making a physical handle from an address, rights and size. -/
  | trnsPhys (d : BitVec 3) (a : BitVec 5) (r : BitVec 3) (l : BitVec 6)
  /-- R267: Issues a revocation of the thread's key over a physical interval and waits. -/
  | hinv (a : BitVec 5) (b : BitVec 5) (s : BitVec 4)
  /-- R266: Reads a handle's base, limit or attributes. -/
  | hop (d : BitVec 5) (n : BitVec 3) (o : BitVec 3)
  /-- R268: Marks offloaded granules dropped and revokes them. -/
  | drop (a : BitVec 5) (b : BitVec 5)
  /-- R269: Atomic read-modify-write at the site, posted when d is 0. -/
  | amo (d : BitVec 5) (a : BitVec 5) (b : BitVec 5) (m : BitVec 3) (o : BitVec 2) (z : BitVec 1) (f : BitVec 3)
  /-- R269: Compare and swap at the site. -/
  | cas (d : BitVec 5) (a : BitVec 5) (b : BitVec 5) (m : BitVec 3) (o : BitVec 2) (z : BitVec 1)
  /-- R270: Posted floating accumulate of vector lanes into memory. -/
  | radd (d : BitVec 5) (a : BitVec 5) (m : BitVec 3) (t : BitVec 2) (q : BitVec 3)
  /-- R270: Posted accumulate of vector lanes into a table row's gradient buffer. -/
  | raddTable (d : BitVec 5) (a : BitVec 5) (b : BitVec 5) (t : BitVec 2) (q : BitVec 3)
  /-- R270: Posted remote store performed at the site. -/
  | rst (d : BitVec 5) (h : BitVec 3) (a : BitVec 5) (w : BitVec 3) (o : BitVec 2) (i : BitVec 6)
  /-- R271: Load performed at the site, bypassing the L1. -/
  | rld (d : BitVec 5) (h : BitVec 3) (a : BitVec 5) (w : BitVec 3) (o : BitVec 2) (i : BitVec 6)
  /-- R271: Sends the thread as a travel context to the data's home core with the loaded value. -/
  | rldMigrate (h : BitVec 3) (a : BitVec 5) (w : BitVec 3) (i : BitVec 6)
  /-- R272: Orders earlier and later accesses of selected kinds at a scope. -/
  | fence (k : BitVec 8) (s : BitVec 4)
  /-- R273: Adds an expectation to a milestone word and settles it. -/
  | msarm (a : BitVec 5) (b : BitVec 5) (m : BitVec 3) (r : BitVec 1)
  /-- R273: Sleeps until a milestone generation is reached, then acquires. -/
  | mswait (d : BitVec 5) (a : BitVec 5) (b : BitVec 5) (m : BitVec 3)
  /-- R273: Releases, then contributes a count to a milestone word. -/
  | mspost (a : BitVec 5) (b : BitVec 5) (m : BitVec 3)
  /-- R274: Registers a byte range with rights at its home and returns a token. -/
  | rbind (d : BitVec 5) (a : BitVec 5) (b : BitVec 5) (m : BitVec 3) (r : BitVec 1) (w : BitVec 1) (x : BitVec 1)
  /-- R66: Removes a registered range and ends its subscriptions. -/
  | rfree (a : BitVec 5)
  /-- R67: Maps a range into the issuing core's scratchpad as its site. -/
  | rmap (a : BitVec 5) (b : BitVec 5)
  /-- R69: Ends a mapping, writing the rows back to the home. -/
  | rdone (a : BitVec 5)
  /-- R71: Subscribes the module to a range with a local copy and milestone word. -/
  | lstn (d : BitVec 5) (a : BitVec 5) (b : BitVec 5) (m : BitVec 3) (q : BitVec 3)
  /-- R274: Removes the module's subscription to a range. -/
  | lstnCancel (d : BitVec 5)
  /-- R72: Releases and announces range bytes to every subscriber. -/
  | annc (d : BitVec 5) (a : BitVec 5) (b : BitVec 5)
  /-- R275: Opens a waypoint, checkpointing the thread. -/
  | wpb (d : BitVec 5)
  /-- R275: Commits the pending operations of the open waypoint. -/
  | wpc
  /-- R44: Fetches and locks an L1 line, returning a status. -/
  | pfl (d : BitVec 5) (h : BitVec 3) (a : BitVec 5) (i : BitVec 6)
  /-- R45: Releases the thread's lock on an L1 line. -/
  | plu (h : BitVec 3) (a : BitVec 5) (i : BitVec 6)
  /-- R273: Returns a milestone word's generation as an acquire. -/
  | mstest (d : BitVec 5) (a : BitVec 5) (m : BitVec 3)
  /-- R282: Selects a table descriptor for the thread and resets its step. -/
  | ltabSel (d : BitVec 5) (a : BitVec 5)
  /-- R282: Installs a table at every home. -/
  | ltabInst (d : BitVec 5) (a : BitVec 5)
  /-- R282: Removes a table from every home. -/
  | ltabRm (d : BitVec 5) (a : BitVec 5)
  /-- R289: Gathers table rows from their homes under the staleness bound. -/
  | lgath (d : BitVec 5) (a : BitVec 5) (b : BitVec 5)
  /-- R286: Deduplicates a list and writes its inverse. -/
  | luniq (d : BitVec 5) (a : BitVec 5) (b : BitVec 5)
  /-- R287: Pools rows by segment under a reduction. -/
  | lred (d : BitVec 5) (a : BitVec 5) (b : BitVec 5) (o : BitVec 1) (f : BitVec 3)
  /-- R288: Folds f32 position rows onto rows of the inverse map. -/
  | lscat (d : BitVec 5) (a : BitVec 5) (b : BitVec 5)
  /-- R286: Builds a segment list from lengths. -/
  | lseg (d : BitVec 5) (a : BitVec 5) (b : BitVec 5)
  /-- R286: Writes the home or home core of each identifier. -/
  | lhome (d : BitVec 5) (a : BitVec 5) (b : BitVec 5) (c : BitVec 1)
  /-- R286: Groups identifiers by home with counts and permutation. -/
  | lpart (d : BitVec 5) (a : BitVec 5) (b : BitVec 5)
  /-- R294: Copies scratchpad bytes to another core's scratchpad in segments. -/
  | lsend (a : BitVec 5) (b : BitVec 5) (m : BitVec 1)
  /-- R295: Reads bytes from another core's scratchpad into its own. -/
  | lrecv (d : BitVec 5) (a : BitVec 5) (b : BitVec 5)
  /-- R288: Broadcasts segment rows back to positions. -/
  | lexp (d : BitVec 5) (a : BitVec 5) (b : BitVec 5) (f : BitVec 3)
  /-- R291: Sends one step-tagged accumulate per row to the homes. -/
  | lacc (a : BitVec 5) (f : BitVec 1)
  /-- R286: Counts list values within an interval. -/
  | lcnt (d : BitVec 5) (a : BitVec 5) (b : BitVec 5)
  /-- R286: Sorts a list stably, optionally writing the permutation. -/
  | lsort (d : BitVec 5) (a : BitVec 5) (b : BitVec 5) (p : BitVec 1)
  /-- R286: Merges two lists in all, unique or intersect mode. -/
  | lmrg (d : BitVec 5) (a : BitVec 5) (b : BitVec 5) (m : BitVec 2)
  /-- R286: Filters list values inside or outside an interval. -/
  | lfilt (d : BitVec 5) (a : BitVec 5) (b : BitVec 5) (i : BitVec 1)
  /-- R293: Zeroes a gradient buffer when its step and count match. -/
  | lzero (d : BitVec 5) (a : BitVec 5) (b : BitVec 5)
  /-- R283: Sets the thread's table step. -/
  | lstep (d : BitVec 5) (a : BitVec 5) (i : BitVec 14)
  /-- R290: Reads a row without merging or waiting, returning its applied step. -/
  | lpeek (d : BitVec 5) (a : BitVec 5) (b : BitVec 5)
  /-- R292: Writes rows back with a step where newer. -/
  | lwb (d : BitVec 5) (a : BitVec 5) (b : BitVec 5)
  /-- R304: Lane-wise add. -/
  | vadd (d : BitVec 5) (a : BitVec 5) (b : BitVec 5) (t : BitVec 3) (q : BitVec 3) (v : BitVec 3)
  /-- R304: Lane-wise subtract. -/
  | vsub (d : BitVec 5) (a : BitVec 5) (b : BitVec 5) (t : BitVec 3) (q : BitVec 3) (v : BitVec 3)
  /-- R304: Lane-wise multiply. -/
  | vmul (d : BitVec 5) (a : BitVec 5) (b : BitVec 5) (t : BitVec 3) (q : BitVec 3) (v : BitVec 3)
  /-- R304: Lane-wise fused multiply-add into the destination. -/
  | vfma (d : BitVec 5) (a : BitVec 5) (b : BitVec 5) (t : BitVec 3) (q : BitVec 3) (v : BitVec 3)
  /-- R304: Lane-wise divide. -/
  | vdiv (d : BitVec 5) (a : BitVec 5) (b : BitVec 5) (t : BitVec 3) (q : BitVec 3) (v : BitVec 3)
  /-- R304: Lane-wise minimum. -/
  | vmin (d : BitVec 5) (a : BitVec 5) (b : BitVec 5) (t : BitVec 3) (q : BitVec 3) (v : BitVec 3)
  /-- R304: Lane-wise maximum. -/
  | vmax (d : BitVec 5) (a : BitVec 5) (b : BitVec 5) (t : BitVec 3) (q : BitVec 3) (v : BitVec 3)
  /-- R303: Lane-wise negate or absolute value. -/
  | vneg (d : BitVec 5) (a : BitVec 5) (t : BitVec 3) (q : BitVec 3) (v : BitVec 3)
  /-- R305: Compares lanes into a predicate register. -/
  | vcmp (d : BitVec 3) (a : BitVec 5) (b : BitVec 5) (t : BitVec 3) (q : BitVec 3) (f : BitVec 3)
  /-- R306: Selects lanes of two registers by a predicate. -/
  | vsel (d : BitVec 5) (a : BitVec 5) (b : BitVec 5) (t : BitVec 3) (q : BitVec 3)
  /-- R306: Lane-wise bitwise and. -/
  | vand (d : BitVec 5) (a : BitVec 5) (b : BitVec 5) (t : BitVec 3) (q : BitVec 3)
  /-- R306: Lane-wise bitwise or. -/
  | vor (d : BitVec 5) (a : BitVec 5) (b : BitVec 5) (t : BitVec 3) (q : BitVec 3)
  /-- R306: Lane-wise bitwise exclusive or. -/
  | vxor (d : BitVec 5) (a : BitVec 5) (b : BitVec 5) (t : BitVec 3) (q : BitVec 3)
  /-- R307: Lane-wise shift or rotate. -/
  | vshf (d : BitVec 5) (a : BitVec 5) (b : BitVec 5) (t : BitVec 3) (q : BitVec 3) (f : BitVec 2)
  /-- R308: Converts lanes between element formats. -/
  | vcvt (d : BitVec 5) (a : BitVec 5) (x : BitVec 4) (y : BitVec 4) (q : BitVec 3) (r : BitVec 3)
  /-- R304: Adds lanes scaled by a power of two with one rounding. -/
  | vsca (d : BitVec 5) (a : BitVec 5) (b : BitVec 5) (t : BitVec 3) (q : BitVec 3) (v : BitVec 3)
  /-- R310: Reduces lanes in a fixed pairwise tree into lane 0. -/
  | vred (d : BitVec 5) (a : BitVec 5) (c : BitVec 3) (t : BitVec 3) (q : BitVec 3) (v : BitVec 3)
  /-- R311: Broadcasts a scalar into every active lane. -/
  | vbcst (d : BitVec 5) (a : BitVec 5) (t : BitVec 3) (q : BitVec 3)
  /-- R311: Moves one lane into a scalar register. -/
  | vmovxGet (d : BitVec 5) (a : BitVec 5) (b : BitVec 5) (t : BitVec 3) (s : BitVec 1)
  /-- R311: Moves a scalar into one lane. -/
  | vmovxPut (d : BitVec 5) (a : BitVec 5) (b : BitVec 5) (t : BitVec 3)
  /-- R311: Permutes lanes by an index vector. -/
  | vperm (d : BitVec 5) (a : BitVec 5) (b : BitVec 5) (t : BitVec 3) (q : BitVec 3)
  /-- R312: Lane-wise base-2 exponential. -/
  | vexp2 (d : BitVec 5) (a : BitVec 5) (t : BitVec 3) (q : BitVec 3) (v : BitVec 3)
  /-- R312: Lane-wise base-2 logarithm. -/
  | vlog2 (d : BitVec 5) (a : BitVec 5) (t : BitVec 3) (q : BitVec 3) (v : BitVec 3)
  /-- R312: Lane-wise reciprocal. -/
  | vrcp (d : BitVec 5) (a : BitVec 5) (t : BitVec 3) (q : BitVec 3) (v : BitVec 3)
  /-- R312: Lane-wise reciprocal square root. -/
  | vrsq (d : BitVec 5) (a : BitVec 5) (t : BitVec 3) (q : BitVec 3) (v : BitVec 3)
  /-- R312: Lane-wise correctly rounded square root. -/
  | vsqrt (d : BitVec 5) (a : BitVec 5) (t : BitVec 3) (q : BitVec 3) (v : BitVec 3)
  /-- R311: Writes an arithmetic sequence into the lanes. -/
  | viota (d : BitVec 5) (a : BitVec 5) (b : BitVec 5) (t : BitVec 3) (q : BitVec 3)
  /-- R311: Lane-wise population count, leading or trailing zeros. -/
  | vcnt (d : BitVec 5) (a : BitVec 5) (t : BitVec 3) (q : BitVec 3) (v : BitVec 3)
  /-- R309: Converts floating lanes into MX blocks or i4 with scales. -/
  | vpack (d : BitVec 5) (a : BitVec 5) (b : BitVec 5) (m : BitVec 3) (s : BitVec 2) (p : BitVec 3)
  /-- R309: Converts MX blocks or i4 back to floating lanes. -/
  | vunpk (d : BitVec 5) (a : BitVec 5) (b : BitVec 5) (m : BitVec 3) (s : BitVec 2) (p : BitVec 3)
  /-- R313: Fills a vector from the stochastic-rounding stream. -/
  | vrng (d : BitVec 5) (t : BitVec 3) (q : BitVec 3)
  /-- R314: Logic operation over whole predicate registers. -/
  | vkop (d : BitVec 3) (a : BitVec 3) (b : BitVec 3) (l : BitVec 3)
  /-- R300: Sets the vector length in lanes of a type. -/
  | vsetl (d : BitVec 5) (a : BitVec 5) (t : BitVec 3)
  /-- R318: Writes the array configuration acfg after checks. -/
  | mcfg (d : BitVec 5) (a : BitVec 5)
  /-- R319: Fills a row feed buffer from scratchpad lines and writes line records. -/
  | mfda (d : BitVec 5) (a : BitVec 5) (b : BitVec 5) (n : BitVec 1)
  /-- R319: Fills a column feed buffer from scratchpad lines and writes line records. -/
  | mfdb (d : BitVec 5) (a : BitVec 5) (b : BitVec 5) (n : BitVec 1)
  /-- R212: Squares one pass of row and column buffers into a cell bank. -/
  | msq (d : BitVec 1) (a : BitVec 1) (b : BitVec 1)
  /-- R214: Drains a cell bank through the hem units into the drain plane. -/
  | mhem (a : BitVec 1)
  /-- R215: Scales the drain plane and accumulates into an accumulator tile. -/
  | msa (d : BitVec 2) (a : BitVec 5) (b : BitVec 5)
  /-- R216: Compares the latched checksum and plane sum, trapping on mismatch. -/
  | mchk
  /-- R322: Clears an accumulator tile. -/
  | mzero (d : BitVec 2)
  /-- R323: Stores an accumulator tile to scratchpad with rounding. -/
  | mst (d : BitVec 2) (a : BitVec 5) (b : BitVec 5) (r : BitVec 3) (f : BitVec 5)
  /-- R323: Loads an accumulator tile from scratchpad. -/
  | mld (d : BitVec 2) (a : BitVec 5) (b : BitVec 5) (f : BitVec 5)
  /-- R322: Exchanges two accumulator tiles. -/
  | mswap (d : BitVec 2) (a : BitVec 2)
  /-- R325: Counts special or zero lines of a record pair. -/
  | mspec (d : BitVec 5) (a : BitVec 5) (z : BitVec 1)
  /-- R324: Reads a half row of an accumulator tile into a vector. -/
  | mrdv (d : BitVec 5) (a : BitVec 2) (b : BitVec 5) (h : BitVec 1)
  /-- R324: Writes or adds a vector into a half row of an accumulator tile. -/
  | mwrv (d : BitVec 2) (a : BitVec 5) (b : BitVec 5) (p : BitVec 1) (h : BitVec 1)
  /-- R328: Starts a linear copy command. -/
  | cpl (d : BitVec 5) (a : BitVec 5) (k : BitVec 14)
  /-- R328: Starts a strided copy command. -/
  | cps (d : BitVec 5) (a : BitVec 5) (k : BitVec 14)
  /-- R328: Starts a gather copy command. -/
  | cpg (d : BitVec 5) (a : BitVec 5) (k : BitVec 14)
  /-- R328: Starts a scatter copy command. -/
  | cpx (d : BitVec 5) (a : BitVec 5) (k : BitVec 14)
  /-- R146: Starts a block-cyclic slab copy across a rectangle of cores. -/
  | cpbc (d : BitVec 5) (a : BitVec 5) (k : BitVec 14)
  /-- R328: Starts a multicast of range bytes to subscribers. -/
  | cpmc (d : BitVec 5) (a : BitVec 5) (k : BitVec 14)
  /-- R154: Starts a requantising transpose copy. -/
  | cpqt (d : BitVec 5) (a : BitVec 5) (k : BitVec 14)
  /-- R328: Starts a fill copy command. -/
  | cpfl (d : BitVec 5) (a : BitVec 5) (k : BitVec 14)
  /-- R155: Starts an offload of granules to bulk or host. -/
  | cpof (d : BitVec 5) (a : BitVec 5) (k : BitVec 14)
  /-- R155: Starts a fetch of granules back from bulk or host. -/
  | cpin (d : BitVec 5) (a : BitVec 5) (k : BitVec 14)
  /-- R331: Seals the open batch and opens the next. -/
  | cseal (d : BitVec 5)
  /-- R331: Waits until at most n sealed batches are unfinished, then acquires. -/
  | cwait (n : BitVec 6)
  /-- R331: Waits for a token's batch to end and returns its status. -/
  | cwaitTok (d : BitVec 5) (a : BitVec 5)
  /-- R331: Returns a batch's status word without waiting. -/
  | cstat (d : BitVec 5) (a : BitVec 5) (k : BitVec 1)
  /-- R331: Cancels one sealed batch or every unfinished batch. -/
  | ccan (a : BitVec 5) (l : BitVec 1)
  /-- R331: Returns a token for a sealed batch. -/
  | ctok (d : BitVec 5) (a : BitVec 5)
  /-- R331: Sets the priority of later copy commands. -/
  | cpri (p : BitVec 2)
  /-- R328: Starts a linear copy that writes a CRC-32C of the source. -/
  | cpck (d : BitVec 5) (a : BitVec 5) (k : BitVec 14)
  /-- R328: Starts a supervisor copy between physical handles for migration. -/
  | cpmg (d : BitVec 5) (a : BitVec 5) (k : BitVec 14)
  /-- R328: Starts a copy within one vault. -/
  | cpvl (d : BitVec 5) (a : BitVec 5) (k : BitVec 14)
  /-- R331: Exchanges the copy back-off policy register. -/
  | cbko (d : BitVec 5) (a : BitVec 5)
  /-- R337: Raises a software trap resuming after it. -/
  | trap (c : BitVec 14)
  /-- R357: Returns from a handler, restoring level and resuming at epc. -/
  | tret
  /-- R334: Reads a state register. -/
  | srget (d : BitVec 5) (r : BitVec 12)
  /-- R334: Writes a state register under its own rules. -/
  | srset (a : BitVec 5) (r : BitVec 12)
  /-- R334: Exchanges a state register with a scalar. -/
  | srxch (d : BitVec 5) (a : BitVec 5) (r : BitVec 12)
  /-- R197: Consumes the task's ready bit or sleeps until it is set. -/
  | wait
  /-- R338: Pre-empts the thread if an eligible task waits for a slot. -/
  | yield
  /-- R339: Creates a new task of the launch on the issuing core. -/
  | tspawn (d : BitVec 5) (a : BitVec 5) (b : BitVec 5) (h : BitVec 1) (p : BitVec 2) (w : BitVec 4)
  /-- R196: Posted set or clear of a task's hold bit. -/
  | thold (a : BitVec 5) (s : BitVec 1)
  /-- R196: Posted setting of a task's ready bit. -/
  | trdy (a : BitVec 5)
  /-- R338: Ends the thread after its release, journal and batch waits. -/
  | tend
  /-- R340: Binds or unbinds a message channel to the task. -/
  | tchan (d : BitVec 5) (u : BitVec 1) (c : BitVec 6)
  /-- R340: Posts a 48-bit message to a channel of a core. -/
  | msg (d : BitVec 5) (a : BitVec 5) (c : BitVec 6)
  /-- R341: Migrates the thread to a named lookup core. -/
  | migr (a : BitVec 5)
  /-- R341: Migrates the thread to the home core of a handle offset. -/
  | migrHandle (a : BitVec 5) (n : BitVec 3)
  /-- R341: Sends a new travel context to a named lookup core. -/
  | spawn (a : BitVec 5) (b : BitVec 5)
  /-- R341: Sends a new travel context to the home core of a handle offset. -/
  | spawnHandle (a : BitVec 5) (b : BitVec 5) (n : BitVec 3)
  /-- R339: Posted change of a task's base priority. -/
  | tkpri (a : BitVec 5) (b : BitVec 5)
  /-- R335: Arms or disarms the timer, returning the time left. -/
  | timer (d : BitVec 5) (a : BitVec 5)
  /-- R347: Starts a gang switch of an outgoing key and waits for it. -/
  | gang (d : BitVec 5) (a : BitVec 5)
  /-- R347: Admits a key at every allow list of the module. -/
  | gkeyAdd (d : BitVec 5) (a : BitVec 5)
  /-- R347: Removes a key across the domain and waits for acknowledgements. -/
  | gkeyRm (d : BitVec 5) (a : BitVec 5)
  /-- R346: Reports double-stitch mode or compares the pair's registers. -/
  | redn (d : BitVec 5) (c : BitVec 1)
  /-- R345: Forms a tile group once every member issues the same mask. -/
  | vcgrp (d : BitVec 5) (a : BitVec 5)
  /-- R345: Synchronises every member of a tile group as release and acquire. -/
  | vcsyn
  /-- R344: Saves the thread or bank context as an image. -/
  | ctxs (d : BitVec 5) (a : BitVec 5) (n : BitVec 3)
  /-- R344: Loads a context image and resumes at its pc. -/
  | ctxl (a : BitVec 5) (n : BitVec 3)
  /-- R348: Rewrites corrected errors and clears poison over a region. -/
  | scrub (d : BitVec 5) (a : BitVec 5) (b : BitVec 5) (n : BitVec 3)
  /-- R337: Raises a precise breakpoint trap. -/
  | brk (c : BitVec 19)
  /-- R336: Selects an event counter's source and returns its count. -/
  | evsel (d : BitVec 5) (a : BitVec 5) (n : BitVec 4)
  /-- R343: Registers a producer for dropped granules. -/
  | dreg (a : BitVec 5) (b : BitVec 5) (m : BitVec 1) (n : BitVec 3)
  /-- R342: Issues a launch record from a device program and returns the outcome. -/
  | launch (d : BitVec 5) (a : BitVec 5) (n : BitVec 3)
  /-- R348: Halts or resumes a named core. -/
  | halt (a : BitVec 5)
  /-- R22: A page walk finishes or faults and the handle is written. -/
  | translationWalkComplete (who : Agent) (d : BitVec 3) (va : BitVec 64) (start : Nat)
  /-- R185: The dispatch core validates a launch record, holding companions. -/
  | launchValidate (port : Option Nat)
  /-- R193: The dispatch hardware consumes a bind record and writes its result. -/
  | bindRecord (die : Nat)
  /-- R201: The start-dependence word reaches dgen and the early-start quota lifts. -/
  | dependenceMet (tag : Nat)
  /-- R198: The ready queue grants a free slot to the head eligible task. -/
  | slotGrant (core : Nat)
  /-- R37: A new launch's start writes back leaving L1 banks and clears scratchpad. -/
  | repartition (core : Nat) (banks : Nat)
  /-- R202: A 96-cycle swap ends and the slot may issue. -/
  | contextSwapComplete (core slot : Nat)
  /-- R202: A context held only in the context area is read back into the cache. -/
  | contextAreaReadback (core task tid : Nat)
  /-- R202: A watched milestone generation changes and the evicted sleeper is queued. -/
  | watchNotify (core : Nat) (pa : Nat)
  /-- R335: The timer expires, setting Y or taking trap 0x18 on a dense tile. -/
  | timerExpiry (u : CoreRef) (task : Nat)
  /-- R174: A task whose slots are free and travel count zero ends. -/
  | taskEnd (core task : Nat)
  /-- R190: All tasks ended and the completion record is written with a release. -/
  | launchComplete (tag : Nat)
  /-- R204: A dense tile or group exchanges active and standby banks. -/
  | denseBankSwitch (tile : Nat)
  /-- R162: A variable-latency reply is written and the thread re-enters rotation. -/
  | replyWritten (r : Reply)
  /-- R180: A late reply to a dense tile is written and the group counter resumes. -/
  | lateReplyArrival (r : Reply)
  /-- R91: A store-buffer entry drains in issue order to the L1 or site. -/
  | storeBufferDrain (core : Nat)
  /-- R64: A home slice serves a request byte by byte against ranges. -/
  | homeRequest (r : Request)
  /-- R68: The mapper's fill port applies an operation forwarded by the home. -/
  | forwardedOperation (core : Nat) (token : Nat) (r : Request)
  /-- R69: The mapper receives the end marker and sends the rows home. -/
  | rdoneEndMarker (core : Nat) (token : Nat) (who : Option Agent)
  /-- R79: A gather arrives at its home and is admitted, merged or made to wait. -/
  | homeGather (g : Gather)
  /-- R79: A returned gather is resent after its back-off. -/
  | gatherResend (g : Gather)
  /-- R81: A step-tagged accumulate is applied or refused at a row's home. -/
  | homeAccumulate (a : Accum)
  /-- R82: An LWB row write is applied at the home and re-evaluates waiting gathers. -/
  | homeRowWriteback (w : RowWrite)
  /-- R82: An LZERO is tested and applied at the row's site. -/
  | homeZero (z : RowZero)
  /-- R72: An announcement's bytes land at a subscriber and its milestone is advanced. -/
  | subscriberDelivery (d : Delivery)
  /-- R107: A contribution reaches a milestone word's site and settles it. -/
  | milestoneContribution (pa : Nat) (n : Nat)
  /-- R104: A site acknowledges a posted operation and its journal entry retires. -/
  | journalAck (who : Agent) (jent : Nat)
  /-- R359: A refusal of a journal entry reaches the thread and is queued or merged. -/
  | refusalArrival (who : Agent) (jent : Nat) (r : Refused) (last : Bool)
  /-- R103: A site applies a thread's pending operations on commit. -/
  | waypointCommitApply (who : Agent)
  /-- R28: A write of GO issues a revocation from the revocation port. -/
  | revocationPortGo (control : Option Nat) (value : BitVec 64)
  /-- R25: A core applies a revocation, clearing matching handles and cache entries. -/
  | revocationApply (u : CoreRef) (r : Revocation)
  /-- R25: A core acknowledges once its in-flight matching accesses complete. -/
  | revocationAck (u : CoreRef) (r : Revocation)
  /-- R25: Every core of the scope has acknowledged and the revocation completes. -/
  | revocationComplete (r : Revocation)
  /-- R143: An engine performs one beat of up to 256 bytes of a command. -/
  | copyBeat (engine : Nat)
  /-- R149: A copy command ends, possibly finishing its batch. -/
  | copyCommandComplete (engine : Nat) (cmd : Nat)
  /-- R142: An edge engine accepts a delegated command. -/
  | edgeAccept (u : CoreRef) (cmd : Nat)
  /-- R159: A producer launch ends and waiting threads re-execute their accesses. -/
  | producerEnd (key : Nat) (granule : Nat)
  /-- R171: A travel context reaches a core and starts, queues or spills. -/
  | travelContextArrival (t : Travel)
  /-- R171: A spilled context returns to the arrival queue as an entry frees. -/
  | spillReturn (core : Nat)
  /-- R173: A refused travel context returns to its sender and traps 0x13. -/
  | contextReturn (t : Travel)
  /-- R365: A tile group drains its in-flight operations for a trap or pre-emption. -/
  | trapDrain (tile : Nat)
  /-- R375: Writing F = 1 fences a core, parking its threads and freeing its tasks. -/
  | coreFence (u : CoreRef) (value : BitVec 64)
  /-- R30: Writing nqhead consumes notices up to the new head. -/
  | nqheadWrite (value : BitVec 64)
  /-- R373: Writing fqhead consumes fault records. -/
  | fqheadWrite (value : BitVec 64)
  /-- R381: A module receives a switch start, checks its conditions and stops the key. -/
  | gangStartMessage (k : Nat) (slow : Bool)
  /-- R383: A module's stop ends and it sends sweep markers. -/
  | gangStopComplete (k : Nat)
  /-- R387: The last re-injected packet is delivered and the incoming key resumes. -/
  | reinjectionComplete (k : Nat)
  /-- R403: Writing FR starts a full retrain on all lanes. -/
  | lctlFullRetrain (port : Nat)
  /-- R403: Writing DIS disables or enables a port. -/
  | lctlDisable (port : Nat) (dis : Bool)
  /-- R9: A write to a register with no row of its own takes effect under its access type. -/
  | registerWrite (space : RegSpace) (key : Option Nat) (ofs : Nat) (value : BitVec 64)
  /-- R44: The fill issued by a PFL with status 0 arrives at the L1 and validates the line; if the home marked it no-allocate, the line is discarded and its lock-list entry released. -/
  | pflFillArrival (core : Nat) (line : Nat) (data : List Byte) (noAlloc : Bool)
  /-- R14: An access from another agent arrives at a core's scratchpad port through space 0x4 and is checked for key, reserved bytes and scratchpad, then served or refused; this includes LRECV reads and migrate-mode RLD targets. -/
  | tileWindowAccess (r : Request)
  /-- R294: An LSEND segment reaches the destination core's fill port, where it lands and contributes to the named milestone, or is refused with 0x13. -/
  | lsendSegmentArrival (g : Segment)
  /-- R196: A posted MSG, THOLD, TRDY or TKPRI reaches the target core, which appends the message or changes H, Y or the priority and wakes WAIT sleepers, or refuses it. -/
  | taskOperationArrival (t : TaskReq)
  /-- R188: A host 64-byte write to a launch port is accepted or dropped. -/
  | launchPortRecord (port : Nat) (record : BitVec 512) (whole : Bool)
  /-- R185: A held launch whose companion does not arrive within 1 ms is rejected. -/
  | companionTimeout (tag : Nat)
  /-- R191: Yoben places tasks by writing bind records. -/
  | dispatchPlacement (die : Nat) (record : BitVec 256)
  /-- R199: An eligible ungranted task's age counts and lowers its effective priority. -/
  | ageTick (core : Nat)
  /-- R200: A thread's slice counter reaches zero and it is pre-empted or reloaded. -/
  | sliceExpiry (who : Agent)
  /-- R202: A full thread-context cache writes its least recently used entry to the context area. -/
  | contextAreaWriteback (core : Nat)
  /-- R40: The L1 evicts a line, writing back dirty bytes only. -/
  | l1Eviction (core set way : Nat)
  /-- R85: A waiting gather exceeds stwait and is refused. -/
  | gatherWaitTimeout (pair : Nat) (index : Nat)
  /-- R83: A merge entry's 256-memory-cycle window ends. -/
  | mergeWindowExpiry (id : Nat)
  /-- R359: A queued refusal is taken as an asynchronous trap at a boundary. -/
  | refusalTaken (who : Agent)
  /-- R361: A pending operation is not acknowledged as held within 2^20 memory cycles. -/
  | waypointHoldTimeout (who : Agent)
  /-- R362: A rollback discards pending operations and restores the checkpoint. -/
  | waypointRollback (who : Agent) (cause : Nat)
  /-- R143: A command waiting 2^16 memory cycles without a beat rises one priority level. -/
  | copyPriorityAging (engine : Nat) (cmd : Nat)
  /-- R152: A full edge engine refuses a delegated command with a back-off hint. -/
  | edgeRefusal (u : CoreRef) (cmd : Nat) (hint : Nat)
  /-- R152: The network interface retries a refused command after its back-off. -/
  | edgeRetry (u : CoreRef) (cmd : Nat)
  /-- R371: A thread or bank is parked, scrubbed and a fault record posted. -/
  | park (who : Agent) (cause : Nat) (tval tinfo : BitVec 64) (dt uh : Bool)
  /-- R381: A host gcmd with op 0 starts a gang switch. -/
  | gangPortSwitch (key : Nat) (slow : Bool)
  /-- R392: A host gcmd with op 1 pages a key's shadow planes to memory. -/
  | gangPortPageOut (key : Nat)
  /-- R392: A host gcmd with op 2 loads a key's image into shadow planes. -/
  | gangPortPageIn (key : Nat)
  /-- R384: A sweep marker arrives and is forwarded when every counted input has one. -/
  | sweepMarker (k port vc : Nat)
  /-- R386: An input link down for 2^16 memory cycles leaves the sweep count. -/
  | sweepLinkTimeout (k port : Nat)
  /-- R347: A module or switch applies a broadcast key removal and acknowledges. -/
  | gkeyRemoveMessage (key : Nat) (src : Nat)
  /-- R406: A packet reaches a junction router and is delivered in seq order, captured or refused as late. -/
  | packetArrival (port : Nat) (p : Packet)
  /-- R406: A sequence gap unfilled for 2^20 memory cycles ends the hold. -/
  | seqGapTimeout (src dst vc : Nat)
  /-- R407: A packet waiting 2^20 memory cycles for a path is answered as unreachable. -/
  | unreachableTimeout (index : Nat)
  /-- R397: A flit is received, CRC-checked and acknowledged or replayed. -/
  | flitArrival (port : Nat) (crcOk : Bool) (f : Flit)
  /-- R397: An acknowledgement frees flits from the sender's replay buffer. -/
  | flitAck (port : Nat) (num : Nat)
  /-- R399: A sender receives stop or go for a channel. -/
  | flowControlSignal (port vc : Nat) (stop : Bool)
  /-- R401: A lane fails and the port steps its width down or goes down. -/
  | laneFailure (port lane : Nat)
  /-- R402: A link finishes retraining and rescales its thresholds and channels. -/
  | retrainComplete (port : Nat) (rtt : Nat)
  /-- R410: A write of hwin defines or closes the host HBM window. -/
  | hwinWrite (value : BitVec 64)
  /-- R410: A host CXL.mem access through the HBM window is performed at the home. -/
  | hostWindowAccess (a : HostAccess)
  /-- R53: The host snoops a line and the host slice answers after gathering dirty bytes. -/
  | hostSnoop (line : Nat)
  /-- R411: A CXL.cache request completes, possibly with an error. -/
  | hostCacheReply (line : Nat) (kind : CacheReq) (data : List Byte) (error : Bool)
  /-- R428: A DOE attestation request with a nonce returns a signed reply. -/
  | attestationRequest (nonce : BitVec 256)
  /-- R427: The boot ROM verifies and boots the Yoben image in stage B. -/
  | firmwareVerify (image : Firmware) (fail : Nat)
  /-- R425: Training and scrub end and the module enters stage C. -/
  | stageCReached (failedPorts : List Nat)
  /-- R431: Temperature or power passes its limit and throttle rises a level. -/
  | throttleRaise (tmax pwr thbm : Nat)
  /-- R431: After 10 ms below 90 °C within budget, throttle falls a level. -/
  | throttleLower (tmax pwr thbm : Nat)
  /-- R431: At 110 °C every core halts and the module keeps only stage A. -/
  | thermalTrip (tmax : Nat)
  /-- R58: A soft error is corrected in place or poisons its line or granule. -/
  | storageError (pa : Nat) (corrected : Bool)
  /-- R410: The host answers a back-invalidate for a window line, and the home then performs the write it was holding. -/
  | backInvalidateResponse (line : Nat)
  /-- R402: The replay timeout of 2t + 200 ns passes without an acknowledgement, and the sender resends its unacknowledged flits in order. -/
  | replayTimeout (port : Nat)
  /-- R29: The decay interval ends and every count is halved. -/
  | counterDecay
  /-- R392: A page-out or page-in finishes on the module. -/
  | planePageComplete
  /-- R380: Writing ADM admits the selected key, creating its set. -/
  | partitionPortAdmit
  /-- R380: Writing NEW creates the selected key's partition register set. -/
  | partitionPortCreate
  /-- R428: The identity certificate is read through the DOE mailbox. -/
  | certificateRead
  /-- R425: Power good starts the module in stage A. -/
  | powerGood
  /-- R411: The CXL link to the host goes down: copy beats to host space fail with detail 0x02, and other host-space requests are answered as unreachable. -/
  | cxlLinkDown
  deriving DecidableEq, Repr

end Sys2Proof
end

