-- ==== Sys2Proof/WellFormed.lean ====
section
/-! DEFINITION. Which operand values an instruction may hold (check 6 of R229), which registers of which file it names
(R221, R227, R280), and which level it needs (R231, R239). -/

namespace Sys2Proof

/-- A floating type code of R224. -/
def isFloatType (t : BitVec 3) : Bool := t = 4#3 || t = 5#3 || t = 6#3

/-- A variant code within the largest that an instruction defines for integer types and for floating types (R303, R304). -/
def variantOk (t v : BitVec 3) (maxInt maxFloat : Nat) : Bool :=
  t ≠ 7#3 && decide (v.toNat ≤ if isFloatType t then maxFloat else maxInt)

/-- The load and store orderings of R92: relaxed, or acquire on a load, or release on a store. -/
def loadOrd (o : BitVec 2) : Bool := o = 0#2 || o = 1#2
def storeOrd (o : BitVec 2) : Bool := o = 0#2 || o = 2#2

/-- A field that must lie in the register: position + width - 1 at most 63 (R248). -/
def bitFieldOk (p l : BitVec 6) : Bool := decide (p.toNat + l.toNat ≤ 63)

/-- An agent that the module has (R2, R178). -/
def Agent.ok : Agent → Bool
  | .thread c s => decide (c < 512) && decide (s < 16)
  | .bank t b => decide (t < 64) && decide (b < 2)

/-- A core that the module has (R2). -/
def CoreRef.ok : CoreRef → Bool
  | .lc i => decide (i < 512)
  | .dt j => decide (j < 64)

/-- Check 6 of R229 on the code fields: cond, w, o, type, variant, function codes and field ranges; for the steps of other
units, that they name units the module has. -/
def Instr.wf : Instr → Bool
  | .logi _ _ f _ => f ≠ 7#3
  | .cmp _ _ _ f => decide (f.toNat ≤ 5)
  | .cmpi _ _ f _ => decide (f.toNat ≤ 5)
  | .sel _ _ _ c _ => decide (c.toNat ≤ 5)
  | .bitc _ _ _ o => o ≠ 3#2
  | .extr _ _ _ p l => bitFieldOk p l
  | .insr _ _ p l => bitFieldOk p l
  | .lih _ p _ => decide (p.toNat ≤ 3)
  | .br c a _ => c ≠ 7#3 && (c ≠ 6#3 || a = 0#5)
  | .loop _ i => i ≠ 0#14
  | .lexit _ n => decide (n.toNat ≤ 5)
  | .lidx _ l => decide (l.toNat ≤ 5)
  | .ld _ _ _ w o _ => w ≠ 7#3 && loadOrd o
  | .st _ _ _ w o _ => decide (w.toNat ≤ 3) && storeOrd o
  | .ldv _ _ _ o _ => loadOrd o
  | .stv _ _ _ o _ => storeOrd o
  | .hop _ _ o => decide (o.toNat ≤ 2)
  | .amo d _ _ _ o _ _ => d ≠ 0#5 || o = 0#2
  | .radd _ _ _ t _ => t ≠ 3#2
  | .raddTable _ _ _ t _ => t ≠ 3#2
  | .rst _ _ _ w o _ => decide (w.toNat ≤ 3) && storeOrd o
  | .rld d _ _ w o _ => d ≠ 0#5 && w ≠ 7#3 && loadOrd o
  | .rldMigrate _ _ w _ => w ≠ 7#3
  | .fence k _ => decide (k.toNat < 32)
  | .lred _ _ _ _ f => decide (f.toNat ≤ 3)
  | .lexp _ _ _ f => f = 0#3 || f = 3#3
  | .lmrg _ _ _ m => m ≠ 3#2
  | .vadd _ _ _ t _ v => variantOk t v 2 4
  | .vsub _ _ _ t _ v => variantOk t v 2 4
  | .vmul _ _ _ t _ v => variantOk t v 4 4
  | .vfma _ _ _ t _ v => variantOk t v 2 4
  | .vdiv _ _ _ t _ v => variantOk t v 1 4
  | .vmin _ _ _ t _ v => variantOk t v 1 0
  | .vmax _ _ _ t _ v => variantOk t v 1 0
  | .vneg _ _ t _ v => variantOk t v 3 0
  | .vcmp _ _ _ t _ f =>
    t ≠ 7#3 && f ≠ 7#3 && (if isFloatType t then f ≠ 4#3 && f ≠ 5#3 else f ≠ 6#3)
  | .vsel _ _ _ t q => t ≠ 7#3 && q ≠ 0#3
  | .vand _ _ _ t _ => t ≠ 7#3
  | .vor _ _ _ t _ => t ≠ 7#3
  | .vxor _ _ _ t _ => t ≠ 7#3
  | .vshf _ _ _ t _ _ => t ≠ 7#3
  | .vcvt _ _ _ _ _ r => decide (r.toNat ≤ 4)
  | .vsca _ _ _ t _ v => variantOk t v 4 4
  | .vred _ _ c t _ v =>
    variantOk t v 1 4 && c ≠ 3#3 && c ≠ 6#3 && c ≠ 7#3 && !(isFloatType t && (c = 4#3 || c = 5#3))
  | .vbcst _ _ t _ => t ≠ 7#3
  | .vmovxGet _ _ _ t _ => t ≠ 7#3
  | .vmovxPut _ _ _ t => t ≠ 7#3
  | .vperm _ _ _ t _ => t ≠ 7#3
  | .vexp2 _ _ t _ v => variantOk t v 0 0
  | .vlog2 _ _ t _ v => variantOk t v 0 0
  | .vrcp _ _ t _ v => variantOk t v 0 0
  | .vrsq _ _ t _ v => variantOk t v 0 0
  | .vsqrt _ _ t _ v => variantOk t v 4 4
  | .viota _ _ _ t _ => t ≠ 7#3
  | .vcnt _ _ t _ v => variantOk t v 2 2
  | .vpack _ _ _ m s p => decide (m.toNat ≤ 4) && s ≠ 3#2 && p ≠ 7#3
  | .vunpk _ _ _ m s p => decide (m.toNat ≤ 4) && s ≠ 3#2 && p ≠ 7#3
  | .vrng _ t _ => t ≠ 7#3
  | .vkop _ _ _ l => l ≠ 7#3
  | .vsetl _ _ t => t ≠ 7#3
  | .mst _ _ _ r f => decide (r.toNat ≤ 4) && decide (8 ≤ f.toNat) && decide (f.toNat ≤ 12)
  | .mld _ _ _ f => decide (8 ≤ f.toNat) && decide (f.toNat ≤ 10)
  | .cwait n => decide (n.toNat ≤ 32)
  | .ccan a l => l = 0#1 || a = 0#5
  | .evsel _ _ n => decide (n.toNat ≤ 11)
  | .translationWalkComplete who _ _ _ => who.ok
  | .launchPortRecord port _ _ => decide (port < 256)
  | .launchValidate port => match port with | some p => decide (p < 256) | none => true
  | .bindRecord die => decide (die < 2)
  | .dispatchPlacement die _ => decide (die < 2)
  | .slotGrant core => decide (core < 512)
  | .repartition core banks => decide (core < 512) && decide (banks ≤ 18)
  | .ageTick core => decide (core < 512)
  | .sliceExpiry who => who.ok
  | .contextSwapComplete core slot => decide (core < 512) && decide (slot < 16)
  | .contextAreaWriteback core => decide (core < 512)
  | .contextAreaReadback core task tid => decide (core < 512) && decide (task < 64) && decide (tid < 16)
  | .watchNotify core _ => decide (core < 512)
  | .timerExpiry u task => u.ok && decide (task < 64)
  | .taskEnd core task => decide (core < 512) && decide (task < 64)
  | .denseBankSwitch tile => decide (tile < 64)
  | .storeBufferDrain core => decide (core < 512)
  | .l1Eviction core set way => decide (core < 512) && decide (set < 256) && decide (way < 20)
  | .refusalTaken who => who.ok
  | .waypointRollback who _ => who.ok
  | .trapDrain tile => decide (tile < 64)
  | .park who _ _ _ _ _ => who.ok
  | .coreFence u _ => u.ok
  | .revocationApply u _ => u.ok
  | .revocationAck u _ => u.ok
  | .spillReturn core => decide (core < 512)
  | .laneFailure port lane => decide (port < 16) && decide (lane < 8)
  | .retrainComplete port _ => decide (port < 16)
  | .lctlFullRetrain port => decide (port < 16)
  | .lctlDisable port _ => decide (port < 16)
  | .flitArrival port _ _ => decide (port < 16)
  | .flitAck port _ => decide (port < 16)
  | .flowControlSignal port vc _ => decide (port < 16) && decide (vc < 6)
  | .replayTimeout port => decide (port < 16)
  | .packetArrival port _ => decide (port < 16)
  | .sweepMarker _ port vc => decide (port < 16) && decide (vc < 6)
  | _ => true

/-- An EVSEL of a counter that does not exist (R336). -/
def Instr.badCounter : Instr → Bool
  | .evsel _ _ n => decide (12 ≤ n.toNat)
  | _ => false

/-- The vector registers that an instruction's fields name (R227). -/
def Instr.vectorRegs : Instr → List (BitVec 5)
  | .ldv d _ _ _ _ | .stv d _ _ _ _ | .ldvs d _ _ _ _ _ | .stvs d _ _ _ _ _ | .radd d _ _ _ _ | .raddTable d _ _ _ _ => [d]
  | .vadd d a b _ _ _ | .vsub d a b _ _ _ | .vmul d a b _ _ _ | .vfma d a b _ _ _ | .vdiv d a b _ _ _
  | .vmin d a b _ _ _ | .vmax d a b _ _ _ | .vsca d a b _ _ _ => [d, a, b]
  | .vsel d a b _ _ | .vand d a b _ _ | .vor d a b _ _ | .vxor d a b _ _ | .vperm d a b _ _ => [d, a, b]
  | .vshf d a b _ _ _ => [d, a, b]
  | .vneg d a _ _ _ | .vexp2 d a _ _ _ | .vlog2 d a _ _ _ | .vrcp d a _ _ _ | .vrsq d a _ _ _ | .vsqrt d a _ _ _
  | .vcnt d a _ _ _ => [d, a]
  | .vcmp _ a b _ _ _ => [a, b]
  | .vcvt d a _ _ _ _ => [d, a]
  | .vred d a _ _ _ _ => [d, a]
  | .vbcst d _ _ _ | .viota d _ _ _ _ | .vmovxPut d _ _ _ | .vrng d _ _ => [d]
  | .vmovxGet _ a _ _ _ => [a]
  | .vpack d a _ _ _ _ | .vunpk d a _ _ _ _ => [d, a]
  | .mfda d _ _ _ | .mfdb d _ _ _ => [d]
  | .msa _ a b => [a, b]
  | .mspec _ a _ => [a]
  | .mrdv d _ _ _ => [d]
  | .mwrv _ a _ _ _ => [a]
  | _ => []

/-- The register fields that name an even and odd pair of vector registers (R316). -/
def Instr.recordPairs : Instr → List (BitVec 5)
  | .mfda d _ _ _ | .mfdb d _ _ _ => [d]
  | .msa _ a b => [a, b]
  | .mspec _ a _ => [a]
  | _ => []

/-- The groups of consecutive scalar registers that an instruction names, with their sizes (R280, R284, R319, R343). -/
def Instr.scalarGroups : Instr → List (BitVec 5 × Nat)
  | .luniq _ _ b => [(b, 2)]
  | .lred _ a _ _ _ => [(a, 3)]
  | .lscat _ a _ => [(a, 2)]
  | .lpart _ a b => [(a, 2), (b, 3)]
  | .lsend a b m => [(a, 2), (b, if m = 1#1 then 3 else 2)]
  | .lrecv _ a b => [(a, 2), (b, 2)]
  | .lexp _ a _ _ => [(a, 2)]
  | .lacc a _ => [(a, 2)]
  | .lcnt _ _ b => [(b, 2)]
  | .lsort _ _ b p => [(b, if p = 1#1 then 2 else 1)]
  | .lmrg _ a _ _ => [(a, 2)]
  | .lfilt _ a b _ => [(a, 2), (b, 2)]
  | .lzero _ _ b => [(b, 2)]
  | .lwb _ a _ => [(a, 2)]
  | .mfda _ a b _ | .mfdb _ a b _ => [(a, 2), (b, 2)]
  | .dreg a _ _ _ => [(a, 2)]
  | _ => []

/-- Every register field names a register of its file on the class (R221, R227, R280, R316). -/
def Instr.regsOk (c : CoreClass) (i : Instr) : Bool :=
  i.vectorRegs.all (fun r => c = .dense || decide (r.toNat ≤ 15)) &&
  i.recordPairs.all (fun r => r.getLsbD 0 = false) &&
  i.scalarGroups.all (fun g => decide (g.1.toNat + g.2 ≤ 32))

/-- State registers that only supervisor level may write (R352), sector selects included (R336). -/
def supervisorWritten (sr : Nat) : Bool :=
  sr = 0x02C || sr = 0x02D || sr = 0x02F || sr = 0x052 ||
  (decide (0x088 ≤ sr) && decide (sr ≤ 0x096) && sr % 2 = 0)

/-- State registers that only supervisor level may read (R352). -/
def supervisorRead (sr : Nat) : Bool := sr = 0x02C || sr = 0x02D || sr = 0x02F

/-- The instructions and forms that check 7 of R229 reserves to supervisor level (R231, R239). -/
def Instr.needsSupervisor : Instr → Bool
  | .gang _ _ | .gkeyAdd _ _ | .gkeyRm _ _ | .scrub _ _ _ _ | .halt _ => true
  | .srset _ r => supervisorWritten r.toNat
  | .srxch _ _ r => supervisorWritten r.toNat
  | .srget _ r => supervisorRead r.toNat
  | .evsel _ _ n => decide (4 ≤ n.toNat) && decide (n.toNat ≤ 11)
  | .trnsPhys _ _ _ _ => true
  | _ => false

end Sys2Proof
end

