-- ==== Sys2Proof/Decode.lean ====
section
/-! DEFINITION. Decoding and encoding of instruction words (R219 to R242): total on any word; each failing check is named
by the cause and detail of R229. -/

namespace Sys2Proof

/-- A failing decode check (R229): its cause and the detail code of R230. -/
structure DecodeError where
  cause : Nat
  detail : Nat
  deriving DecidableEq, Repr

/-- An allocated word taken apart: the instruction its fields give, its reserved bits that are set, and its register-field
bits beyond the register's file (R221). -/
structure Row where
  instr : Instr
  resv : Word
  reg : Word
  deriving DecidableEq, Repr

/-- The engine number of a word, bits [31:29] (R219). -/
def engineOf (w : Word) : Nat := (w.extractLsb' 29 3).toNat

/-- The top byte of a word (R238). -/
def topOf (w : Word) : Nat := (w.extractLsb' 24 8).toNat

/-- The opcodes of engine 0 (R238). -/
def rowScl (w : Word) : Option Row :=
  match (w.extractLsb' 24 5).toNat with
  | 0x00 => some (Row.mk (.nop) (w &&& 0x00FFFFFF#32 ^^^ 0x00000000#32) (w &&& 0x00000000#32))
  | 0x01 => some (Row.mk (.add (w.extractLsb' 19 5) (w.extractLsb' 14 5) (w.extractLsb' 9 5) (w.extractLsb' 0 3)) (w &&& 0x000001F8#32 ^^^ 0x00000000#32) (w &&& 0x00000000#32))
  | 0x02 => some (Row.mk (.sub (w.extractLsb' 19 5) (w.extractLsb' 14 5) (w.extractLsb' 9 5) (w.extractLsb' 0 3)) (w &&& 0x000001F8#32 ^^^ 0x00000000#32) (w &&& 0x00000000#32))
  | 0x03 => some (Row.mk (.addi (w.extractLsb' 19 5) (w.extractLsb' 14 5) (w.extractLsb' 0 14)) (w &&& 0x00000000#32 ^^^ 0x00000000#32) (w &&& 0x00000000#32))
  | 0x04 => some (Row.mk (.mul (w.extractLsb' 19 5) (w.extractLsb' 14 5) (w.extractLsb' 9 5)) (w &&& 0x000001FF#32 ^^^ 0x00000000#32) (w &&& 0x00000000#32))
  | 0x05 => some (Row.mk (.mulh (w.extractLsb' 19 5) (w.extractLsb' 14 5) (w.extractLsb' 9 5) (w.extractLsb' 0 1)) (w &&& 0x000001FE#32 ^^^ 0x00000000#32) (w &&& 0x00000000#32))
  | 0x06 => some (Row.mk (.div (w.extractLsb' 19 5) (w.extractLsb' 14 5) (w.extractLsb' 9 5) (w.extractLsb' 0 1)) (w &&& 0x000001FE#32 ^^^ 0x00000000#32) (w &&& 0x00000000#32))
  | 0x07 => some (Row.mk (.rem (w.extractLsb' 19 5) (w.extractLsb' 14 5) (w.extractLsb' 9 5) (w.extractLsb' 0 1)) (w &&& 0x000001FE#32 ^^^ 0x00000000#32) (w &&& 0x00000000#32))
  | 0x08 => some (Row.mk (.and (w.extractLsb' 19 5) (w.extractLsb' 14 5) (w.extractLsb' 9 5)) (w &&& 0x000001FF#32 ^^^ 0x00000000#32) (w &&& 0x00000000#32))
  | 0x09 => some (Row.mk (.or (w.extractLsb' 19 5) (w.extractLsb' 14 5) (w.extractLsb' 9 5)) (w &&& 0x000001FF#32 ^^^ 0x00000000#32) (w &&& 0x00000000#32))
  | 0x0A => some (Row.mk (.xor (w.extractLsb' 19 5) (w.extractLsb' 14 5) (w.extractLsb' 9 5)) (w &&& 0x000001FF#32 ^^^ 0x00000000#32) (w &&& 0x00000000#32))
  | 0x0B => some (Row.mk (.logi (w.extractLsb' 19 5) (w.extractLsb' 14 5) (w.extractLsb' 11 3) (w.extractLsb' 0 11)) (w &&& 0x00000000#32 ^^^ 0x00000000#32) (w &&& 0x00000000#32))
  | 0x0C => some (Row.mk (.shift (w.extractLsb' 19 5) (w.extractLsb' 14 5) (w.extractLsb' 9 5) (w.extractLsb' 0 2)) (w &&& 0x000001FC#32 ^^^ 0x00000000#32) (w &&& 0x00000000#32))
  | 0x0D => some (Row.mk (.shifti (w.extractLsb' 19 5) (w.extractLsb' 14 5) (w.extractLsb' 12 2) (w.extractLsb' 0 6)) (w &&& 0x00000FC0#32 ^^^ 0x00000000#32) (w &&& 0x00000000#32))
  | 0x0E => some (Row.mk (.cmp (w.extractLsb' 19 5) (w.extractLsb' 14 5) (w.extractLsb' 9 5) (w.extractLsb' 0 3)) (w &&& 0x000001F8#32 ^^^ 0x00000000#32) (w &&& 0x00000000#32))
  | 0x0F => some (Row.mk (.cmpi (w.extractLsb' 19 5) (w.extractLsb' 14 5) (w.extractLsb' 11 3) (w.extractLsb' 0 11)) (w &&& 0x00000000#32 ^^^ 0x00000000#32) (w &&& 0x00000000#32))
  | 0x10 => some (Row.mk (.min (w.extractLsb' 19 5) (w.extractLsb' 14 5) (w.extractLsb' 9 5) (w.extractLsb' 0 1)) (w &&& 0x000001FE#32 ^^^ 0x00000000#32) (w &&& 0x00000000#32))
  | 0x11 => some (Row.mk (.max (w.extractLsb' 19 5) (w.extractLsb' 14 5) (w.extractLsb' 9 5) (w.extractLsb' 0 1)) (w &&& 0x000001FE#32 ^^^ 0x00000000#32) (w &&& 0x00000000#32))
  | 0x12 => some (Row.mk (.sel (w.extractLsb' 19 5) (w.extractLsb' 14 5) (w.extractLsb' 9 5) (w.extractLsb' 5 3) (w.extractLsb' 0 5)) (w &&& 0x00000100#32 ^^^ 0x00000000#32) (w &&& 0x00000000#32))
  | 0x13 => some (Row.mk (.bitc (w.extractLsb' 19 5) (w.extractLsb' 14 5) (w.extractLsb' 2 1) (w.extractLsb' 0 2)) (w &&& 0x00003FF8#32 ^^^ 0x00000000#32) (w &&& 0x00000000#32))
  | 0x14 => some (Row.mk (.extr (w.extractLsb' 19 5) (w.extractLsb' 14 5) (w.extractLsb' 13 1) (w.extractLsb' 6 6) (w.extractLsb' 0 6)) (w &&& 0x00001000#32 ^^^ 0x00000000#32) (w &&& 0x00000000#32))
  | 0x15 => some (Row.mk (.insr (w.extractLsb' 19 5) (w.extractLsb' 14 5) (w.extractLsb' 6 6) (w.extractLsb' 0 6)) (w &&& 0x00003000#32 ^^^ 0x00000000#32) (w &&& 0x00000000#32))
  | 0x16 => some (Row.mk (.li (w.extractLsb' 19 5) (w.extractLsb' 0 19)) (w &&& 0x00000000#32 ^^^ 0x00000000#32) (w &&& 0x00000000#32))
  | 0x17 => some (Row.mk (.lih (w.extractLsb' 19 5) (w.extractLsb' 16 3) (w.extractLsb' 0 16)) (w &&& 0x00000000#32 ^^^ 0x00000000#32) (w &&& 0x00000000#32))
  | 0x18 => some (Row.mk (.br (w.extractLsb' 21 3) (w.extractLsb' 16 5) (w.extractLsb' 0 16)) (w &&& 0x00000000#32 ^^^ 0x00000000#32) (w &&& 0x00000000#32))
  | 0x19 => some (Row.mk (.jmp (w.extractLsb' 23 1) (w.extractLsb' 0 23)) (w &&& 0x00000000#32 ^^^ 0x00000000#32) (w &&& 0x00000000#32))
  | 0x1A => some (Row.mk (.jmpr (w.extractLsb' 19 5) (w.extractLsb' 14 5)) (w &&& 0x00003FFF#32 ^^^ 0x00000000#32) (w &&& 0x00000000#32))
  | 0x1B => some (Row.mk (.loop (w.extractLsb' 14 5) (w.extractLsb' 0 14)) (w &&& 0x00F80000#32 ^^^ 0x00000000#32) (w &&& 0x00000000#32))
  | 0x1C => some (Row.mk (.lexit (w.extractLsb' 14 5) (w.extractLsb' 0 3)) (w &&& 0x00F83FF8#32 ^^^ 0x00000000#32) (w &&& 0x00000000#32))
  | 0x1D => some (Row.mk (.lidx (w.extractLsb' 19 5) (w.extractLsb' 0 3)) (w &&& 0x0007FFF8#32 ^^^ 0x00000000#32) (w &&& 0x00000000#32))
  | _ => none

/-- The opcodes of engine 1 (R238). -/
def rowMem (w : Word) : Option Row :=
  match (w.extractLsb' 24 5).toNat with
  | 0x00 => some (Row.mk (.ld (w.extractLsb' 19 5) (w.extractLsb' 16 3) (w.extractLsb' 11 5) (w.extractLsb' 8 3) (w.extractLsb' 6 2) (w.extractLsb' 0 6)) (w &&& 0x00000000#32 ^^^ 0x00000000#32) (w &&& 0x00000000#32))
  | 0x01 => some (Row.mk (.st (w.extractLsb' 19 5) (w.extractLsb' 16 3) (w.extractLsb' 11 5) (w.extractLsb' 8 3) (w.extractLsb' 6 2) (w.extractLsb' 0 6)) (w &&& 0x00000000#32 ^^^ 0x00000000#32) (w &&& 0x00000000#32))
  | 0x02 => some (Row.mk (.ldv (w.extractLsb' 19 5) (w.extractLsb' 16 3) (w.extractLsb' 11 5) (w.extractLsb' 6 2) (w.extractLsb' 0 6)) (w &&& 0x00000700#32 ^^^ 0x00000000#32) (w &&& 0x00000000#32))
  | 0x03 => some (Row.mk (.stv (w.extractLsb' 19 5) (w.extractLsb' 16 3) (w.extractLsb' 11 5) (w.extractLsb' 6 2) (w.extractLsb' 0 6)) (w &&& 0x00000700#32 ^^^ 0x00000000#32) (w &&& 0x00000000#32))
  | 0x04 => some (Row.mk (.ldvs (w.extractLsb' 19 5) (w.extractLsb' 14 5) (w.extractLsb' 9 5) (w.extractLsb' 6 3) (w.extractLsb' 3 3) (w.extractLsb' 0 2)) (w &&& 0x00000004#32 ^^^ 0x00000000#32) (w &&& 0x00000000#32))
  | 0x05 => some (Row.mk (.stvs (w.extractLsb' 19 5) (w.extractLsb' 14 5) (w.extractLsb' 9 5) (w.extractLsb' 6 3) (w.extractLsb' 3 3) (w.extractLsb' 0 2)) (w &&& 0x00000004#32 ^^^ 0x00000000#32) (w &&& 0x00000000#32))
  | 0x06 =>
    if w.getLsbD 13 then some (Row.mk (.trnsPhys (w.extractLsb' 19 3) (w.extractLsb' 14 5) (w.extractLsb' 10 3) (w.extractLsb' 0 6)) (w &&& 0x000023C0#32 ^^^ 0x00002000#32) (w &&& 0x00C00000#32))
    else some (Row.mk (.trns (w.extractLsb' 19 3) (w.extractLsb' 14 5)) (w &&& 0x00003FFF#32 ^^^ 0x00000000#32) (w &&& 0x00C00000#32))
  | 0x07 => some (Row.mk (.hinv (w.extractLsb' 14 5) (w.extractLsb' 9 5) (w.extractLsb' 0 4)) (w &&& 0x00F801F0#32 ^^^ 0x00000000#32) (w &&& 0x00000000#32))
  | 0x08 => some (Row.mk (.hop (w.extractLsb' 19 5) (w.extractLsb' 3 3) (w.extractLsb' 0 3)) (w &&& 0x0007FFC0#32 ^^^ 0x00000000#32) (w &&& 0x00000000#32))
  | 0x09 => some (Row.mk (.drop (w.extractLsb' 14 5) (w.extractLsb' 9 5)) (w &&& 0x00F801FF#32 ^^^ 0x00000000#32) (w &&& 0x00000000#32))
  | 0x0A => some (Row.mk (.amo (w.extractLsb' 19 5) (w.extractLsb' 14 5) (w.extractLsb' 9 5) (w.extractLsb' 6 3) (w.extractLsb' 4 2) (w.extractLsb' 3 1) (w.extractLsb' 0 3)) (w &&& 0x00000000#32 ^^^ 0x00000000#32) (w &&& 0x00000000#32))
  | 0x0B => some (Row.mk (.cas (w.extractLsb' 19 5) (w.extractLsb' 14 5) (w.extractLsb' 9 5) (w.extractLsb' 6 3) (w.extractLsb' 4 2) (w.extractLsb' 3 1)) (w &&& 0x00000007#32 ^^^ 0x00000000#32) (w &&& 0x00000000#32))
  | 0x0C =>
    if w.getLsbD 5 then some (Row.mk (.raddTable (w.extractLsb' 19 5) (w.extractLsb' 14 5) (w.extractLsb' 9 5) (w.extractLsb' 3 2) (w.extractLsb' 0 3)) (w &&& 0x000001E0#32 ^^^ 0x00000020#32) (w &&& 0x00000000#32))
    else some (Row.mk (.radd (w.extractLsb' 19 5) (w.extractLsb' 14 5) (w.extractLsb' 6 3) (w.extractLsb' 3 2) (w.extractLsb' 0 3)) (w &&& 0x00003E20#32 ^^^ 0x00000000#32) (w &&& 0x00000000#32))
  | 0x0D => some (Row.mk (.rst (w.extractLsb' 19 5) (w.extractLsb' 16 3) (w.extractLsb' 11 5) (w.extractLsb' 8 3) (w.extractLsb' 6 2) (w.extractLsb' 0 6)) (w &&& 0x00000000#32 ^^^ 0x00000000#32) (w &&& 0x00000000#32))
  | 0x0E =>
    if w.extractLsb' 19 5 = 0#5 then some (Row.mk (.rldMigrate (w.extractLsb' 16 3) (w.extractLsb' 11 5) (w.extractLsb' 8 3) (w.extractLsb' 0 6)) (w &&& 0x00F800C0#32 ^^^ 0x00000000#32) (w &&& 0x00000000#32))
    else some (Row.mk (.rld (w.extractLsb' 19 5) (w.extractLsb' 16 3) (w.extractLsb' 11 5) (w.extractLsb' 8 3) (w.extractLsb' 6 2) (w.extractLsb' 0 6)) (w &&& 0x00000000#32 ^^^ 0x00000000#32) (w &&& 0x00000000#32))
  | 0x0F => some (Row.mk (.fence (w.extractLsb' 4 8) (w.extractLsb' 0 4)) (w &&& 0x00FFF000#32 ^^^ 0x00000000#32) (w &&& 0x00000000#32))
  | 0x10 => some (Row.mk (.msarm (w.extractLsb' 14 5) (w.extractLsb' 9 5) (w.extractLsb' 6 3) (w.extractLsb' 0 1)) (w &&& 0x00F8003E#32 ^^^ 0x00000000#32) (w &&& 0x00000000#32))
  | 0x11 => some (Row.mk (.mswait (w.extractLsb' 19 5) (w.extractLsb' 14 5) (w.extractLsb' 9 5) (w.extractLsb' 6 3)) (w &&& 0x0000003F#32 ^^^ 0x00000000#32) (w &&& 0x00000000#32))
  | 0x12 => some (Row.mk (.mspost (w.extractLsb' 14 5) (w.extractLsb' 9 5) (w.extractLsb' 6 3)) (w &&& 0x00F8003F#32 ^^^ 0x00000000#32) (w &&& 0x00000000#32))
  | 0x13 => some (Row.mk (.rbind (w.extractLsb' 19 5) (w.extractLsb' 14 5) (w.extractLsb' 9 5) (w.extractLsb' 6 3) (w.extractLsb' 2 1) (w.extractLsb' 1 1) (w.extractLsb' 0 1)) (w &&& 0x00000038#32 ^^^ 0x00000000#32) (w &&& 0x00000000#32))
  | 0x14 => some (Row.mk (.rfree (w.extractLsb' 14 5)) (w &&& 0x00F83FFF#32 ^^^ 0x00000000#32) (w &&& 0x00000000#32))
  | 0x15 => some (Row.mk (.rmap (w.extractLsb' 14 5) (w.extractLsb' 9 5)) (w &&& 0x00F801FF#32 ^^^ 0x00000000#32) (w &&& 0x00000000#32))
  | 0x16 => some (Row.mk (.rdone (w.extractLsb' 14 5)) (w &&& 0x00F83FFF#32 ^^^ 0x00000000#32) (w &&& 0x00000000#32))
  | 0x17 =>
    if w.getLsbD 5 then some (Row.mk (.lstnCancel (w.extractLsb' 19 5)) (w &&& 0x0007FFFF#32 ^^^ 0x00000020#32) (w &&& 0x00000000#32))
    else some (Row.mk (.lstn (w.extractLsb' 19 5) (w.extractLsb' 14 5) (w.extractLsb' 9 5) (w.extractLsb' 6 3) (w.extractLsb' 0 3)) (w &&& 0x00000038#32 ^^^ 0x00000000#32) (w &&& 0x00000000#32))
  | 0x18 => some (Row.mk (.annc (w.extractLsb' 19 5) (w.extractLsb' 14 5) (w.extractLsb' 9 5)) (w &&& 0x000001FF#32 ^^^ 0x00000000#32) (w &&& 0x00000000#32))
  | 0x19 => some (Row.mk (.wpb (w.extractLsb' 19 5)) (w &&& 0x0007FFFF#32 ^^^ 0x00000000#32) (w &&& 0x00000000#32))
  | 0x1A => some (Row.mk (.wpc) (w &&& 0x00FFFFFF#32 ^^^ 0x00000000#32) (w &&& 0x00000000#32))
  | 0x1B => some (Row.mk (.pfl (w.extractLsb' 19 5) (w.extractLsb' 16 3) (w.extractLsb' 11 5) (w.extractLsb' 0 6)) (w &&& 0x000007C0#32 ^^^ 0x00000000#32) (w &&& 0x00000000#32))
  | 0x1C => some (Row.mk (.plu (w.extractLsb' 16 3) (w.extractLsb' 11 5) (w.extractLsb' 0 6)) (w &&& 0x00F807C0#32 ^^^ 0x00000000#32) (w &&& 0x00000000#32))
  | 0x1D => some (Row.mk (.mstest (w.extractLsb' 19 5) (w.extractLsb' 14 5) (w.extractLsb' 6 3)) (w &&& 0x00003E3F#32 ^^^ 0x00000000#32) (w &&& 0x00000000#32))
  | _ => none

/-- The opcodes of engine 2 (R238). -/
def rowLkp (w : Word) : Option Row :=
  match (w.extractLsb' 24 5).toNat with
  | 0x00 =>
    if w.extractLsb' 0 2 = 1#2 then some (Row.mk (.ltabInst (w.extractLsb' 19 5) (w.extractLsb' 14 5)) (w &&& 0x00003FFF#32 ^^^ 0x00000001#32) (w &&& 0x00000000#32))
    else if w.extractLsb' 0 2 = 2#2 then some (Row.mk (.ltabRm (w.extractLsb' 19 5) (w.extractLsb' 14 5)) (w &&& 0x00003FFF#32 ^^^ 0x00000002#32) (w &&& 0x00000000#32))
    else some (Row.mk (.ltabSel (w.extractLsb' 19 5) (w.extractLsb' 14 5)) (w &&& 0x00003FFF#32 ^^^ 0x00000000#32) (w &&& 0x00000000#32))
  | 0x01 => some (Row.mk (.lgath (w.extractLsb' 19 5) (w.extractLsb' 14 5) (w.extractLsb' 9 5)) (w &&& 0x000001FF#32 ^^^ 0x00000000#32) (w &&& 0x00000000#32))
  | 0x02 => some (Row.mk (.luniq (w.extractLsb' 19 5) (w.extractLsb' 14 5) (w.extractLsb' 9 5)) (w &&& 0x000001FF#32 ^^^ 0x00000000#32) (w &&& 0x00000000#32))
  | 0x03 => some (Row.mk (.lred (w.extractLsb' 19 5) (w.extractLsb' 14 5) (w.extractLsb' 9 5) (w.extractLsb' 3 1) (w.extractLsb' 0 3)) (w &&& 0x000001F0#32 ^^^ 0x00000000#32) (w &&& 0x00000000#32))
  | 0x04 => some (Row.mk (.lscat (w.extractLsb' 19 5) (w.extractLsb' 14 5) (w.extractLsb' 9 5)) (w &&& 0x000001FF#32 ^^^ 0x00000000#32) (w &&& 0x00000000#32))
  | 0x05 => some (Row.mk (.lseg (w.extractLsb' 19 5) (w.extractLsb' 14 5) (w.extractLsb' 9 5)) (w &&& 0x000001FF#32 ^^^ 0x00000000#32) (w &&& 0x00000000#32))
  | 0x06 => some (Row.mk (.lhome (w.extractLsb' 19 5) (w.extractLsb' 14 5) (w.extractLsb' 9 5) (w.extractLsb' 0 1)) (w &&& 0x000001FE#32 ^^^ 0x00000000#32) (w &&& 0x00000000#32))
  | 0x07 => some (Row.mk (.lpart (w.extractLsb' 19 5) (w.extractLsb' 14 5) (w.extractLsb' 9 5)) (w &&& 0x000001FF#32 ^^^ 0x00000000#32) (w &&& 0x00000000#32))
  | 0x08 => some (Row.mk (.lsend (w.extractLsb' 14 5) (w.extractLsb' 9 5) (w.extractLsb' 0 1)) (w &&& 0x00F801FE#32 ^^^ 0x00000000#32) (w &&& 0x00000000#32))
  | 0x09 => some (Row.mk (.lrecv (w.extractLsb' 19 5) (w.extractLsb' 14 5) (w.extractLsb' 9 5)) (w &&& 0x000001FF#32 ^^^ 0x00000000#32) (w &&& 0x00000000#32))
  | 0x0A => some (Row.mk (.lexp (w.extractLsb' 19 5) (w.extractLsb' 14 5) (w.extractLsb' 9 5) (w.extractLsb' 0 3)) (w &&& 0x000001F8#32 ^^^ 0x00000000#32) (w &&& 0x00000000#32))
  | 0x0B => some (Row.mk (.lacc (w.extractLsb' 14 5) (w.extractLsb' 0 1)) (w &&& 0x00F83FFE#32 ^^^ 0x00000000#32) (w &&& 0x00000000#32))
  | 0x0C => some (Row.mk (.lcnt (w.extractLsb' 19 5) (w.extractLsb' 14 5) (w.extractLsb' 9 5)) (w &&& 0x000001FF#32 ^^^ 0x00000000#32) (w &&& 0x00000000#32))
  | 0x0D => some (Row.mk (.lsort (w.extractLsb' 19 5) (w.extractLsb' 14 5) (w.extractLsb' 9 5) (w.extractLsb' 0 1)) (w &&& 0x000001FE#32 ^^^ 0x00000000#32) (w &&& 0x00000000#32))
  | 0x0E => some (Row.mk (.lmrg (w.extractLsb' 19 5) (w.extractLsb' 14 5) (w.extractLsb' 9 5) (w.extractLsb' 0 2)) (w &&& 0x000001FC#32 ^^^ 0x00000000#32) (w &&& 0x00000000#32))
  | 0x0F => some (Row.mk (.lfilt (w.extractLsb' 19 5) (w.extractLsb' 14 5) (w.extractLsb' 9 5) (w.extractLsb' 0 1)) (w &&& 0x000001FE#32 ^^^ 0x00000000#32) (w &&& 0x00000000#32))
  | 0x10 => some (Row.mk (.lzero (w.extractLsb' 19 5) (w.extractLsb' 14 5) (w.extractLsb' 9 5)) (w &&& 0x000001FF#32 ^^^ 0x00000000#32) (w &&& 0x00000000#32))
  | 0x11 => some (Row.mk (.lstep (w.extractLsb' 19 5) (w.extractLsb' 14 5) (w.extractLsb' 0 14)) (w &&& 0x00000000#32 ^^^ 0x00000000#32) (w &&& 0x00000000#32))
  | 0x12 => some (Row.mk (.lpeek (w.extractLsb' 19 5) (w.extractLsb' 14 5) (w.extractLsb' 9 5)) (w &&& 0x000001FF#32 ^^^ 0x00000000#32) (w &&& 0x00000000#32))
  | 0x13 => some (Row.mk (.lwb (w.extractLsb' 19 5) (w.extractLsb' 14 5) (w.extractLsb' 9 5)) (w &&& 0x000001FF#32 ^^^ 0x00000000#32) (w &&& 0x00000000#32))
  | _ => none

/-- The opcodes of engine 3 (R238). -/
def rowVec (w : Word) : Option Row :=
  match (w.extractLsb' 24 5).toNat with
  | 0x00 => some (Row.mk (.vadd (w.extractLsb' 19 5) (w.extractLsb' 14 5) (w.extractLsb' 9 5) (w.extractLsb' 6 3) (w.extractLsb' 3 3) (w.extractLsb' 0 3)) (w &&& 0x00000000#32 ^^^ 0x00000000#32) (w &&& 0x00000000#32))
  | 0x01 => some (Row.mk (.vsub (w.extractLsb' 19 5) (w.extractLsb' 14 5) (w.extractLsb' 9 5) (w.extractLsb' 6 3) (w.extractLsb' 3 3) (w.extractLsb' 0 3)) (w &&& 0x00000000#32 ^^^ 0x00000000#32) (w &&& 0x00000000#32))
  | 0x02 => some (Row.mk (.vmul (w.extractLsb' 19 5) (w.extractLsb' 14 5) (w.extractLsb' 9 5) (w.extractLsb' 6 3) (w.extractLsb' 3 3) (w.extractLsb' 0 3)) (w &&& 0x00000000#32 ^^^ 0x00000000#32) (w &&& 0x00000000#32))
  | 0x03 => some (Row.mk (.vfma (w.extractLsb' 19 5) (w.extractLsb' 14 5) (w.extractLsb' 9 5) (w.extractLsb' 6 3) (w.extractLsb' 3 3) (w.extractLsb' 0 3)) (w &&& 0x00000000#32 ^^^ 0x00000000#32) (w &&& 0x00000000#32))
  | 0x04 => some (Row.mk (.vdiv (w.extractLsb' 19 5) (w.extractLsb' 14 5) (w.extractLsb' 9 5) (w.extractLsb' 6 3) (w.extractLsb' 3 3) (w.extractLsb' 0 3)) (w &&& 0x00000000#32 ^^^ 0x00000000#32) (w &&& 0x00000000#32))
  | 0x05 => some (Row.mk (.vmin (w.extractLsb' 19 5) (w.extractLsb' 14 5) (w.extractLsb' 9 5) (w.extractLsb' 6 3) (w.extractLsb' 3 3) (w.extractLsb' 0 3)) (w &&& 0x00000000#32 ^^^ 0x00000000#32) (w &&& 0x00000000#32))
  | 0x06 => some (Row.mk (.vmax (w.extractLsb' 19 5) (w.extractLsb' 14 5) (w.extractLsb' 9 5) (w.extractLsb' 6 3) (w.extractLsb' 3 3) (w.extractLsb' 0 3)) (w &&& 0x00000000#32 ^^^ 0x00000000#32) (w &&& 0x00000000#32))
  | 0x07 => some (Row.mk (.vneg (w.extractLsb' 19 5) (w.extractLsb' 14 5) (w.extractLsb' 6 3) (w.extractLsb' 3 3) (w.extractLsb' 0 3)) (w &&& 0x00003E00#32 ^^^ 0x00000000#32) (w &&& 0x00000000#32))
  | 0x08 => some (Row.mk (.vcmp (w.extractLsb' 19 3) (w.extractLsb' 14 5) (w.extractLsb' 9 5) (w.extractLsb' 6 3) (w.extractLsb' 3 3) (w.extractLsb' 0 3)) (w &&& 0x00000000#32 ^^^ 0x00000000#32) (w &&& 0x00C00000#32))
  | 0x09 => some (Row.mk (.vsel (w.extractLsb' 19 5) (w.extractLsb' 14 5) (w.extractLsb' 9 5) (w.extractLsb' 6 3) (w.extractLsb' 3 3)) (w &&& 0x00000007#32 ^^^ 0x00000000#32) (w &&& 0x00000000#32))
  | 0x0A => some (Row.mk (.vand (w.extractLsb' 19 5) (w.extractLsb' 14 5) (w.extractLsb' 9 5) (w.extractLsb' 6 3) (w.extractLsb' 3 3)) (w &&& 0x00000007#32 ^^^ 0x00000000#32) (w &&& 0x00000000#32))
  | 0x0B => some (Row.mk (.vor (w.extractLsb' 19 5) (w.extractLsb' 14 5) (w.extractLsb' 9 5) (w.extractLsb' 6 3) (w.extractLsb' 3 3)) (w &&& 0x00000007#32 ^^^ 0x00000000#32) (w &&& 0x00000000#32))
  | 0x0C => some (Row.mk (.vxor (w.extractLsb' 19 5) (w.extractLsb' 14 5) (w.extractLsb' 9 5) (w.extractLsb' 6 3) (w.extractLsb' 3 3)) (w &&& 0x00000007#32 ^^^ 0x00000000#32) (w &&& 0x00000000#32))
  | 0x0D => some (Row.mk (.vshf (w.extractLsb' 19 5) (w.extractLsb' 14 5) (w.extractLsb' 9 5) (w.extractLsb' 6 3) (w.extractLsb' 3 3) (w.extractLsb' 0 2)) (w &&& 0x00000004#32 ^^^ 0x00000000#32) (w &&& 0x00000000#32))
  | 0x0E => some (Row.mk (.vcvt (w.extractLsb' 19 5) (w.extractLsb' 14 5) (w.extractLsb' 10 4) (w.extractLsb' 6 4) (w.extractLsb' 3 3) (w.extractLsb' 0 3)) (w &&& 0x00000000#32 ^^^ 0x00000000#32) (w &&& 0x00000000#32))
  | 0x0F => some (Row.mk (.vsca (w.extractLsb' 19 5) (w.extractLsb' 14 5) (w.extractLsb' 9 5) (w.extractLsb' 6 3) (w.extractLsb' 3 3) (w.extractLsb' 0 3)) (w &&& 0x00000000#32 ^^^ 0x00000000#32) (w &&& 0x00000000#32))
  | 0x10 => some (Row.mk (.vred (w.extractLsb' 19 5) (w.extractLsb' 14 5) (w.extractLsb' 9 3) (w.extractLsb' 6 3) (w.extractLsb' 3 3) (w.extractLsb' 0 3)) (w &&& 0x00003000#32 ^^^ 0x00000000#32) (w &&& 0x00000000#32))
  | 0x11 => some (Row.mk (.vbcst (w.extractLsb' 19 5) (w.extractLsb' 14 5) (w.extractLsb' 6 3) (w.extractLsb' 3 3)) (w &&& 0x00003E07#32 ^^^ 0x00000000#32) (w &&& 0x00000000#32))
  | 0x12 =>
    if w.getLsbD 1 then some (Row.mk (.vmovxPut (w.extractLsb' 19 5) (w.extractLsb' 14 5) (w.extractLsb' 9 5) (w.extractLsb' 6 3)) (w &&& 0x0000003F#32 ^^^ 0x00000002#32) (w &&& 0x00000000#32))
    else some (Row.mk (.vmovxGet (w.extractLsb' 19 5) (w.extractLsb' 14 5) (w.extractLsb' 9 5) (w.extractLsb' 6 3) (w.extractLsb' 0 1)) (w &&& 0x0000003E#32 ^^^ 0x00000000#32) (w &&& 0x00000000#32))
  | 0x13 => some (Row.mk (.vperm (w.extractLsb' 19 5) (w.extractLsb' 14 5) (w.extractLsb' 9 5) (w.extractLsb' 6 3) (w.extractLsb' 3 3)) (w &&& 0x00000007#32 ^^^ 0x00000000#32) (w &&& 0x00000000#32))
  | 0x14 => some (Row.mk (.vexp2 (w.extractLsb' 19 5) (w.extractLsb' 14 5) (w.extractLsb' 6 3) (w.extractLsb' 3 3) (w.extractLsb' 0 3)) (w &&& 0x00003E00#32 ^^^ 0x00000000#32) (w &&& 0x00000000#32))
  | 0x15 => some (Row.mk (.vlog2 (w.extractLsb' 19 5) (w.extractLsb' 14 5) (w.extractLsb' 6 3) (w.extractLsb' 3 3) (w.extractLsb' 0 3)) (w &&& 0x00003E00#32 ^^^ 0x00000000#32) (w &&& 0x00000000#32))
  | 0x16 => some (Row.mk (.vrcp (w.extractLsb' 19 5) (w.extractLsb' 14 5) (w.extractLsb' 6 3) (w.extractLsb' 3 3) (w.extractLsb' 0 3)) (w &&& 0x00003E00#32 ^^^ 0x00000000#32) (w &&& 0x00000000#32))
  | 0x17 => some (Row.mk (.vrsq (w.extractLsb' 19 5) (w.extractLsb' 14 5) (w.extractLsb' 6 3) (w.extractLsb' 3 3) (w.extractLsb' 0 3)) (w &&& 0x00003E00#32 ^^^ 0x00000000#32) (w &&& 0x00000000#32))
  | 0x18 => some (Row.mk (.vsqrt (w.extractLsb' 19 5) (w.extractLsb' 14 5) (w.extractLsb' 6 3) (w.extractLsb' 3 3) (w.extractLsb' 0 3)) (w &&& 0x00003E00#32 ^^^ 0x00000000#32) (w &&& 0x00000000#32))
  | 0x19 => some (Row.mk (.viota (w.extractLsb' 19 5) (w.extractLsb' 14 5) (w.extractLsb' 9 5) (w.extractLsb' 6 3) (w.extractLsb' 3 3)) (w &&& 0x00000007#32 ^^^ 0x00000000#32) (w &&& 0x00000000#32))
  | 0x1A => some (Row.mk (.vcnt (w.extractLsb' 19 5) (w.extractLsb' 14 5) (w.extractLsb' 6 3) (w.extractLsb' 3 3) (w.extractLsb' 0 3)) (w &&& 0x00003E00#32 ^^^ 0x00000000#32) (w &&& 0x00000000#32))
  | 0x1B => some (Row.mk (.vpack (w.extractLsb' 19 5) (w.extractLsb' 14 5) (w.extractLsb' 9 5) (w.extractLsb' 6 3) (w.extractLsb' 3 2) (w.extractLsb' 0 3)) (w &&& 0x00000020#32 ^^^ 0x00000000#32) (w &&& 0x00000000#32))
  | 0x1C => some (Row.mk (.vunpk (w.extractLsb' 19 5) (w.extractLsb' 14 5) (w.extractLsb' 9 5) (w.extractLsb' 6 3) (w.extractLsb' 3 2) (w.extractLsb' 0 3)) (w &&& 0x00000020#32 ^^^ 0x00000000#32) (w &&& 0x00000000#32))
  | 0x1D => some (Row.mk (.vrng (w.extractLsb' 19 5) (w.extractLsb' 6 3) (w.extractLsb' 3 3)) (w &&& 0x0007FE07#32 ^^^ 0x00000000#32) (w &&& 0x00000000#32))
  | 0x1E => some (Row.mk (.vkop (w.extractLsb' 19 3) (w.extractLsb' 14 3) (w.extractLsb' 9 3) (w.extractLsb' 6 3)) (w &&& 0x0000003F#32 ^^^ 0x00000000#32) (w &&& 0x00C63000#32))
  | 0x1F => some (Row.mk (.vsetl (w.extractLsb' 19 5) (w.extractLsb' 14 5) (w.extractLsb' 11 3)) (w &&& 0x000007FF#32 ^^^ 0x00000000#32) (w &&& 0x00000000#32))
  | _ => none

/-- The opcodes of engine 4 (R238). -/
def rowMtx (w : Word) : Option Row :=
  match (w.extractLsb' 24 5).toNat with
  | 0x00 => some (Row.mk (.mcfg (w.extractLsb' 19 5) (w.extractLsb' 14 5)) (w &&& 0x00003FFF#32 ^^^ 0x00000000#32) (w &&& 0x00000000#32))
  | 0x01 => some (Row.mk (.mfda (w.extractLsb' 19 5) (w.extractLsb' 14 5) (w.extractLsb' 9 5) (w.extractLsb' 6 1)) (w &&& 0x000001BF#32 ^^^ 0x00000000#32) (w &&& 0x00000000#32))
  | 0x02 => some (Row.mk (.mfdb (w.extractLsb' 19 5) (w.extractLsb' 14 5) (w.extractLsb' 9 5) (w.extractLsb' 6 1)) (w &&& 0x000001BF#32 ^^^ 0x00000000#32) (w &&& 0x00000000#32))
  | 0x03 => some (Row.mk (.msq (w.extractLsb' 19 1) (w.extractLsb' 14 1) (w.extractLsb' 9 1)) (w &&& 0x000001FF#32 ^^^ 0x00000000#32) (w &&& 0x00F7BC00#32))
  | 0x04 => some (Row.mk (.mhem (w.extractLsb' 14 1)) (w &&& 0x00F83FFF#32 ^^^ 0x00000000#32) (w &&& 0x00078000#32))
  | 0x05 => some (Row.mk (.msa (w.extractLsb' 19 2) (w.extractLsb' 14 5) (w.extractLsb' 9 5)) (w &&& 0x000001FF#32 ^^^ 0x00000000#32) (w &&& 0x00E00000#32))
  | 0x06 => some (Row.mk (.mchk) (w &&& 0x00FFFFFF#32 ^^^ 0x00000000#32) (w &&& 0x00000000#32))
  | 0x07 => some (Row.mk (.mzero (w.extractLsb' 19 2)) (w &&& 0x0007FFFF#32 ^^^ 0x00000000#32) (w &&& 0x00E00000#32))
  | 0x08 => some (Row.mk (.mst (w.extractLsb' 19 2) (w.extractLsb' 14 5) (w.extractLsb' 9 5) (w.extractLsb' 6 3) (w.extractLsb' 0 5)) (w &&& 0x00000020#32 ^^^ 0x00000000#32) (w &&& 0x00E00000#32))
  | 0x09 => some (Row.mk (.mld (w.extractLsb' 19 2) (w.extractLsb' 14 5) (w.extractLsb' 9 5) (w.extractLsb' 0 5)) (w &&& 0x000001E0#32 ^^^ 0x00000000#32) (w &&& 0x00E00000#32))
  | 0x0A => some (Row.mk (.mswap (w.extractLsb' 19 2) (w.extractLsb' 14 2)) (w &&& 0x00003FFF#32 ^^^ 0x00000000#32) (w &&& 0x00E70000#32))
  | 0x0B => some (Row.mk (.mspec (w.extractLsb' 19 5) (w.extractLsb' 14 5) (w.extractLsb' 0 1)) (w &&& 0x00003FFE#32 ^^^ 0x00000000#32) (w &&& 0x00000000#32))
  | 0x0C => some (Row.mk (.mrdv (w.extractLsb' 19 5) (w.extractLsb' 14 2) (w.extractLsb' 9 5) (w.extractLsb' 0 1)) (w &&& 0x000001FE#32 ^^^ 0x00000000#32) (w &&& 0x00070000#32))
  | 0x0D => some (Row.mk (.mwrv (w.extractLsb' 19 2) (w.extractLsb' 14 5) (w.extractLsb' 9 5) (w.extractLsb' 1 1) (w.extractLsb' 0 1)) (w &&& 0x000001FC#32 ^^^ 0x00000000#32) (w &&& 0x00E00000#32))
  | _ => none

/-- The opcodes of engine 5 (R238). -/
def rowCpy (w : Word) : Option Row :=
  match (w.extractLsb' 24 5).toNat with
  | 0x00 => some (Row.mk (.cpl (w.extractLsb' 19 5) (w.extractLsb' 14 5) (w.extractLsb' 0 14)) (w &&& 0x00000000#32 ^^^ 0x00000000#32) (w &&& 0x00000000#32))
  | 0x01 => some (Row.mk (.cps (w.extractLsb' 19 5) (w.extractLsb' 14 5) (w.extractLsb' 0 14)) (w &&& 0x00000000#32 ^^^ 0x00000000#32) (w &&& 0x00000000#32))
  | 0x02 => some (Row.mk (.cpg (w.extractLsb' 19 5) (w.extractLsb' 14 5) (w.extractLsb' 0 14)) (w &&& 0x00000000#32 ^^^ 0x00000000#32) (w &&& 0x00000000#32))
  | 0x03 => some (Row.mk (.cpx (w.extractLsb' 19 5) (w.extractLsb' 14 5) (w.extractLsb' 0 14)) (w &&& 0x00000000#32 ^^^ 0x00000000#32) (w &&& 0x00000000#32))
  | 0x04 => some (Row.mk (.cpbc (w.extractLsb' 19 5) (w.extractLsb' 14 5) (w.extractLsb' 0 14)) (w &&& 0x00000000#32 ^^^ 0x00000000#32) (w &&& 0x00000000#32))
  | 0x05 => some (Row.mk (.cpmc (w.extractLsb' 19 5) (w.extractLsb' 14 5) (w.extractLsb' 0 14)) (w &&& 0x00000000#32 ^^^ 0x00000000#32) (w &&& 0x00000000#32))
  | 0x06 => some (Row.mk (.cpqt (w.extractLsb' 19 5) (w.extractLsb' 14 5) (w.extractLsb' 0 14)) (w &&& 0x00000000#32 ^^^ 0x00000000#32) (w &&& 0x00000000#32))
  | 0x07 => some (Row.mk (.cpfl (w.extractLsb' 19 5) (w.extractLsb' 14 5) (w.extractLsb' 0 14)) (w &&& 0x00000000#32 ^^^ 0x00000000#32) (w &&& 0x00000000#32))
  | 0x08 => some (Row.mk (.cpof (w.extractLsb' 19 5) (w.extractLsb' 14 5) (w.extractLsb' 0 14)) (w &&& 0x00000000#32 ^^^ 0x00000000#32) (w &&& 0x00000000#32))
  | 0x09 => some (Row.mk (.cpin (w.extractLsb' 19 5) (w.extractLsb' 14 5) (w.extractLsb' 0 14)) (w &&& 0x00000000#32 ^^^ 0x00000000#32) (w &&& 0x00000000#32))
  | 0x0A => some (Row.mk (.cseal (w.extractLsb' 19 5)) (w &&& 0x0007FFFF#32 ^^^ 0x00000000#32) (w &&& 0x00000000#32))
  | 0x0B =>
    if w.getLsbD 13 then some (Row.mk (.cwaitTok (w.extractLsb' 19 5) (w.extractLsb' 14 5)) (w &&& 0x00003FFF#32 ^^^ 0x00002000#32) (w &&& 0x00000000#32))
    else some (Row.mk (.cwait (w.extractLsb' 0 6)) (w &&& 0x00FFFFC0#32 ^^^ 0x00000000#32) (w &&& 0x00000000#32))
  | 0x0C => some (Row.mk (.cstat (w.extractLsb' 19 5) (w.extractLsb' 14 5) (w.extractLsb' 0 1)) (w &&& 0x00003FFE#32 ^^^ 0x00000000#32) (w &&& 0x00000000#32))
  | 0x0D => some (Row.mk (.ccan (w.extractLsb' 14 5) (w.extractLsb' 0 1)) (w &&& 0x00F83FFE#32 ^^^ 0x00000000#32) (w &&& 0x00000000#32))
  | 0x0E => some (Row.mk (.ctok (w.extractLsb' 19 5) (w.extractLsb' 14 5)) (w &&& 0x00003FFF#32 ^^^ 0x00000000#32) (w &&& 0x00000000#32))
  | 0x0F => some (Row.mk (.cpri (w.extractLsb' 0 2)) (w &&& 0x00FFFFFC#32 ^^^ 0x00000000#32) (w &&& 0x00000000#32))
  | 0x10 => some (Row.mk (.cpck (w.extractLsb' 19 5) (w.extractLsb' 14 5) (w.extractLsb' 0 14)) (w &&& 0x00000000#32 ^^^ 0x00000000#32) (w &&& 0x00000000#32))
  | 0x11 => some (Row.mk (.cpmg (w.extractLsb' 19 5) (w.extractLsb' 14 5) (w.extractLsb' 0 14)) (w &&& 0x00000000#32 ^^^ 0x00000000#32) (w &&& 0x00000000#32))
  | 0x12 => some (Row.mk (.cpvl (w.extractLsb' 19 5) (w.extractLsb' 14 5) (w.extractLsb' 0 14)) (w &&& 0x00000000#32 ^^^ 0x00000000#32) (w &&& 0x00000000#32))
  | 0x13 => some (Row.mk (.cbko (w.extractLsb' 19 5) (w.extractLsb' 14 5)) (w &&& 0x00003FFF#32 ^^^ 0x00000000#32) (w &&& 0x00000000#32))
  | _ => none

/-- The opcodes of engine 6 (R238). -/
def rowSys (w : Word) : Option Row :=
  match (w.extractLsb' 24 5).toNat with
  | 0x00 => some (Row.mk (.trap (w.extractLsb' 0 14)) (w &&& 0x00FFC000#32 ^^^ 0x00000000#32) (w &&& 0x00000000#32))
  | 0x01 => some (Row.mk (.tret) (w &&& 0x00FFFFFF#32 ^^^ 0x00000000#32) (w &&& 0x00000000#32))
  | 0x02 => some (Row.mk (.srget (w.extractLsb' 19 5) (w.extractLsb' 0 12)) (w &&& 0x0007F000#32 ^^^ 0x00000000#32) (w &&& 0x00000000#32))
  | 0x03 => some (Row.mk (.srset (w.extractLsb' 14 5) (w.extractLsb' 0 12)) (w &&& 0x00F83000#32 ^^^ 0x00000000#32) (w &&& 0x00000000#32))
  | 0x04 => some (Row.mk (.srxch (w.extractLsb' 19 5) (w.extractLsb' 14 5) (w.extractLsb' 0 12)) (w &&& 0x00003000#32 ^^^ 0x00000000#32) (w &&& 0x00000000#32))
  | 0x05 => some (Row.mk (.wait) (w &&& 0x00FFFFFF#32 ^^^ 0x00000000#32) (w &&& 0x00000000#32))
  | 0x06 => some (Row.mk (.yield) (w &&& 0x00FFFFFF#32 ^^^ 0x00000000#32) (w &&& 0x00000000#32))
  | 0x07 => some (Row.mk (.tspawn (w.extractLsb' 19 5) (w.extractLsb' 14 5) (w.extractLsb' 9 5) (w.extractLsb' 6 1) (w.extractLsb' 4 2) (w.extractLsb' 0 4)) (w &&& 0x00000180#32 ^^^ 0x00000000#32) (w &&& 0x00000000#32))
  | 0x08 => some (Row.mk (.thold (w.extractLsb' 14 5) (w.extractLsb' 0 1)) (w &&& 0x00F83FFE#32 ^^^ 0x00000000#32) (w &&& 0x00000000#32))
  | 0x09 => some (Row.mk (.trdy (w.extractLsb' 14 5)) (w &&& 0x00F83FFF#32 ^^^ 0x00000000#32) (w &&& 0x00000000#32))
  | 0x0A => some (Row.mk (.tend) (w &&& 0x00FFFFFF#32 ^^^ 0x00000000#32) (w &&& 0x00000000#32))
  | 0x0B => some (Row.mk (.tchan (w.extractLsb' 19 5) (w.extractLsb' 6 1) (w.extractLsb' 0 6)) (w &&& 0x0007FF80#32 ^^^ 0x00000000#32) (w &&& 0x00000000#32))
  | 0x0C => some (Row.mk (.msg (w.extractLsb' 19 5) (w.extractLsb' 14 5) (w.extractLsb' 0 6)) (w &&& 0x00003FC0#32 ^^^ 0x00000000#32) (w &&& 0x00000000#32))
  | 0x0D =>
    if w.getLsbD 0 then some (Row.mk (.migrHandle (w.extractLsb' 14 5) (w.extractLsb' 1 3)) (w &&& 0x00F83FF1#32 ^^^ 0x00000001#32) (w &&& 0x00000000#32))
    else some (Row.mk (.migr (w.extractLsb' 14 5)) (w &&& 0x00F83FFF#32 ^^^ 0x00000000#32) (w &&& 0x00000000#32))
  | 0x0E =>
    if w.getLsbD 0 then some (Row.mk (.spawnHandle (w.extractLsb' 14 5) (w.extractLsb' 9 5) (w.extractLsb' 1 3)) (w &&& 0x00F801F1#32 ^^^ 0x00000001#32) (w &&& 0x00000000#32))
    else some (Row.mk (.spawn (w.extractLsb' 14 5) (w.extractLsb' 9 5)) (w &&& 0x00F801FF#32 ^^^ 0x00000000#32) (w &&& 0x00000000#32))
  | 0x0F => some (Row.mk (.tkpri (w.extractLsb' 14 5) (w.extractLsb' 9 5)) (w &&& 0x00F801FF#32 ^^^ 0x00000000#32) (w &&& 0x00000000#32))
  | 0x10 => some (Row.mk (.timer (w.extractLsb' 19 5) (w.extractLsb' 14 5)) (w &&& 0x00003FFF#32 ^^^ 0x00000000#32) (w &&& 0x00000000#32))
  | 0x11 => some (Row.mk (.gang (w.extractLsb' 19 5) (w.extractLsb' 14 5)) (w &&& 0x00003FFF#32 ^^^ 0x00000000#32) (w &&& 0x00000000#32))
  | 0x12 =>
    if w.getLsbD 0 then some (Row.mk (.gkeyRm (w.extractLsb' 19 5) (w.extractLsb' 14 5)) (w &&& 0x00003FFF#32 ^^^ 0x00000001#32) (w &&& 0x00000000#32))
    else some (Row.mk (.gkeyAdd (w.extractLsb' 19 5) (w.extractLsb' 14 5)) (w &&& 0x00003FFF#32 ^^^ 0x00000000#32) (w &&& 0x00000000#32))
  | 0x13 => some (Row.mk (.redn (w.extractLsb' 19 5) (w.extractLsb' 0 1)) (w &&& 0x0007FFFE#32 ^^^ 0x00000000#32) (w &&& 0x00000000#32))
  | 0x14 => some (Row.mk (.vcgrp (w.extractLsb' 19 5) (w.extractLsb' 14 5)) (w &&& 0x00003FFF#32 ^^^ 0x00000000#32) (w &&& 0x00000000#32))
  | 0x15 => some (Row.mk (.vcsyn) (w &&& 0x00FFFFFF#32 ^^^ 0x00000000#32) (w &&& 0x00000000#32))
  | 0x16 => some (Row.mk (.ctxs (w.extractLsb' 19 5) (w.extractLsb' 14 5) (w.extractLsb' 0 3)) (w &&& 0x00003FF8#32 ^^^ 0x00000000#32) (w &&& 0x00000000#32))
  | 0x17 => some (Row.mk (.ctxl (w.extractLsb' 14 5) (w.extractLsb' 0 3)) (w &&& 0x00F83FF8#32 ^^^ 0x00000000#32) (w &&& 0x00000000#32))
  | 0x18 => some (Row.mk (.scrub (w.extractLsb' 19 5) (w.extractLsb' 14 5) (w.extractLsb' 9 5) (w.extractLsb' 0 3)) (w &&& 0x000001F8#32 ^^^ 0x00000000#32) (w &&& 0x00000000#32))
  | 0x19 => some (Row.mk (.brk (w.extractLsb' 0 19)) (w &&& 0x00F80000#32 ^^^ 0x00000000#32) (w &&& 0x00000000#32))
  | 0x1A => some (Row.mk (.evsel (w.extractLsb' 19 5) (w.extractLsb' 14 5) (w.extractLsb' 0 4)) (w &&& 0x00003FF0#32 ^^^ 0x00000000#32) (w &&& 0x00000000#32))
  | 0x1B => some (Row.mk (.dreg (w.extractLsb' 14 5) (w.extractLsb' 9 5) (w.extractLsb' 3 1) (w.extractLsb' 0 3)) (w &&& 0x00F801F0#32 ^^^ 0x00000000#32) (w &&& 0x00000000#32))
  | 0x1C => some (Row.mk (.launch (w.extractLsb' 19 5) (w.extractLsb' 14 5) (w.extractLsb' 0 3)) (w &&& 0x00003FF8#32 ^^^ 0x00000000#32) (w &&& 0x00000000#32))
  | 0x1D => some (Row.mk (.halt (w.extractLsb' 14 5)) (w &&& 0x00F83FFF#32 ^^^ 0x00000000#32) (w &&& 0x00000000#32))
  | _ => none

/-- The fields of a word, or none where its opcode is not allocated (R238). -/
def rowOf (w : Word) : Option Row :=
  match engineOf w with
  | 0 => rowScl w
  | 1 => rowMem w
  | 2 => rowLkp w
  | 3 => rowVec w
  | 4 => rowMtx w
  | 5 => rowCpy w
  | 6 => rowSys w
  | _ => none

/-- The class that alone accepts a top byte, where one does (marks lc and dt of R238). -/
def classMark (top : Nat) : Option CoreClass :=
  if top ∈ [0x35, 0x36, 0x39, 0x3A, 0x3B, 0x3C, 0xC5, 0xC6, 0xC7, 0xC8, 0xC9, 0xCB, 0xCC, 0xCD, 0xCE, 0xCF, 0xD3] then
    some .lookup
  else if top ∈ [0xD4, 0xD5] then some .dense
  else none

/-- The bundle slot that an engine takes (R228). -/
def slotOf (engine : Nat) : Nat :=
  match engine with
  | 3 => 1
  | 4 => 2
  | 5 => 3
  | _ => 0

/-- Check 1 of R229: not 0xFFFF_FFFF and not engine 7. -/
def check1 (w : Word) : Option DecodeError :=
  if w = 0xFFFFFFFF#32 ∨ engineOf w = 7 then some ⟨0x01, 0x00⟩ else none

/-- Check 2 of R229: the engine is present on the class (R219). -/
def check2 (c : CoreClass) (w : Word) : Option DecodeError :=
  match c with
  | .lookup => if engineOf w = 4 then some ⟨0x01, 0x01⟩ else none
  | .dense => if engineOf w = 2 then some ⟨0x01, 0x01⟩ else none

/-- Check 3 of R229: on a dense tile the engine is allowed in its slot; the word 0 is NOP in every slot (R228). -/
def check3 (c : CoreClass) (slot : Nat) (w : Word) : Option DecodeError :=
  match c with
  | .lookup => none
  | .dense => if w = 0#32 ∨ slotOf (engineOf w) = slot then none else some ⟨0x02, 0x00⟩

/-- Check 4 of R229: the opcode is allocated. -/
def check4 (w : Word) : Option DecodeError :=
  match rowOf w with
  | some _ => none
  | none => some ⟨0x01, 0x00⟩

/-- Check 5 of R229: the instruction is not reserved to the other class. -/
def check5 (c : CoreClass) (w : Word) : Option DecodeError :=
  match classMark (topOf w) with
  | some m => if m = c then none else some ⟨0x01, 0x01⟩
  | none => none

/-- Check 6 of R229: register numbers within their files (0x07), event counters 12 to 15 (0x08, R336), and no reserved
bit or value (0x00). A register field that names no register fails with 0x07 whatever else is wrong (R221, DEDUCED, log 9). -/
def check6 (c : CoreClass) (w : Word) : Option DecodeError :=
  match rowOf w with
  | none => none
  | some r =>
    if r.reg ≠ 0#32 ∨ r.instr.regsOk c = false then some ⟨0x01, 0x07⟩
    else if r.resv ≠ 0#32 ∨ r.instr.wf = false then
      some ⟨0x01, if r.resv = 0#32 ∧ r.instr.badCounter = true then 0x08 else 0x00⟩
    else none

/-- Check 7 of R229: a supervisor-only instruction or form runs at supervisor level (R231, R239). -/
def check7 (sup : Bool) (w : Word) : Option DecodeError :=
  match rowOf w with
  | none => none
  | some r => if r.instr.needsSupervisor = true ∧ sup = false then some ⟨0x03, 0x00⟩ else none

/-- The checks of R229 on one word, in order; on a lookup core the slot is 0. -/
def checks (c : CoreClass) (slot : Nat) (sup : Bool) (w : Word) : List (Option DecodeError) :=
  [check1 w, check2 c w, check3 c slot w, check4 w, check5 c w, check6 c w, check7 sup w]

/-- The instruction of a word, or its first failing check (R229). -/
def decode (c : CoreClass) (slot : Nat) (sup : Bool) (w : Word) : Except DecodeError Instr :=
  match (checks c slot sup w).findSome? id with
  | some e => .error e
  | none =>
    match rowOf w with
    | some r => .ok r.instr
    | none => .error ⟨0x01, 0x00⟩

/-- Each check over all four slots before the next; the lowest failing slot reports (R229). Answers the failing slot. -/
def bundleError (sup : Bool) (ws : List Word) : Option (Nat × DecodeError) :=
  let all := (ws.zipIdx.map fun (w, i) => (i, checks .dense i sup w))
  (List.range 7).findSome? fun k =>
    all.findSome? fun (i, cs) => ((cs[k]?).getD none).map fun e => (i, e)

/-- The instruction that a word stands for on some core class at supervisor level: the table's words are those of either
class (R238). -/
def decodeWord (w : Word) : Except DecodeError Instr :=
  match decode .lookup 0 true w with
  | .ok i => .ok i
  | .error e =>
    match decode .dense (slotOf (engineOf w)) true w with
    | .ok i => .ok i
    | .error _ => .error e

/-- The decoder on the numbering of the opcode table: bit 0 is the least significant bit of the one 32-bit word. -/
def decodeTableWord (nbits w : Nat) : Option Instr :=
  if nbits ≤ 32 then
    match decodeWord (BitVec.ofNat 32 w) with
    | .ok i => some i
    | .error _ => none
  else none

/-- The word of an instruction (R220 and the encoding tables of R245 to R332); the steps of other units have none. -/
def encode (i : Instr) : List Word :=
  match i with
  | .nop => [(0x00#8 ++ 0#24 : BitVec 32)]
  | .add d a b s => [(0x01#8 ++ d ++ a ++ b ++ 0#6 ++ s : BitVec 32)]
  | .sub d a b s => [(0x02#8 ++ d ++ a ++ b ++ 0#6 ++ s : BitVec 32)]
  | .addi d a i => [(0x03#8 ++ d ++ a ++ i : BitVec 32)]
  | .mul d a b => [(0x04#8 ++ d ++ a ++ b ++ 0#9 : BitVec 32)]
  | .mulh d a b u => [(0x05#8 ++ d ++ a ++ b ++ 0#8 ++ u : BitVec 32)]
  | .div d a b u => [(0x06#8 ++ d ++ a ++ b ++ 0#8 ++ u : BitVec 32)]
  | .rem d a b u => [(0x07#8 ++ d ++ a ++ b ++ 0#8 ++ u : BitVec 32)]
  | .and d a b => [(0x08#8 ++ d ++ a ++ b ++ 0#9 : BitVec 32)]
  | .or d a b => [(0x09#8 ++ d ++ a ++ b ++ 0#9 : BitVec 32)]
  | .xor d a b => [(0x0A#8 ++ d ++ a ++ b ++ 0#9 : BitVec 32)]
  | .logi d a f i => [(0x0B#8 ++ d ++ a ++ f ++ i : BitVec 32)]
  | .shift d a b f => [(0x0C#8 ++ d ++ a ++ b ++ 0#7 ++ f : BitVec 32)]
  | .shifti d a f n => [(0x0D#8 ++ d ++ a ++ f ++ 0#6 ++ n : BitVec 32)]
  | .cmp d a b f => [(0x0E#8 ++ d ++ a ++ b ++ 0#6 ++ f : BitVec 32)]
  | .cmpi d a f i => [(0x0F#8 ++ d ++ a ++ f ++ i : BitVec 32)]
  | .min d a b u => [(0x10#8 ++ d ++ a ++ b ++ 0#8 ++ u : BitVec 32)]
  | .max d a b u => [(0x11#8 ++ d ++ a ++ b ++ 0#8 ++ u : BitVec 32)]
  | .sel d a b c x => [(0x12#8 ++ d ++ a ++ b ++ 0#1 ++ c ++ x : BitVec 32)]
  | .bitc d a w o => [(0x13#8 ++ d ++ a ++ 0#11 ++ w ++ o : BitVec 32)]
  | .extr d a s p l => [(0x14#8 ++ d ++ a ++ s ++ 0#1 ++ p ++ l : BitVec 32)]
  | .insr d a p l => [(0x15#8 ++ d ++ a ++ 0#2 ++ p ++ l : BitVec 32)]
  | .li d i => [(0x16#8 ++ d ++ i : BitVec 32)]
  | .lih d p c => [(0x17#8 ++ d ++ p ++ c : BitVec 32)]
  | .br c a o => [(0x18#8 ++ c ++ a ++ o : BitVec 32)]
  | .jmp l o => [(0x19#8 ++ l ++ o : BitVec 32)]
  | .jmpr d a => [(0x1A#8 ++ d ++ a ++ 0#14 : BitVec 32)]
  | .loop a i => [(0x1B#8 ++ 0#5 ++ a ++ i : BitVec 32)]
  | .lexit a n => [(0x1C#8 ++ 0#5 ++ a ++ 0#11 ++ n : BitVec 32)]
  | .lidx d l => [(0x1D#8 ++ d ++ 0#16 ++ l : BitVec 32)]
  | .ld d h a w o i => [(0x20#8 ++ d ++ h ++ a ++ w ++ o ++ i : BitVec 32)]
  | .st d h a w o i => [(0x21#8 ++ d ++ h ++ a ++ w ++ o ++ i : BitVec 32)]
  | .ldv d h a o i => [(0x22#8 ++ d ++ h ++ a ++ 0#3 ++ o ++ i : BitVec 32)]
  | .stv d h a o i => [(0x23#8 ++ d ++ h ++ a ++ 0#3 ++ o ++ i : BitVec 32)]
  | .ldvs d a b m q e => [(0x24#8 ++ d ++ a ++ b ++ m ++ q ++ 0#1 ++ e : BitVec 32)]
  | .stvs d a b m q e => [(0x25#8 ++ d ++ a ++ b ++ m ++ q ++ 0#1 ++ e : BitVec 32)]
  | .trns d a => [(0x26#8 ++ 0#2 ++ d ++ a ++ 0#14 : BitVec 32)]
  | .trnsPhys d a r l => [(0x26#8 ++ 0#2 ++ d ++ a ++ 1#1 ++ r ++ 0#4 ++ l : BitVec 32)]
  | .translationWalkComplete _ _ _ _ => []
  | .hinv a b s => [(0x27#8 ++ 0#5 ++ a ++ b ++ 0#5 ++ s : BitVec 32)]
  | .hop d n o => [(0x28#8 ++ d ++ 0#13 ++ n ++ o : BitVec 32)]
  | .drop a b => [(0x29#8 ++ 0#5 ++ a ++ b ++ 0#9 : BitVec 32)]
  | .amo d a b m o z f => [(0x2A#8 ++ d ++ a ++ b ++ m ++ o ++ z ++ f : BitVec 32)]
  | .cas d a b m o z => [(0x2B#8 ++ d ++ a ++ b ++ m ++ o ++ z ++ 0#3 : BitVec 32)]
  | .radd d a m t q => [(0x2C#8 ++ d ++ a ++ 0#5 ++ m ++ 0#1 ++ t ++ q : BitVec 32)]
  | .raddTable d a b t q => [(0x2C#8 ++ d ++ a ++ b ++ 1#4 ++ t ++ q : BitVec 32)]
  | .rst d h a w o i => [(0x2D#8 ++ d ++ h ++ a ++ w ++ o ++ i : BitVec 32)]
  | .rld d h a w o i => [(0x2E#8 ++ d ++ h ++ a ++ w ++ o ++ i : BitVec 32)]
  | .rldMigrate h a w i => [(0x2E#8 ++ 0#5 ++ h ++ a ++ w ++ 0#2 ++ i : BitVec 32)]
  | .fence k s => [(0x2F#8 ++ 0#12 ++ k ++ s : BitVec 32)]
  | .msarm a b m r => [(0x30#8 ++ 0#5 ++ a ++ b ++ m ++ 0#5 ++ r : BitVec 32)]
  | .mswait d a b m => [(0x31#8 ++ d ++ a ++ b ++ m ++ 0#6 : BitVec 32)]
  | .mspost a b m => [(0x32#8 ++ 0#5 ++ a ++ b ++ m ++ 0#6 : BitVec 32)]
  | .rbind d a b m r w x => [(0x33#8 ++ d ++ a ++ b ++ m ++ 0#3 ++ r ++ w ++ x : BitVec 32)]
  | .rfree a => [(0x34#8 ++ 0#5 ++ a ++ 0#14 : BitVec 32)]
  | .rmap a b => [(0x35#8 ++ 0#5 ++ a ++ b ++ 0#9 : BitVec 32)]
  | .rdone a => [(0x36#8 ++ 0#5 ++ a ++ 0#14 : BitVec 32)]
  | .lstn d a b m q => [(0x37#8 ++ d ++ a ++ b ++ m ++ 0#3 ++ q : BitVec 32)]
  | .lstnCancel d => [(0x37#8 ++ d ++ 32#19 : BitVec 32)]
  | .annc d a b => [(0x38#8 ++ d ++ a ++ b ++ 0#9 : BitVec 32)]
  | .wpb d => [(0x39#8 ++ d ++ 0#19 : BitVec 32)]
  | .wpc => [(0x3A#8 ++ 0#24 : BitVec 32)]
  | .pfl d h a i => [(0x3B#8 ++ d ++ h ++ a ++ 0#5 ++ i : BitVec 32)]
  | .plu h a i => [(0x3C#8 ++ 0#5 ++ h ++ a ++ 0#5 ++ i : BitVec 32)]
  | .mstest d a m => [(0x3D#8 ++ d ++ a ++ 0#5 ++ m ++ 0#6 : BitVec 32)]
  | .ltabSel d a => [(0x40#8 ++ d ++ a ++ 0#14 : BitVec 32)]
  | .ltabInst d a => [(0x40#8 ++ d ++ a ++ 1#14 : BitVec 32)]
  | .ltabRm d a => [(0x40#8 ++ d ++ a ++ 2#14 : BitVec 32)]
  | .lgath d a b => [(0x41#8 ++ d ++ a ++ b ++ 0#9 : BitVec 32)]
  | .luniq d a b => [(0x42#8 ++ d ++ a ++ b ++ 0#9 : BitVec 32)]
  | .lred d a b o f => [(0x43#8 ++ d ++ a ++ b ++ 0#5 ++ o ++ f : BitVec 32)]
  | .lscat d a b => [(0x44#8 ++ d ++ a ++ b ++ 0#9 : BitVec 32)]
  | .lseg d a b => [(0x45#8 ++ d ++ a ++ b ++ 0#9 : BitVec 32)]
  | .lhome d a b c => [(0x46#8 ++ d ++ a ++ b ++ 0#8 ++ c : BitVec 32)]
  | .lpart d a b => [(0x47#8 ++ d ++ a ++ b ++ 0#9 : BitVec 32)]
  | .lsend a b m => [(0x48#8 ++ 0#5 ++ a ++ b ++ 0#8 ++ m : BitVec 32)]
  | .lrecv d a b => [(0x49#8 ++ d ++ a ++ b ++ 0#9 : BitVec 32)]
  | .lexp d a b f => [(0x4A#8 ++ d ++ a ++ b ++ 0#6 ++ f : BitVec 32)]
  | .lacc a f => [(0x4B#8 ++ 0#5 ++ a ++ 0#13 ++ f : BitVec 32)]
  | .lcnt d a b => [(0x4C#8 ++ d ++ a ++ b ++ 0#9 : BitVec 32)]
  | .lsort d a b p => [(0x4D#8 ++ d ++ a ++ b ++ 0#8 ++ p : BitVec 32)]
  | .lmrg d a b m => [(0x4E#8 ++ d ++ a ++ b ++ 0#7 ++ m : BitVec 32)]
  | .lfilt d a b i => [(0x4F#8 ++ d ++ a ++ b ++ 0#8 ++ i : BitVec 32)]
  | .lzero d a b => [(0x50#8 ++ d ++ a ++ b ++ 0#9 : BitVec 32)]
  | .lstep d a i => [(0x51#8 ++ d ++ a ++ i : BitVec 32)]
  | .lpeek d a b => [(0x52#8 ++ d ++ a ++ b ++ 0#9 : BitVec 32)]
  | .lwb d a b => [(0x53#8 ++ d ++ a ++ b ++ 0#9 : BitVec 32)]
  | .vadd d a b t q v => [(0x60#8 ++ d ++ a ++ b ++ t ++ q ++ v : BitVec 32)]
  | .vsub d a b t q v => [(0x61#8 ++ d ++ a ++ b ++ t ++ q ++ v : BitVec 32)]
  | .vmul d a b t q v => [(0x62#8 ++ d ++ a ++ b ++ t ++ q ++ v : BitVec 32)]
  | .vfma d a b t q v => [(0x63#8 ++ d ++ a ++ b ++ t ++ q ++ v : BitVec 32)]
  | .vdiv d a b t q v => [(0x64#8 ++ d ++ a ++ b ++ t ++ q ++ v : BitVec 32)]
  | .vmin d a b t q v => [(0x65#8 ++ d ++ a ++ b ++ t ++ q ++ v : BitVec 32)]
  | .vmax d a b t q v => [(0x66#8 ++ d ++ a ++ b ++ t ++ q ++ v : BitVec 32)]
  | .vneg d a t q v => [(0x67#8 ++ d ++ a ++ 0#5 ++ t ++ q ++ v : BitVec 32)]
  | .vcmp d a b t q f => [(0x68#8 ++ 0#2 ++ d ++ a ++ b ++ t ++ q ++ f : BitVec 32)]
  | .vsel d a b t q => [(0x69#8 ++ d ++ a ++ b ++ t ++ q ++ 0#3 : BitVec 32)]
  | .vand d a b t q => [(0x6A#8 ++ d ++ a ++ b ++ t ++ q ++ 0#3 : BitVec 32)]
  | .vor d a b t q => [(0x6B#8 ++ d ++ a ++ b ++ t ++ q ++ 0#3 : BitVec 32)]
  | .vxor d a b t q => [(0x6C#8 ++ d ++ a ++ b ++ t ++ q ++ 0#3 : BitVec 32)]
  | .vshf d a b t q f => [(0x6D#8 ++ d ++ a ++ b ++ t ++ q ++ 0#1 ++ f : BitVec 32)]
  | .vcvt d a x y q r => [(0x6E#8 ++ d ++ a ++ x ++ y ++ q ++ r : BitVec 32)]
  | .vsca d a b t q v => [(0x6F#8 ++ d ++ a ++ b ++ t ++ q ++ v : BitVec 32)]
  | .vred d a c t q v => [(0x70#8 ++ d ++ a ++ 0#2 ++ c ++ t ++ q ++ v : BitVec 32)]
  | .vbcst d a t q => [(0x71#8 ++ d ++ a ++ 0#5 ++ t ++ q ++ 0#3 : BitVec 32)]
  | .vmovxGet d a b t s => [(0x72#8 ++ d ++ a ++ b ++ t ++ 0#5 ++ s : BitVec 32)]
  | .vmovxPut d a b t => [(0x72#8 ++ d ++ a ++ b ++ t ++ 2#6 : BitVec 32)]
  | .vperm d a b t q => [(0x73#8 ++ d ++ a ++ b ++ t ++ q ++ 0#3 : BitVec 32)]
  | .vexp2 d a t q v => [(0x74#8 ++ d ++ a ++ 0#5 ++ t ++ q ++ v : BitVec 32)]
  | .vlog2 d a t q v => [(0x75#8 ++ d ++ a ++ 0#5 ++ t ++ q ++ v : BitVec 32)]
  | .vrcp d a t q v => [(0x76#8 ++ d ++ a ++ 0#5 ++ t ++ q ++ v : BitVec 32)]
  | .vrsq d a t q v => [(0x77#8 ++ d ++ a ++ 0#5 ++ t ++ q ++ v : BitVec 32)]
  | .vsqrt d a t q v => [(0x78#8 ++ d ++ a ++ 0#5 ++ t ++ q ++ v : BitVec 32)]
  | .viota d a b t q => [(0x79#8 ++ d ++ a ++ b ++ t ++ q ++ 0#3 : BitVec 32)]
  | .vcnt d a t q v => [(0x7A#8 ++ d ++ a ++ 0#5 ++ t ++ q ++ v : BitVec 32)]
  | .vpack d a b m s p => [(0x7B#8 ++ d ++ a ++ b ++ m ++ 0#1 ++ s ++ p : BitVec 32)]
  | .vunpk d a b m s p => [(0x7C#8 ++ d ++ a ++ b ++ m ++ 0#1 ++ s ++ p : BitVec 32)]
  | .vrng d t q => [(0x7D#8 ++ d ++ 0#10 ++ t ++ q ++ 0#3 : BitVec 32)]
  | .vkop d a b l => [(0x7E#8 ++ 0#2 ++ d ++ 0#2 ++ a ++ 0#2 ++ b ++ l ++ 0#6 : BitVec 32)]
  | .vsetl d a t => [(0x7F#8 ++ d ++ a ++ t ++ 0#11 : BitVec 32)]
  | .mcfg d a => [(0x80#8 ++ d ++ a ++ 0#14 : BitVec 32)]
  | .mfda d a b n => [(0x81#8 ++ d ++ a ++ b ++ 0#2 ++ n ++ 0#6 : BitVec 32)]
  | .mfdb d a b n => [(0x82#8 ++ d ++ a ++ b ++ 0#2 ++ n ++ 0#6 : BitVec 32)]
  | .msq d a b => [(0x83#8 ++ 0#4 ++ d ++ 0#4 ++ a ++ 0#4 ++ b ++ 0#9 : BitVec 32)]
  | .mhem a => [(0x84#8 ++ 0#9 ++ a ++ 0#14 : BitVec 32)]
  | .msa d a b => [(0x85#8 ++ 0#3 ++ d ++ a ++ b ++ 0#9 : BitVec 32)]
  | .mchk => [(0x86#8 ++ 0#24 : BitVec 32)]
  | .mzero d => [(0x87#8 ++ 0#3 ++ d ++ 0#19 : BitVec 32)]
  | .mst d a b r f => [(0x88#8 ++ 0#3 ++ d ++ a ++ b ++ r ++ 0#1 ++ f : BitVec 32)]
  | .mld d a b f => [(0x89#8 ++ 0#3 ++ d ++ a ++ b ++ 0#4 ++ f : BitVec 32)]
  | .mswap d a => [(0x8A#8 ++ 0#3 ++ d ++ 0#3 ++ a ++ 0#14 : BitVec 32)]
  | .mspec d a z => [(0x8B#8 ++ d ++ a ++ 0#13 ++ z : BitVec 32)]
  | .mrdv d a b h => [(0x8C#8 ++ d ++ 0#3 ++ a ++ b ++ 0#8 ++ h : BitVec 32)]
  | .mwrv d a b p h => [(0x8D#8 ++ 0#3 ++ d ++ a ++ b ++ 0#7 ++ p ++ h : BitVec 32)]
  | .cpl d a k => [(0xA0#8 ++ d ++ a ++ k : BitVec 32)]
  | .cps d a k => [(0xA1#8 ++ d ++ a ++ k : BitVec 32)]
  | .cpg d a k => [(0xA2#8 ++ d ++ a ++ k : BitVec 32)]
  | .cpx d a k => [(0xA3#8 ++ d ++ a ++ k : BitVec 32)]
  | .cpbc d a k => [(0xA4#8 ++ d ++ a ++ k : BitVec 32)]
  | .cpmc d a k => [(0xA5#8 ++ d ++ a ++ k : BitVec 32)]
  | .cpqt d a k => [(0xA6#8 ++ d ++ a ++ k : BitVec 32)]
  | .cpfl d a k => [(0xA7#8 ++ d ++ a ++ k : BitVec 32)]
  | .cpof d a k => [(0xA8#8 ++ d ++ a ++ k : BitVec 32)]
  | .cpin d a k => [(0xA9#8 ++ d ++ a ++ k : BitVec 32)]
  | .cseal d => [(0xAA#8 ++ d ++ 0#19 : BitVec 32)]
  | .cwait n => [(0xAB#8 ++ 0#18 ++ n : BitVec 32)]
  | .cwaitTok d a => [(0xAB#8 ++ d ++ a ++ 8192#14 : BitVec 32)]
  | .cstat d a k => [(0xAC#8 ++ d ++ a ++ 0#13 ++ k : BitVec 32)]
  | .ccan a l => [(0xAD#8 ++ 0#5 ++ a ++ 0#13 ++ l : BitVec 32)]
  | .ctok d a => [(0xAE#8 ++ d ++ a ++ 0#14 : BitVec 32)]
  | .cpri p => [(0xAF#8 ++ 0#22 ++ p : BitVec 32)]
  | .cpck d a k => [(0xB0#8 ++ d ++ a ++ k : BitVec 32)]
  | .cpmg d a k => [(0xB1#8 ++ d ++ a ++ k : BitVec 32)]
  | .cpvl d a k => [(0xB2#8 ++ d ++ a ++ k : BitVec 32)]
  | .cbko d a => [(0xB3#8 ++ d ++ a ++ 0#14 : BitVec 32)]
  | .trap c => [(0xC0#8 ++ 0#10 ++ c : BitVec 32)]
  | .tret => [(0xC1#8 ++ 0#24 : BitVec 32)]
  | .srget d r => [(0xC2#8 ++ d ++ 0#7 ++ r : BitVec 32)]
  | .srset a r => [(0xC3#8 ++ 0#5 ++ a ++ 0#2 ++ r : BitVec 32)]
  | .srxch d a r => [(0xC4#8 ++ d ++ a ++ 0#2 ++ r : BitVec 32)]
  | .wait => [(0xC5#8 ++ 0#24 : BitVec 32)]
  | .yield => [(0xC6#8 ++ 0#24 : BitVec 32)]
  | .tspawn d a b h p w => [(0xC7#8 ++ d ++ a ++ b ++ 0#2 ++ h ++ p ++ w : BitVec 32)]
  | .thold a s => [(0xC8#8 ++ 0#5 ++ a ++ 0#13 ++ s : BitVec 32)]
  | .trdy a => [(0xC9#8 ++ 0#5 ++ a ++ 0#14 : BitVec 32)]
  | .tend => [(0xCA#8 ++ 0#24 : BitVec 32)]
  | .tchan d u c => [(0xCB#8 ++ d ++ 0#12 ++ u ++ c : BitVec 32)]
  | .msg d a c => [(0xCC#8 ++ d ++ a ++ 0#8 ++ c : BitVec 32)]
  | .migr a => [(0xCD#8 ++ 0#5 ++ a ++ 0#14 : BitVec 32)]
  | .migrHandle a n => [(0xCD#8 ++ 0#5 ++ a ++ 0#10 ++ n ++ 1#1 : BitVec 32)]
  | .spawn a b => [(0xCE#8 ++ 0#5 ++ a ++ b ++ 0#9 : BitVec 32)]
  | .spawnHandle a b n => [(0xCE#8 ++ 0#5 ++ a ++ b ++ 0#5 ++ n ++ 1#1 : BitVec 32)]
  | .tkpri a b => [(0xCF#8 ++ 0#5 ++ a ++ b ++ 0#9 : BitVec 32)]
  | .timer d a => [(0xD0#8 ++ d ++ a ++ 0#14 : BitVec 32)]
  | .gang d a => [(0xD1#8 ++ d ++ a ++ 0#14 : BitVec 32)]
  | .gkeyAdd d a => [(0xD2#8 ++ d ++ a ++ 0#14 : BitVec 32)]
  | .gkeyRm d a => [(0xD2#8 ++ d ++ a ++ 1#14 : BitVec 32)]
  | .redn d c => [(0xD3#8 ++ d ++ 0#18 ++ c : BitVec 32)]
  | .vcgrp d a => [(0xD4#8 ++ d ++ a ++ 0#14 : BitVec 32)]
  | .vcsyn => [(0xD5#8 ++ 0#24 : BitVec 32)]
  | .ctxs d a n => [(0xD6#8 ++ d ++ a ++ 0#11 ++ n : BitVec 32)]
  | .ctxl a n => [(0xD7#8 ++ 0#5 ++ a ++ 0#11 ++ n : BitVec 32)]
  | .scrub d a b n => [(0xD8#8 ++ d ++ a ++ b ++ 0#6 ++ n : BitVec 32)]
  | .brk c => [(0xD9#8 ++ 0#5 ++ c : BitVec 32)]
  | .evsel d a n => [(0xDA#8 ++ d ++ a ++ 0#10 ++ n : BitVec 32)]
  | .dreg a b m n => [(0xDB#8 ++ 0#5 ++ a ++ b ++ 0#5 ++ m ++ n : BitVec 32)]
  | .launch d a n => [(0xDC#8 ++ d ++ a ++ 0#11 ++ n : BitVec 32)]
  | .halt a => [(0xDD#8 ++ 0#5 ++ a ++ 0#14 : BitVec 32)]
  | .launchPortRecord _ _ _ => []
  | .launchValidate _ => []
  | .companionTimeout _ => []
  | .dispatchPlacement _ _ => []
  | .bindRecord _ => []
  | .dependenceMet _ => []
  | .slotGrant _ => []
  | .repartition _ _ => []
  | .ageTick _ => []
  | .sliceExpiry _ => []
  | .contextSwapComplete _ _ => []
  | .contextAreaWriteback _ => []
  | .contextAreaReadback _ _ _ => []
  | .watchNotify _ _ => []
  | .timerExpiry _ _ => []
  | .taskEnd _ _ => []
  | .launchComplete _ => []
  | .denseBankSwitch _ => []
  | .replyWritten _ => []
  | .lateReplyArrival _ => []
  | .storeBufferDrain _ => []
  | .l1Eviction _ _ _ => []
  | .homeRequest _ => []
  | .counterDecay => []
  | .forwardedOperation _ _ _ => []
  | .rdoneEndMarker _ _ _ => []
  | .homeGather _ => []
  | .gatherResend _ => []
  | .gatherWaitTimeout _ _ => []
  | .mergeWindowExpiry _ => []
  | .homeAccumulate _ => []
  | .homeRowWriteback _ => []
  | .homeZero _ => []
  | .subscriberDelivery _ => []
  | .milestoneContribution _ _ => []
  | .journalAck _ _ => []
  | .refusalArrival _ _ _ _ => []
  | .refusalTaken _ => []
  | .waypointHoldTimeout _ => []
  | .waypointRollback _ _ => []
  | .waypointCommitApply _ => []
  | .revocationPortGo _ _ => []
  | .revocationApply _ _ => []
  | .revocationAck _ _ => []
  | .revocationComplete _ => []
  | .copyBeat _ => []
  | .copyCommandComplete _ _ => []
  | .copyPriorityAging _ _ => []
  | .edgeAccept _ _ => []
  | .edgeRefusal _ _ _ => []
  | .edgeRetry _ _ => []
  | .producerEnd _ _ => []
  | .travelContextArrival _ => []
  | .spillReturn _ => []
  | .contextReturn _ => []
  | .trapDrain _ => []
  | .park _ _ _ _ _ _ => []
  | .coreFence _ _ => []
  | .nqheadWrite _ => []
  | .fqheadWrite _ => []
  | .gangPortSwitch _ _ => []
  | .gangPortPageOut _ => []
  | .gangPortPageIn _ => []
  | .planePageComplete => []
  | .gangStartMessage _ _ => []
  | .gangStopComplete _ => []
  | .sweepMarker _ _ _ => []
  | .reinjectionComplete _ => []
  | .sweepLinkTimeout _ _ => []
  | .gkeyRemoveMessage _ _ => []
  | .partitionPortAdmit => []
  | .partitionPortCreate => []
  | .packetArrival _ _ => []
  | .seqGapTimeout _ _ _ => []
  | .unreachableTimeout _ => []
  | .flitArrival _ _ _ => []
  | .flitAck _ _ => []
  | .flowControlSignal _ _ _ => []
  | .laneFailure _ _ => []
  | .retrainComplete _ _ => []
  | .lctlFullRetrain _ => []
  | .lctlDisable _ _ => []
  | .hwinWrite _ => []
  | .hostWindowAccess _ => []
  | .hostSnoop _ => []
  | .hostCacheReply _ _ _ _ => []
  | .attestationRequest _ => []
  | .certificateRead => []
  | .powerGood => []
  | .firmwareVerify _ _ => []
  | .stageCReached _ => []
  | .throttleRaise _ _ _ => []
  | .throttleLower _ _ _ => []
  | .thermalTrip _ => []
  | .storageError _ _ => []
  | .registerWrite _ _ _ _ => []
  | .pflFillArrival _ _ _ _ => []
  | .tileWindowAccess _ => []
  | .lsendSegmentArrival _ => []
  | .taskOperationArrival _ => []
  | .backInvalidateResponse _ => []
  | .replayTimeout _ => []
  | .cxlLinkDown => []

end Sys2Proof
end

