-- ==== Sys2Proof/Config.lean ====
section
/-! DEFINITION. What an implementation fixes and the values the manual leaves open. The opaque constants have no body: a
claim holds whatever they are. -/

namespace Sys2Proof

namespace Config

/-- A free choice between two outcomes that the manual allows, by the number of choices taken so far (DESIGN CHOICE, log 4, DESIGN CHOICE, log 6). -/
opaque freeBool : Nat → Bool

/-- A free number, by the number of free values taken so far (DESIGN CHOICE, log 6, DESIGN CHOICE, log 7). -/
opaque freeNat : Nat → Nat

/-- The virtual cycle, counted from 0, within its write window at which a 32-bit element of a dense result lands (R176):
number of the result and of the element. -/
opaque landing : Nat → Nat → Nat

/-- Whether an array-state element read inside a write window shows its new value (R217): number of the read, row, column. -/
opaque arrayNew : Nat → Nat → Nat → Bool

/-- The f32 results of VEXP2, VLOG2, VRCP and VRSQ, of which R312 gives bounds only: instruction number 0 to 3 and operand.
The part returns the same bits for the same operand on every core. -/
opaque approxF32 : Nat → BitVec 32 → BitVec 32

/-- The hash that picks one of several up-links, by source and destination module (R405 gives no function). -/
opaque linkHash : Nat → Nat → Nat

/-- The SM3 digest that R427 and R428 name and do not define. -/
opaque sm3 : List Byte → BitVec 256

/-- The SM2 signature of a digest by the module's identity key, and the n-th random value it takes (R428). -/
opaque sm2Sign : Nat → BitVec 256 → BitVec 512

/-- Whether an SM2 signature over a digest verifies under the key carried (R427). -/
opaque sm2Verify : List Byte → BitVec 256 → BitVec 512 → Bool

/-- The module's certificate as its DOE mailbox returns it (R428). -/
opaque certificate : List Byte

/-- The digests of the boot ROM and of Moarad's firmware key held in it (R427, R428). -/
opaque romDigest : BitVec 256
opaque romKeyDigest : BitVec 256

/-- Storage an uncorrectable or lost value would have held (R411: a host read completed with an error delivers a line of
unstated bytes, poisoned). -/
opaque freeByte : Nat → Byte

end Config

/-- Fixed sizes of the part (R2, R23, R60, R67, R71, R77, R79, R142, R149, R163, R166, R167, R171, R172, R189, R196, R202,
R262, R359). -/
def maxStoreBuffer : Nat := 32
def maxJournal : Nat := 32
def maxArrivals : Nat := 32
def maxSpill : Nat := 4096
def maxWatch : Nat := 64
def maxContextCache : Nat := 16
def maxCopyQueue : Nat := 16
def maxEdgeQueue : Nat := 64
def maxMappings : Nat := 64
def maxWaitList : Nat := 128
def maxTables : Nat := 64
def maxSubscribers : Nat := 1024
def maxSets : Nat := 64
def maxLaunches : Nat := 4096
def maxChannelDepth : Nat := 8
def maxSealed : Nat := 32
def maxLocks : Nat := 16
def maxLoadValues : Nat := 64
def maxCompared : Nat := 16
def maxProducers : Nat := 256
def maxProductions : Nat := 64

end Sys2Proof
end

