-- ==== Sys2Proof/Machine/Map.lean ====
section
/-! DEFINITION. Sparse tables by number, and memory as cells by rising address with no cell equal to the value an unlisted
byte reads as. -/

namespace Sys2Proof.Machine

/-- The entry at `k`, where one is listed. -/
def findAt {α : Type} (m : SMap α) (k : Nat) : Option α :=
  match m with
  | [] => none
  | (j, v) :: rest => if j = k then some v else findAt rest k

/-- The entry at `k`, or the reset entry. -/
def getAt {α : Type} (m : SMap α) (k : Nat) (dflt : α) : α := (findAt m k).getD dflt

/-- The table with entry `k` set, kept by rising index. -/
def setAt {α : Type} (m : SMap α) (k : Nat) (v : α) : SMap α :=
  match m with
  | [] => [(k, v)]
  | (j, u) :: rest =>
    if j = k then (k, v) :: rest
    else if k < j then (k, v) :: (j, u) :: rest
    else (j, u) :: setAt rest k v

/-- The table without entry `k`. -/
def dropAt {α : Type} (m : SMap α) (k : Nat) : SMap α := m.filter (fun e => decide (e.1 ≠ k))

/-- Memory: the bytes that differ from what an unlisted byte reads as. -/
abbrev Mem := List Host.Cell

/-- What a byte of memory that nothing has written reads as (DESIGN CHOICE, log 2). -/
def unlisted : Byte := 0#8

/-- One byte of memory. -/
def memGet (m : Mem) (a : Nat) : Byte :=
  match m with
  | [] => unlisted
  | (j, v) :: rest => if j = a then v else memGet rest a

/-- Memory with one byte written, in canonical form. -/
def memSet (m : Mem) (a : Nat) (b : Byte) : Mem :=
  match m with
  | [] => if b = unlisted then [] else [(a, b)]
  | (j, v) :: rest =>
    if j = a then (if b = unlisted then rest else (a, b) :: rest)
    else if a < j then (if b = unlisted then (j, v) :: rest else (a, b) :: (j, v) :: rest)
    else (j, v) :: memSet rest a b

/-- `n` bytes from address `a` upward. -/
def memRead (m : Mem) (a n : Nat) : List Byte := (List.range n).map fun i => memGet m (a + i)

/-- Bytes written from address `a` upward. -/
def memWrite (m : Mem) (a : Nat) (bs : List Byte) : Mem :=
  match bs with
  | [] => m
  | b :: rest => memWrite (memSet m a b) (a + 1) rest

/-- The canonical form: addresses strictly rising, and no cell equal to what an unlisted byte reads as. -/
def Memory.wf (m : Mem) : Bool :=
  match m with
  | [] => true
  | [(_, v)] => v ≠ unlisted
  | (j, v) :: (k, u) :: rest => v ≠ unlisted && decide (j < k) && Memory.wf ((k, u) :: rest)

/-- The number that little-endian bytes stand for (R7). -/
def bytesToNat (bs : List Byte) : Nat :=
  match bs with
  | [] => 0
  | b :: rest => b.toNat + 256 * bytesToNat rest

/-- The `n` little-endian bytes of a number. -/
def natToBytes (n v : Nat) : List Byte :=
  match n with
  | 0 => []
  | k + 1 => BitVec.ofNat 8 v :: natToBytes k (v / 256)

/-- Bits hi to lo of a number (R232). -/
def bitsOf (v hi lo : Nat) : Nat := (v / 2 ^ lo) % 2 ^ (hi + 1 - lo)

end Sys2Proof.Machine
end

