-- ==== Sys2Proof/Machine/State.lean ====
section
/-! DEFINITION. The state of one module as plain data: every register, queue, table and memory that the manual names
(INVENTORY.md lists each with its rule), the reasons a step can stop, and the state after reset. -/

namespace Sys2Proof.Machine

/-- Why a step stops. No instruction word raises one: what the manual calls a fault or trap is a next state. -/
inductive Fault where
  /-- raised by a step of another unit that names a core, port or tile the module does not have: the manual gives such a
  step no meaning. Safe: the model stops. -/
  | noSuchUnit
  /-- raised where an access names an address the manual says does not exist and gives no cause for it. Safe. -/
  | noSuchAddress
  deriving DecidableEq, Repr

/-- Why a step has no meaning. -/
inductive Refusal where
  /-- raised by the dispatch of an instruction that has no meaning yet. Safe: the model stops. -/
  | notModelled (mnemonic : String)
  deriving DecidableEq, Repr

/-- An entry of the hardware loop stack (R254). -/
structure LoopEntry where
  trip : BitVec 64
  idx : BitVec 64
  first : BitVec 48
  last : BitVec 48
  deriving DecidableEq, Repr

/-- A live journal entry (R262): the instruction's address, top byte, handle and offset; `parts` acknowledgements are still
to come; `held` marks an operation pending under a waypoint (R275); `hval` and `len` are the handle read at issue and the bytes reached through
it, which a revocation looks at (R25, R261); an instruction without a handle leaves them 0. `atSite` counts the parts of a held entry that their
sites have acknowledged as held (R361). -/
structure JEntry where
  addr : BitVec 48
  top : BitVec 8
  handle : BitVec 3
  ofs : BitVec 64
  parts : Nat
  held : Bool
  hval : BitVec 128 := 0#128
  len : Nat := 0
  atSite : Nat := 0
  /-- the cycle of its issue (R361) -/
  since : Nat := 0
  deriving DecidableEq, Repr

/-- A refusal that has arrived and is not taken (R358, R359). -/
structure RefusalRec where
  jent : Nat
  cause : Nat
  detail : Nat
  tval : Nat
  merged : Nat
  mixed : Bool
  addr : BitVec 48
  top : BitVec 8
  handle : BitVec 3
  ofs : BitVec 64
  deriving DecidableEq, Repr

/-- The registers that a waypoint's checkpoint holds (R275, R362). -/
structure Checkpoint where
  pc : BitVec 48
  sup : Bool
  x : Vector (BitVec 64) 32
  v : Vector (BitVec 4096) 32
  k : Vector (BitVec 256) 8
  h : Vector (BitVec 128) 8
  loops : List LoopEntry
  mflags : BitVec 64
  ascope : BitVec 64
  cbko : BitVec 64
  src : BitVec 64
  deriving DecidableEq, Repr

/-- Why a thread is out of rotation, or a bank's counter is paused (R163, R180). -/
inductive Wait where
  | none
  /-- until `n` replies are written; the last of them completes the instruction -/
  | replies (n : Nat)
  /-- until its condition holds: the instruction issues again at the agent's next turn -/
  | again
  /-- asleep in MSWAIT on the milestone word at a physical address, for a generation (R109) -/
  | sleepMilestone (pa gen : Nat)
  /-- asleep in WAIT (R197) -/
  | sleepTask
  /-- until the step that completes the instruction with this top byte -/
  | completion (top : Nat)
  /-- until the production of a granule ends (R159) -/
  | production (granule : Nat)
  /-- until a line of instructions has come (R226) -/
  | code (line : Nat)
  /-- rolled back, until the replies of the loads that were in flight have come and are discarded (R362) -/
  | strays
  deriving DecidableEq, Repr

/-- What a cause's rule gives to the trap registers (R355). -/
structure TrapInfo where
  cause : Nat
  tval : BitVec 64 := 0#64
  tinfo : BitVec 64 := 0#64
  tfmt : BitVec 64 := 0#64
  tvec : BitVec 64 := 0#64
  async : Bool := false
  replay : Bool := false
  deriving DecidableEq, Repr

/-- The context of a lookup thread or of a dense-tile register bank (R164). On a lookup core v0 to v15 are the low 512 bits
of `v`, and k0 to k7 the low 32 bits of `k`. -/
structure Ctx where
  pc : BitVec 48
  sup : Bool
  x : Vector (BitVec 64) 32
  v : Vector (BitVec 4096) 32
  k : Vector (BitVec 256) 8
  h : Vector (BitVec 128) 8
  loops : List LoopEntry
  mflags : BitVec 64
  ascope : BitVec 64
  cbko : BitVec 64
  src : BitVec 64
  seed : BitVec 64
  vlen : BitVec 64
  ltstep : BitVec 16
  table : Option (BitVec 512)
  cause : BitVec 64
  epc : BitVec 64
  tval : BitVec 64
  tinfo : BitVec 64
  tfmt : BitVec 64
  tvec : BitVec 64
  eres : BitVec 64
  mpos : BitVec 64
  journal : SMap JEntry
  jpos : Nat
  refusals : List RefusalRec
  wayOpen : Bool
  /-- whether WPC has sent its commit (R275) -/
  committing : Bool
  wayDest : BitVec 5
  checkpoint : Option Checkpoint
  openBatch : Nat
  ncmd : Nat
  sealedBatches : List Nat
  /-- where its batches are recorded and under which number of its own (R149); 0 before its first batch -/
  holder : Nat
  locks : List Nat
  wait : Wait
  /-- the vector register that a load in several parts writes, as it was at issue (R350: a precise trap has no effect) -/
  undo : Option (BitVec 5 × BitVec 4096)
  /-- the offset and handle number of the access whose reply is awaited, for the causes that report them (R24) -/
  opnd : BitVec 64 × BitVec 3
  /-- a refusal of one part of the instruction whose other replies are awaited -/
  failed : Option Refused
  /-- write-backs of a release, and a dense tile's stores, that their sites have not accepted yet (R41, R99) -/
  wbacks : Nat
  /-- the virtual page each handle register was translated from, where it was by TRNS (R159), and whether a production for
  the access in progress has ended (R159) -/
  hva : SMap Nat
  produced : Bool
  tally : Nat
  spawned : Nat
  companion : Option (BitVec 512)
  /-- the time in ns at which its held launch is rejected (R185) -/
  companionEnd : Nat
  /-- the bytes that the instruction in issue has read so far, by their offsets, before it goes on -/
  inbox : Option (List (Nat × List Byte))
  /-- a thread of a double-stitch pair: the instructions it has completed, the address of one that the pair performs once and that is
  under way, and the trap that it has raised and that its partner has not met yet, with epc (R165 to R168) -/
  num : Nat
  flight : Option (BitVec 48)
  caught : Option (TrapInfo × BitVec 48)
  /-- the revocations applied at the core while its TRNS walks (R26) -/
  walkRevs : List Revocation
  /-- the milestone word and the generation that its MSWAIT has asked the word's site for (R109) -/
  want : Option (Nat × Nat)
  /-- dense tile: the loop stack at the issue of the bundle in issue -/
  waitLoops : List LoopEntry
  /-- dense tile: cbko, the sr counter and mpos at the issue of the bundle in issue, as its SRGET reads them (R175) -/
  shown : Option (BitVec 64 × BitVec 64 × BitVec 64)
  deriving DecidableEq, Repr

/-- The context before anything has run in it. Registers without a stated reset value are 0 (DESIGN CHOICE, log 1). -/
def Ctx.reset : Ctx where
  pc := 0
  sup := false
  x := Vector.replicate 32 0
  v := Vector.replicate 32 0
  k := Vector.replicate 8 0
  h := Vector.replicate 8 0
  loops := []
  waitLoops := []
  shown := none
  mflags := 0
  ascope := 6
  cbko := 0x01004009
  src := 0
  seed := 0
  vlen := 64
  ltstep := 0
  table := none
  cause := 0
  epc := 0
  tval := 0
  tinfo := 0
  tfmt := 0
  tvec := 0
  eres := 0
  mpos := 0
  journal := []
  jpos := 31
  refusals := []
  wayOpen := false
  committing := false
  wayDest := 0
  checkpoint := none
  openBatch := 0
  ncmd := 0
  sealedBatches := []
  holder := 0
  locks := []
  wait := .none
  undo := none
  opnd := (0, 0)
  failed := none
  wbacks := 0
  hva := []
  produced := false
  tally := 0
  spawned := 0
  companion := none
  companionEnd := 0
  inbox := none
  num := 0
  flight := none
  caught := none
  walkRevs := []
  want := none

/-- A line of a lookup core's L1 (R39, R40): way and line address, byte-valid and byte-dirty masks, writer mask, lock count
and data; `filling` while the fill of a PFL is under way (R44). -/
structure L1Line where
  way : Nat
  line : Nat
  valid : BitVec 64
  dirty : BitVec 64
  writers : BitVec 16
  lock : Nat
  data : BitVec 512
  filling : Bool
  /-- an uncorrectable error has struck the line (R58) -/
  poison : Bool := false
  deriving DecidableEq, Repr

/-- A fill of an L1 line that a load of thread `slot` has asked for and that has not come (R40). It is no longer `fresh` once the line has been
invalidated, or cleared by an acquire (R41, R42): it then brings no line into the L1. `own` marks the bytes of the line that the L1 has written back since:
the fill may be older than those. -/
structure Miss where
  slot : Nat
  line : Nat
  fresh : Bool
  own : BitVec 64
  deriving DecidableEq, Repr

/-- An entry of the store buffer (R91, R96). -/
structure StoreEntry where
  slot : Nat
  pa : Nat
  data : List Byte
  key : Nat
  deriving DecidableEq, Repr

/-- A task-table entry (R194) with the task's other state: key, logical core number, level indices, job seed, timer, the
threads that have not started, and the value of x2 that a production gives (R159). -/
structure Task where
  valid : Bool
  bprio : Nat
  eprio : Nat
  hold : Bool
  ready : Bool
  ds : Bool
  width : Nat
  tag : Nat
  slice : Nat
  age : Nat
  inc : Nat
  entry : BitVec 48
  arg : BitVec 48
  hpc : BitVec 48
  n : Nat
  ended : BitVec 16
  key : Nat
  lcoreid : Nat
  levels : List Nat
  seed : BitVec 64
  timer : BitVec 64
  unstarted : List Nat
  x2 : Option Nat
  early : Bool
  deriving DecidableEq, Repr

/-- A free task-table entry. -/
def Task.reset : Task where
  valid := false
  bprio := 0
  eprio := 0
  hold := false
  ready := false
  ds := false
  width := 1
  tag := 0
  slice := 0
  age := 0
  inc := 0
  entry := 0
  arg := 0
  hpc := 0
  n := 0
  ended := 0
  key := 0
  lcoreid := 0
  levels := []
  seed := 0
  timer := 0
  unstarted := []
  x2 := none
  early := false

/-- What a slot is doing (R202); `toSave` is the context leaving it, marked asleep or not. -/
inductive SlotState where
  | running
  | restoring
  | saving (asleep : Bool)
  deriving DecidableEq, Repr

/-- The occupant of a thread slot (R161, R170, R200). `since` is the cycle in which its sleep began, or the first in which it may issue after
its wait has ended (R162). `next` is the task that the slot is granted to as its context leaves it (R202, R203). -/
structure Slot where
  task : Nat
  tid : Nat
  visitor : Bool
  state : SlotState
  slice : Nat
  since : Nat
  started : Bool
  next : Option Nat := none
  deriving DecidableEq, Repr

/-- A context saved in the thread-context cache or the context area (R202): `asleep` for an evicted sleeper, `rollback`
for a rollback that awaits its restore (R363), and the revocation sequence number at the save (R27). -/
structure SavedCtx where
  task : Nat
  tid : Nat
  visitor : Bool
  ctx : Ctx
  asleep : Bool
  rollback : Option Nat
  seq : Nat
  slice : Nat
  /-- its entry of the core's context area, where it is there -/
  pos : Nat := 0
  deriving DecidableEq, Repr

/-- A message channel (R196). -/
structure Channel where
  task : Option Nat
  msgs : List (BitVec 48)
  deriving DecidableEq, Repr

/-- A scratchpad mapping of a range (R67): token, scratchpad offset, launch tag, the range's first byte and length, whether its rows go back, and whether
the core has asked a home on another module to end it (R69, R70). -/
structure Mapping where
  token : BitVec 64
  ofs : Nat
  tag : Nat
  len : Nat
  back : Bool
  lo : Nat := 0
  ending : Bool := false
  deriving DecidableEq, Repr

/-- A copy command (R144, R328): opcode, descriptor, the handles it works through as read at issue (source, destination, milestone, and
the index or scale areas) followed by those of the pages it has translated (R25), issuer, the agent its batch is recorded under, priority and back-off policy at issue;
`edge` names the edge engine that a delegated command is for (R142). `got` and `puts` tell how far the beat in progress has come, `busy`
whether another module's answer to it is awaited; `cover` the bytes of each granule of a virtual destination written so far (R155); `fault` a
failure that leaves the rest of the command running (R73, R146). -/
structure CopyCmd where
  id : Nat
  top : Nat
  desc : BitVec 1024
  handles : List (BitVec 128)
  who : Agent
  home : Agent
  owner : Nat
  key : Nat
  sup : Bool
  batch : Nat
  index : Nat
  prio : Nat
  policy : BitVec 64
  edge : Option Nat
  pos : Nat
  crc : BitVec 32
  tries : Nat
  started : Bool
  stop : Bool
  got : List (List Byte × Bool)
  puts : Nat
  busy : Bool
  cover : SMap Nat
  fault : Option (Nat × Nat)
  /-- the next beat has started (R156) -/
  inBeat : Bool := false
  /-- the cycle from which it waits for a beat (R143), and that of its next offer to an edge engine that has refused it (R152) -/
  since : Nat := 0
  retryAt : Option Nat := none
  deriving DecidableEq, Repr

/-- The state of a batch (R149, R150): the codes of the status word. -/
structure Batch where
  slot : Nat
  /-- the thread that issued it, by a number of its own: a slot's threads use the same batch numbers (R329) -/
  owner : Nat
  /-- the task that issued it, by its table entry and incarnation (R115) -/
  task : Nat
  number : Nat
  key : Nat
  state : Nat
  detail : Nat
  cmd : Nat
  isSealed : Bool
  reported : Bool
  left : Nat
  tval : Nat
  /-- the cause, tval and tinfo of a suspension (R148) -/
  susp : Option Refused
  suspInfo : Nat
  /-- the milestone words that its commands name (R148) -/
  words : List Nat
  deriving DecidableEq, Repr

/-- A translation-cache entry (R21): partition key, page size exponent, the exponent of the virtual addresses that the leaf translates
(R19), their number in units of that size, and the leaf. -/
structure TransEntry where
  key : Nat
  lg : Nat
  span : Nat
  page : Nat
  leaf : BitVec 64
  deriving DecidableEq, Repr

/-- An effect in a store comparator or a value in a load-value queue (R166, R167): the number and address of its instruction, the slot of
the thread that has reached it, and that thread's registers: before the effect, or after the value has come. -/
structure PairItem where
  num : Nat
  pc : BitVec 48
  slot : Nat
  regs : Ctx
  /-- the bytes that the effect writes, as physical address and length; `none` where it may write others -/
  bytes : Option (List (Nat × Nat)) := some []
  deriving DecidableEq, Repr

/-- The queues of a double-stitch pair, by its leading slot. -/
structure Pair where
  loads : List PairItem
  effects : List PairItem
  deriving DecidableEq, Repr

/-- What a lookup core's plane holds (R377). -/
structure LPlane where
  key : Nat
  banks : Nat
  l1 : List L1Line
  plru : SMap (BitVec 32)
  misses : List Miss
  /-- the lines written back whose homes have not accepted them yet, with their writer masks (R40, R41) -/
  wb : List (Nat × BitVec 16)
  sbuf : List StoreEntry
  tasks : SMap Task
  slots : SMap Slot
  chans : SMap Channel
  readyQ : List Nat
  cache : List SavedCtx
  area : List SavedCtx
  arrivals : List Travel
  watch : List (Nat × Nat × Nat)
  copyQ : List CopyCmd
  batches : List Batch
  mappings : List Mapping
  outbound : Nat
  pairs : SMap Pair
  /-- the launches under way whose first task the core has started (R37) -/
  begun : List Nat
  /-- by slot, the replies still to come for an instruction that its thread has left (R362, R371) -/
  strays : SMap Nat
  deriving DecidableEq, Repr

def LPlane.reset : LPlane where
  key := 0
  banks := 0
  l1 := []
  plru := []
  misses := []
  wb := []
  sbuf := []
  tasks := []
  slots := []
  chans := []
  readyQ := []
  cache := []
  area := []
  arrivals := []
  watch := []
  copyQ := []
  batches := []
  mappings := []
  outbound := 0
  pairs := []
  begun := []
  strays := []

/-- An event counter (R336): select and count. -/
structure Counter where
  select : BitVec 64
  count : BitVec 64
  deriving DecidableEq, Repr

/-- A shadow plane of a lookup core (R377): its key, the plane, its contexts and its tile memory. -/
structure LShadow where
  key : Nat
  plane : LPlane
  ctxs : SMap Ctx
  mem : Mem
  poison : List Nat
  seq : Nat
  /-- the cycle in which it went out (R388) -/
  out : Nat := 0
  deriving DecidableEq, Repr

/-- A line of an instruction cache (R226): the owned alias of its address, and its 64 bytes. -/
structure CodeLine where
  line : Nat
  data : List Byte
  deriving DecidableEq, Repr

/-- A lookup core. -/
structure LCore where
  plane : LPlane
  shadow : Option LShadow
  trans : List TransEntry
  spill : List Travel
  /-- entries of the spill area written so far, and the contexts that wait in the fabric while it is full (R171) -/
  spilled : Nat
  stalled : List Travel
  /-- the lines of the instruction cache, oldest first (R226) -/
  icache : List CodeLine
  halted : Bool
  fenced : Bool
  counters : SMap Counter
  deriving DecidableEq, Repr

def LCore.reset : LCore where
  plane := LPlane.reset
  shadow := none
  trans := []
  spill := []
  spilled := 0
  stalled := []
  icache := []
  halted := false
  fenced := false
  counters := []

/-- A value that an operation writes inside the window of virtual cycles [lo, hi] (R217). -/
structure Win (α : Type) where
  old : α
  new : α
  lo : Nat
  hi : Nat
  deriving DecidableEq, Repr

/-- The fill of a feed buffer (R208, R209): mode code, K_pass, format, and the lanes of its 256 lines. -/
structure Fill where
  mode : Nat
  kpass : Nat
  fmt : Nat
  lines : List (List Int)
  deriving DecidableEq, Repr

/-- A cell bank (R208): cells by row, hem corrections, check cell and its corrections, formats of its pass. -/
structure CellBank where
  cells : List (List Int)
  hr : List Int
  hc : List Int
  chk : Int
  hsa : Int
  hsb : Int
  fa : Nat
  fb : Nat
  deriving DecidableEq, Repr

/-- A cleared cell bank (R35). -/
def CellBank.zero : CellBank := ⟨[], [], [], 0, 0, 0, 0x1F, 0x1F⟩

/-- The drain plane with its latches (R214). -/
structure DrainPlane where
  elems : List (List Int)
  plsum : Int
  chkv : Int
  fa : Nat
  fb : Nat
  src : Nat
  deriving DecidableEq, Repr

def DrainPlane.zero : DrainPlane := ⟨[], 0, 0, 0x1F, 0x1F, 0⟩

/-- An MSQ in progress (R212, R213): its bundle, its buffers' fills and numbers, bank, issue cycle and first step. -/
structure MsqRun where
  pc : BitVec 48
  fa : Fill
  fb : Fill
  na : Nat
  nb : Nat
  c : Nat
  issue : Nat
  first : Nat
  bank : Nat
  deriving DecidableEq, Repr

/-- A write window of an accumulator tile (R217, R326): rows and columns from and up to, first and last cycle, and the tile's
cells before it. -/
structure AccWin where
  r0 : Nat
  r1 : Nat
  c0 : Nat
  c1 : Nat
  lo : Nat
  hi : Nat
  old : Mem
  deriving DecidableEq, Repr

/-- The latest MSA (R215): its tile, issue cycle, and row and column records. -/
structure MsaRun where
  tile : Nat
  issue : Nat
  er : List Nat
  ec : List Nat
  deriving DecidableEq, Repr

/-- The array state of a dense tile (R208). -/
structure ArrayState where
  fa : SMap (Win (Option Fill))
  fb : SMap (Win (Option Fill))
  bank : SMap (Win CellBank)
  plane : Win DrainPlane
  acc : SMap (List AccWin)
  msq : Option MsqRun
  msa : Option MsaRun
  /-- acfg, with its value before the cycle that the latest MCFG issued in (R318) -/
  acfg : Win (BitVec 64)
  deriving DecidableEq, Repr

def ArrayState.reset : ArrayState where
  fa := []
  fb := []
  bank := []
  plane := ⟨DrainPlane.zero, DrainPlane.zero, 0, 0⟩
  acc := []
  msq := none
  msa := none
  acfg := ⟨0x00FFC000, 0x00FFC000, 0, 0⟩

/-- A register of a bank that a dense operation writes (R176). -/
inductive RegRef where
  | x (r : BitVec 5)
  | v (r : BitVec 5)
  | k (r : BitVec 3)
  | h (r : BitVec 3)
  | flags
  | vlen
  deriving DecidableEq, Repr

/-- A result in flight (R176): register, value and the bits of it that are written, issue cycle, latency, number. -/
structure Flight where
  bank : Nat
  reg : RegRef
  value : BitVec 4096
  mask : BitVec 4096
  issue : Nat
  latency : Nat
  num : Nat
  deriving DecidableEq, Repr

/-- A use of a scratchpad bank reserved by an operation in flight (R47): access cycle, bank, slot. -/
structure BankUse where
  cycle : Nat
  bank : Nat
  slot : Nat
  deriving DecidableEq, Repr

/-- An access of a dense tile whose reply is awaited (R51, R180): bank, destination, virtual cycle by which it is due, bundle
address and slot of its word, the handle read at its issue (R25), the milestone word and generation that an MSWAIT waits for (R109), the top byte of a word that another unit answers, and the loop stack at the issue of its bundle. -/
structure Late where
  bank : Nat
  dest : Dest
  due : Nat
  pc : BitVec 48
  slot : Nat
  opnd : BitVec 64 × BitVec 3
  issued : Nat
  hval : BitVec 128 := 0#128
  want : Option (Nat × Nat) := none
  top : Nat := 0
  loops : List LoopEntry := []
  deriving DecidableEq, Repr

/-- A cause that a dense tile has raised and not taken (R364, R366): bank, slot, cause, address of its word's bundle, whether
it was found at issue, and whether the word is replayed at TRET (R367). -/
structure DenseTrap where
  bank : Nat
  slot : Nat
  cause : Refused
  tinfo : Nat
  tfmt : Nat
  tvec : Nat
  pc : BitVec 48
  atIssue : Bool
  replay : Bool
  async : Bool
  /-- it reached the bank asynchronously, through the journal (R358) -/
  arrived : Bool
  vcc : Nat
  /-- the batch whose suspension or failure it reports (R148) -/
  batch : Option Nat
  /-- the virtual cycle in which it is seen (R139) -/
  due : Nat := 0
  deriving DecidableEq, Repr

/-- A word that issues again alone (R180, R367): its bundle's address, its slot, plus 4 for a replay and 6 for a stopped MSQ, and the loop stack at
the issue of its bundle, which the bundle meets when a trap of the word has it issued again. -/
structure ReWord where
  pc : BitVec 48
  slot : Nat
  loops : List LoopEntry
  deriving DecidableEq, Repr

/-- A register bank of a dense tile that holds a context (R178, R204): its task, slice left, whether it has issued, the counter's value
while it is not active (R179), whether a pre-emption stopped its MSQ (R213), its waiting words put by while it is not active, and those put by
at each trap entry whose TRET is still to come (R368), newest first. -/
structure BankInfo where
  task : Task
  slice : Nat
  started : Bool
  vcc : Nat
  resume : Bool
  paused : List ReWord
  held : List (List ReWord)
  /-- of a displaced context the pages that its handles were translated from, which its image does not hold (R159) -/
  hva : SMap Nat := []
  deriving DecidableEq, Repr

/-- What a dense tile's plane holds (R377). -/
structure DPlane where
  key : Nat
  active : Nat
  banks : SMap BankInfo
  vcc : Nat
  members : BitVec 32
  flights : List Flight
  uses : List BankUse
  busy : SMap Nat
  array : ArrayState
  timer : BitVec 64
  timerBank : Nat
  copyQ : List CopyCmd
  batches : List Batch
  traps : List DenseTrap
  lates : List Late
  /-- words of the bundle in issue that wait and issue again alone -/
  again : List ReWord
  wantGroup : Option (BitVec 32)
  /-- 1: waits in VCSYN; 2: VCSYN is done; 3: VCGRP has formed the group (R345); 4: the group is to switch banks (R204) -/
  sync : Nat
  /-- the virtual cycle at which the group's counter holds while a member runs a handler (R368) -/
  hold : Option Nat
  /-- the launches under way whose first task the tile has started (R35) -/
  begun : List Nat
  /-- the word in issue is the MSQ that a drain has stopped (R213) -/
  resuming : Bool
  deriving DecidableEq, Repr

def DPlane.reset : DPlane where
  key := 0
  active := 0
  banks := []
  vcc := 0
  members := 0
  flights := []
  uses := []
  busy := []
  array := ArrayState.reset
  timer := 0
  timerBank := 0
  copyQ := []
  batches := []
  traps := []
  lates := []
  again := []
  wantGroup := none
  sync := 0
  hold := none
  begun := []
  resuming := false

/-- A shadow plane of a dense tile (R377). -/
structure DShadow where
  key : Nat
  plane : DPlane
  ctxs : SMap Ctx
  mem : Mem
  poison : List Nat
  seq : Nat
  /-- the cycle in which it went out (R388) -/
  out : Nat := 0
  deriving DecidableEq, Repr

/-- A dense tile. -/
structure DTile where
  plane : DPlane
  shadow : Option DShadow
  trans : List TransEntry
  /-- the lines of the instruction cache, oldest first (R226) -/
  icache : List CodeLine
  halted : Bool
  fenced : Bool
  counters : SMap Counter
  deriving DecidableEq, Repr

def DTile.reset : DTile where
  plane := DPlane.reset
  shadow := none
  trans := []
  icache := []
  halted := false
  fenced := false
  counters := []

/-- A registered range (R59, R60): home kind and number, entry, key, interval on the owned alias, rights R W A, tag,
mapper (core number, scratchpad offset, key), lost mapper, version, and the requests held during RDONE (R69). -/
structure Range where
  kind : Nat
  home : Nat
  entry : Nat
  key : Nat
  lo : Nat
  len : Nat
  rights : BitVec 3
  tag : Nat
  mapper : Option (Nat × Nat × Nat)
  lost : Bool
  version : BitVec 32
  draining : Bool
  held : List Request
  deriving DecidableEq, Repr

/-- A subscription (R71): range token, subscriber module, key, local copy and milestone word. -/
structure Subscriber where
  token : BitVec 64
  module : Nat
  key : Nat
  pa : Nat
  msPa : Nat
  deriving DecidableEq, Repr

/-- A merge entry (R83). -/
structure MergeEntry where
  id : Nat
  first : Gather
  joined : List Gather
  closed : Bool
  /-- the cycle in which its first request passed (R83) -/
  born : Nat := 0
  deriving DecidableEq, Repr

/-- An operation pending at its site under an open waypoint (R103, R275). -/
structure Pending where
  who : Agent
  jent : Nat
  body : Payload
  deriving DecidableEq, Repr

/-- An entry of an access-counter table (R29). -/
structure AccessCounter where
  pair : Nat
  region : Nat
  way : Nat
  count : Nat
  queued : Bool
  overflow : Bool
  deriving DecidableEq, Repr

/-- A line of host memory that its L2 home holds (R52, R53, R411): owned, and dirty. -/
structure L2Line where
  line : Nat
  own : Bool
  dirty : Bool
  deriving DecidableEq, Repr

/-- An announcement whose deliveries are not all answered (R72, R73). -/
structure Announce where
  who : Who
  core : Nat
  key : Nat
  jent : Nat
  token : BitVec 64
  left : Nat
  deriving DecidableEq, Repr

/-- An announcement held back while its range's mapping ends (R69): token, issuer, its core and key, journal entry, offset, length, and how many
requests for the range had been held before it. -/
structure HeldAnnounce where
  token : BitVec 64
  who : Who
  core : Nat
  key : Nat
  jent : Nat
  ofs : Nat
  len : Nat
  after : Nat := 0
  deriving DecidableEq, Repr

/-- An LTAB that waits for other modules (R282): whether it removes, the modules still to answer, homes so far, the pairs that
installed the table now, and the first refusal. -/
structure TableRun where
  who : Agent
  desc : BitVec 512
  rm : Bool
  d : BitVec 5
  left : Nat
  total : Nat
  added : List Nat
  failed : Option Refused
  deriving DecidableEq, Repr

/-- An RFREE that waits for deliveries under way to be answered (R66). -/
structure FreeRun where
  who : Agent
  core : Nat
  key : Nat
  token : Nat
  deriving DecidableEq, Repr

/-- A range command that waits until the home has ended a mapping (R62): the thread, its core and key, top byte and operands. -/
structure HeldCommand where
  who : Agent
  core : Nat
  key : Nat
  top : Nat
  args : List Nat
  deriving DecidableEq, Repr

/-- The homes of the module (R53, R59, R77, R79, R83, R29). -/
structure Homes where
  ranges : List Range
  tags : SMap Nat
  subs : List Subscriber
  tables : List (Nat × BitVec 512)
  waiting : List (Nat × Gather)
  merges : List MergeEntry
  nextMerge : Nat
  pending : List Pending
  heldWrites : List (Nat × Request)
  hostLines : List Nat
  l2 : List L2Line
  counters : List AccessCounter
  announced : List Announce
  heldAnnounces : List HeldAnnounce
  tableRuns : List TableRun
  frees : List FreeRun
  commands : List HeldCommand
  /-- commits of waypoints under way at this module's sites: thread, its core and key (R103) -/
  commits : List (Agent × Nat × Nat)
  /-- cores of other modules that a milestone word's change is told to: word, core number, key (R109, R202) -/
  watchers : List (Nat × Nat × Nat)
  deriving DecidableEq, Repr

def Homes.reset : Homes := ⟨[], [], [], [], [], [], 0, [], [], [], [], [], [], [], [], [], [], [], []⟩

/-- A launch port (R187, R412). -/
structure LaunchPort where
  key : Nat
  en : Bool
  accepted : BitVec 32
  nr : Bool
  dropped : Bool
  mf : Bool
  ov : Bool
  queue : List (BitVec 512)
  ie : Bool
  deriving DecidableEq, Repr

def LaunchPort.reset : LaunchPort := ⟨0, false, 0, false, false, false, false, [], false⟩

/-- A launch in the launch table (R189) with what its completion record reports (R190). -/
structure Launch where
  record : BitVec 512
  port : Option Nat
  issuer : Option Agent
  total : Nat
  bound : Nat
  ended : Nat
  killed : Nat
  travel : Nat
  tstart : Nat
  tend : Nat
  depMet : Bool
  prod : Option (Nat × Nat × Nat)
  /-- the order in which launches were accepted (R188), and the tasks bound with their cores (R183, R191) -/
  order : Nat
  placed : List (Nat × Nat)
  deriving DecidableEq, Repr

/-- A producer registration (R158). -/
structure Producer where
  key : Nat
  va : Nat
  count : Nat
  record : Option (BitVec 512)
  deriving DecidableEq, Repr

/-- A launch record issued by a device program, or for a production of a granule: key, granule, index (R159, R342). -/
structure Issue where
  who : Option Agent
  record : BitVec 512
  prod : Option (Nat × Nat × Nat)
  deriving DecidableEq, Repr

/-- The dispatch cores, slot tables, launch ports and launch table (R187 to R193, R158, R159). -/
structure Dispatch where
  ports : SMap LaunchPort
  launches : SMap Launch
  companions : List (Option Nat × Option Agent × BitVec 512)
  issued : List Issue
  slotTable : SMap (List (BitVec 256))
  results : SMap (List Nat)
  retryBind : List (Nat × BitVec 256)
  producers : List Producer
  productions : List (Nat × Nat × Nat)
  /-- standby contexts displaced from a tile, with the area that holds the image of each (R204) -/
  displaced : List (Nat × BankInfo × Nat)
  /-- held launches by their holders, and the time in ns at which each is rejected (R185) -/
  holds : SMap Nat
  deriving DecidableEq, Repr

def Dispatch.reset : Dispatch := ⟨[], [], [], [], [], [], [], [], [], [], []⟩

/-- A partition register set (R380). -/
structure PartSet where
  ptroot : BitVec 64
  svpc : BitVec 64
  svpcd : BitVec 64
  tdeleg : BitVec 64
  owbase : BitVec 64
  owlimit : BitVec 64
  selbase : BitVec 64
  selovf : BitVec 64
  scount : BitVec 4
  admitted : Bool
  /-- its key has been removed; the set goes once nothing of the key is left (R380) -/
  removed : Bool
  deriving DecidableEq, Repr

def PartSet.reset : PartSet := ⟨0, 0, 0, 0x06188000, 0, 0, 0, 0, 0, false, false⟩

/-- An entry of the late-packet log (R390). -/
structure LateEntry where
  key : Nat
  scnt : Nat
  rcnt : Nat
  port : Nat
  vc : Nat
  src : Nat
  dst : Nat
  kind : Nat
  addr : Nat
  deriving DecidableEq, Repr

/-- The module registers of control space and BAR 2 (R28, R30, R85, R373, R380, R382, R390, R391, R410, R411). -/
structure Regs where
  nqbase : BitVec 64
  nqhead : BitVec 12
  nqtail : BitVec 12
  nqen : Bool
  nqlost : BitVec 32
  thost : BitVec 16
  tbulk : BitVec 16
  thbm : BitVec 16
  decay : BitVec 32
  rcontrol : BitVec 64
  fqbase : BitVec 64
  fqhead : BitVec 11
  fqtail : BitVec 11
  fqen : Bool
  fqlost : BitVec 32
  late : List LateEntry
  lateCount : BitVec 32
  rvScope : BitVec 4
  rvKey : BitVec 16
  rvBase : BitVec 64
  rvLen : BitVec 64
  rvSeq : BitVec 32
  rvEr : Bool
  rvDn : Bool
  rvBsy : Bool
  psel : BitVec 16
  pEr : Bool
  gimg : BitVec 64
  gangstat : BitVec 64
  gEr : Bool
  gDn : Bool
  gcap : BitVec 64
  hwin : BitVec 64
  hdmCommitted : Bool
  hostErrors : BitVec 32
  deriving DecidableEq, Repr

def Regs.reset : Regs where
  nqbase := 0
  nqhead := 0
  nqtail := 0
  nqen := false
  nqlost := 0
  thost := 0xFFFF
  tbulk := 0xFFFF
  thbm := 0xFFFF
  decay := 0
  rcontrol := 0x4000
  fqbase := 0
  fqhead := 0
  fqtail := 0
  fqen := false
  fqlost := 0
  late := []
  lateCount := 0
  rvScope := 4
  rvKey := 0
  rvBase := 0
  rvLen := 0
  rvSeq := 0
  rvEr := false
  rvDn := false
  rvBsy := false
  psel := 0
  pEr := false
  gimg := 0
  gangstat := 0
  gEr := false
  gDn := false
  gcap := 0
  hwin := 0
  hdmCommitted := false
  hostErrors := 0

/-- The state of a Laralair port's link (R403). -/
inductive LinkState where
  | down
  | training
  | up
  | disabled
  deriving DecidableEq, Repr

/-- A Laralair port (R396 to R403): allow list, lstat fields, channels stopped by the far receiver, unacknowledged flits,
the next flit numbers sent and expected, receive occupancy per channel with the stops asserted, and packets queued. -/
structure Port where
  allow : List Nat
  state : LinkState
  width : Nat
  failed : BitVec 8
  rtt : Nat
  susp : BitVec 6
  retrains : Nat
  replays : Nat
  dis : Bool
  full : Bool
  stopped : BitVec 6
  replay : List Flit
  nextNum : Nat
  expect : Nat
  occupancy : SMap Nat
  asserted : BitVec 6
  acks : List Nat
  queue : List Packet
  changed : Bool
  /-- the oldest flit not acknowledged, and the time in ns from which it waits (R402); the cycle in which the link last left the state up (R386) -/
  oldest : Nat := 0
  sentAt : Nat := 0
  downAt : Nat := 0
  deriving DecidableEq, Repr

def Port.reset : Port := ⟨[], .down, 0, 0, 0, 0, 0, 0, false, true, 0, [], 0, 0, [], 0, [], [], false, 0, 0, 0⟩

/-- The Laralair side of the junction router (R404 to R407): modules that the domain holds, sequence numbers sent and
delivered per source, destination and channel, packets held behind a gap with their ports, and packets waiting for a path. -/
structure Fabric where
  ports : SMap Port
  domain : List Nat
  seqOut : SMap Nat
  seqIn : SMap Nat
  held : List (Nat × Packet)
  waiting : List Packet
  deriving DecidableEq, Repr

def Fabric.reset : Fabric := ⟨[], [], [], [], [], []⟩

/-- A plane image written by a page out (R393): the key, whether it has not been loaded since, its planes, its registers, the revocation
sequence number, and the bytes that it has in memory, by their offsets. -/
structure Image where
  key : Nat
  paged : Bool
  lookup : SMap LShadow
  dense : SMap DShadow
  set : PartSet
  seq : Nat
  cells : Mem
  deriving DecidableEq, Repr

/-- A gang switch in which the module takes part (R381 to R387): outgoing and incoming key; phase 0 while the modules check the
conditions, then as gangstat counts them, and 7 while other modules are still at it; the module that started it with the thread that
waits in GANG; modules still to answer; status; slow path allowed and taken; markers received by port and channel, with
16 for a channel whose marker has been forwarded; ports up at the start of the sweep; ports that have left the count; bytes captured, and the most at any module; the end of the stop in ns. -/
structure GangRun where
  out : Nat
  incoming : Option Nat
  phase : Nat
  origin : Nat
  waiter : Option Agent
  host : Bool
  left : List Nat
  status : Nat
  slow : Bool
  took : Bool
  markers : List (Nat × Nat)
  ports : List Nat
  gone : List Nat
  bytes : Nat
  most : Nat
  overflow : Bool
  start : Nat
  deriving DecidableEq, Repr

/-- A plane page under way (R392): key, op, modules still to answer, status, whether the planes have been moved here, and the module
that started it where it is another. -/
structure PageRun where
  key : Nat
  op : Nat
  left : List Nat
  status : Nat
  moved : Bool
  origin : Option Nat
  deriving DecidableEq, Repr

/-- A key removal that waits for other modules (R347): key, thread, modules still to answer, modules that held the key. -/
structure Removal where
  key : Nat
  who : Agent
  left : List Nat
  count : Nat
  deriving DecidableEq, Repr

/-- Gang switches and plane pages (R347, R381 to R393): `captured` in capture order, `inLink` the packets held in their links (R385),
`suspended` the keys that are stopped or switched out. -/
structure Gang where
  runs : List GangRun
  captured : List Packet
  inLink : List (Nat × Packet)
  images : List Image
  paging : Option PageRun
  removals : List Removal
  suspended : List Nat
  deriving DecidableEq, Repr

def Gang.reset : Gang := ⟨[], [], [], [], none, [], []⟩

/-- A revocation under way: the cores still to acknowledge (R25), and those that have not applied it yet; `seq` is its number in the log,
given once every core of the module has applied it (R27). -/
structure RevRun where
  rev : Revocation
  cores : List CoreRef
  todo : List CoreRef
  seq : Nat
  /-- modules still to answer, and the module that asked where it is another -/
  mods : List Nat
  origin : Option Nat
  deriving DecidableEq, Repr

/-- Bring-up and health (R425 to R431). -/
structure Boot where
  powered : Bool
  stage : Nat
  fail : Nat
  yobenDigest : BitVec 256
  version : BitVec 32
  fuseVersion : BitVec 32
  replies : List (List Byte)
  thr : Nat
  pwr : Nat
  tmax : Nat
  thbm : Nat
  tw : Bool
  tp : Bool
  /-- after a thermal trip only the functions of stage A work until a reset (R431) -/
  tripped : Bool
  cxlUp : Bool
  snoops : List (Nat × List Byte × Bool)
  hostReads : List (List Byte × Bool)
  backInvalidates : List Nat
  cacheReqs : List (Nat × CacheReq)
  msix : List Nat
  coalesced : List Nat
  deriving DecidableEq, Repr

def Boot.reset : Boot := ⟨false, 0, 0, 0, 0, 0, [], 0, 0, 0, 0, false, false, false, true, [], [], [], [], [], []⟩

/-- A sector's error counters and event counters 4 to 11 (R336, R429). -/
structure Sector where
  ce : BitVec 16
  ue : BitVec 16
  ck : BitVec 16
  rm : BitVec 16
  counters : SMap Counter
  deriving DecidableEq, Repr

def Sector.reset : Sector := ⟨0, 0, 0, 0, []⟩

/-- One module. `focus` is the agent whose turn it is and `bslot` the slot of the bundle in issue; `agenda` holds the steps of the
part that are due, oldest first; `free` counts the free values used (the model's own, log 4 to log 6). -/
structure State where
  focus : Agent
  bslot : Nat
  agenda : List Instr
  free : Nat
  module : Nat
  cycle : Nat
  timeNs : Nat
  mem : Mem
  poison : List Nat
  ctxs : SMap Ctx
  lcs : SMap LCore
  dts : SMap DTile
  homes : Homes
  disp : Dispatch
  parts : SMap PartSet
  regs : Regs
  revLog : List (Nat × Revocation)
  revs : List RevRun
  nextRev : Nat
  fabric : Fabric
  gang : Gang
  edges : SMap (List CopyCmd)
  nextCmd : Nat
  sectors : SMap Sector
  boot : Boot
  deriving DecidableEq, Repr

/-- The module right after reset, before power good: nothing listed anywhere, every register at its reset value. Its number is 0 and it is alone: the
manual does not say how a module gets its number or its domain (DESIGN CHOICE, log 111). -/
def State.reset : State where
  focus := .thread 0 0
  bslot := 0
  agenda := []
  free := 0
  module := 0
  cycle := 0
  timeNs := 0
  mem := []
  poison := []
  ctxs := []
  lcs := []
  dts := []
  homes := Homes.reset
  disp := Dispatch.reset
  parts := []
  regs := Regs.reset
  revLog := []
  revs := []
  nextRev := 0
  fabric := Fabric.reset
  gang := Gang.reset
  edges := []
  nextCmd := 0
  sectors := []
  boot := Boot.reset

end Sys2Proof.Machine
end

