-- ==== Sys2Proof/Machine/Ops.lean ====
section
/-! DEFINITION. The named operations over registers, program counter, agenda and units, and taking and leaving a trap
(R161 to R181, R219 to R232, R254 to R256, R350 to R374). -/

namespace Sys2Proof.Machine

/-- What a meaning answers. -/
abbrev Out := Host.Outcome State Fault Refusal

/-! ### Agents and units -/

/-- The index of an agent's context. -/
def agentId : Agent → Nat
  | .thread c t => c * 16 + t
  | .bank t b => 8192 + t * 2 + b

def isDense : Agent → Bool
  | .thread _ _ => false
  | .bank _ _ => true

def agentClass (a : Agent) : CoreClass := if isDense a then .dense else .lookup

/-- The core of an agent. -/
def agentCore : Agent → CoreRef
  | .thread c _ => .lc c
  | .bank t _ => .dt t

/-- The thread slot or bank number of an agent. -/
def agentSlot : Agent → Nat
  | .thread _ t => t
  | .bank _ b => b

/-- The die, sector and core fields of a core (R2, R4). -/
def coreFields : CoreRef → Nat × Nat × Nat
  | .lc i => (i / 256, i / 16 % 16, i % 16)
  | .dt j => (j / 32, j / 2 % 16, 16 + j % 2)

/-- The 24-bit core number of a core of module `m` (R4). -/
def coreNumber (m : Nat) (u : CoreRef) : Nat :=
  let (d, s, c) := coreFields u
  m * 4096 + d * 512 + s * 32 + c

/-- The core that a core number names within its module, where it names one (R4, R5). -/
def coreOfNumber (n : Nat) : Option CoreRef :=
  let d := bitsOf n 9 9
  let s := bitsOf n 8 5
  let c := bitsOf n 4 0
  if bitsOf n 11 10 ≠ 0 then none
  else if c ≤ 15 then some (.lc (d * 256 + s * 16 + c))
  else if c ≤ 17 then some (.dt (d * 32 + s * 2 + (c - 16)))
  else none

/-- The module field of a core number (R4). -/
def moduleOfNumber (n : Nat) : Nat := bitsOf n 23 12

/-- The size in bytes of one word or bundle (R225). -/
def stepBytes (a : Agent) : BitVec 48 := if isDense a then 16#48 else 4#48

/-- The bytes of a vector register (R297). -/
def vectorBytes (a : Agent) : Nat := if isDense a then 512 else 64

/-! ### Parts of the state -/

def State.lc (s : State) (i : Nat) : LCore := getAt s.lcs i LCore.reset
def State.setLc (s : State) (i : Nat) (c : LCore) : State := { s with lcs := setAt s.lcs i c }
def State.dt (s : State) (j : Nat) : DTile := getAt s.dts j DTile.reset
def State.setDt (s : State) (j : Nat) (t : DTile) : State := { s with dts := setAt s.dts j t }

/-- The active plane of a lookup core or dense tile (R377). -/
def State.lp (s : State) (i : Nat) : LPlane := (s.lc i).plane
def State.setLp (s : State) (i : Nat) (p : LPlane) : State := s.setLc i { s.lc i with plane := p }
def State.dp (s : State) (j : Nat) : DPlane := (s.dt j).plane
def State.setDp (s : State) (j : Nat) (p : DPlane) : State := s.setDt j { s.dt j with plane := p }

/-- The context of a thread or register bank at reset: `vlen` is the full vector length of its core (R299). -/
def Ctx.resetOf (a : Agent) : Ctx := { Ctx.reset with vlen := BitVec.ofNat 64 (vectorBytes a) }

/-- The context of an agent. -/
def State.ctx (s : State) (a : Agent) : Ctx := getAt s.ctxs (agentId a) (Ctx.resetOf a)
def State.setCtx (s : State) (a : Agent) (c : Ctx) : State := { s with ctxs := setAt s.ctxs (agentId a) c }

/-- The context of the agent whose turn it is. -/
def State.cur (s : State) : Ctx := s.ctx s.focus
def State.setCur (s : State) (c : Ctx) : State := s.setCtx s.focus c

/-- The occupant of a slot. -/
def State.slot (s : State) (c t : Nat) : Option Slot := findAt (s.lp c).slots t

/-- The task that an agent runs. -/
def State.task (s : State) (a : Agent) : Task :=
  match a with
  | .thread c t =>
    match s.slot c t with
    | some sl => getAt (s.lp c).tasks sl.task Task.reset
    | none => Task.reset
  | .bank t b =>
    match findAt (s.dp t).banks b with
    | some i => i.task
    | none => Task.reset

/-- The state with the task of an agent changed. -/
def State.setTask (s : State) (a : Agent) (k : Task) : State :=
  match a with
  | .thread c t =>
    match s.slot c t with
    | some sl => s.setLp c { s.lp c with tasks := setAt (s.lp c).tasks sl.task k }
    | none => s
  | .bank t b =>
    match findAt (s.dp t).banks b with
    | some i => s.setDp t { s.dp t with banks := setAt (s.dp t).banks b { i with task := k } }
    | none => s

/-- The partition key of an agent (partkey, R185). -/
def State.key (s : State) (a : Agent) : Nat := (s.task a).key
def State.curKey (s : State) : Nat := s.key s.focus

/-- The partition register set of a key (R380). -/
def State.part (s : State) (k : Nat) : PartSet := getAt s.parts k PartSet.reset
def State.setPart (s : State) (k : Nat) (p : PartSet) : State := { s with parts := setAt s.parts k p }

/-- The tid of an agent: 0 on a dense tile (R352, R133). -/
def State.tid (s : State) (a : Agent) : Nat :=
  match a with
  | .thread c t => match s.slot c t with
    | some sl => sl.tid
    | none => 0
  | .bank _ _ => 0

/-- The core number of an agent's core on this module. -/
def State.coreNo (s : State) (a : Agent) : Nat := coreNumber s.module (agentCore a)

/-! ### The agenda, and free values -/

/-- A step of another unit becomes due, after those already due. -/
def State.push (s : State) (i : Instr) : State := { s with agenda := s.agenda ++ [i] }

/-- The cycles of the arithmetic clock that `n` memory cycles take: 16 memory cycles are 13 cycles (R6). -/
def memoryCycles (n : Nat) : Nat := (n * 13 + 15) / 16

def State.pushAll (s : State) (is : List Instr) : State := { s with agenda := s.agenda ++ is }

/-- A free number, and the state that has used it (DESIGN CHOICE, log 6). -/
def State.freeNat (s : State) : Nat × State := (Config.freeNat s.free, { s with free := s.free + 1 })
def State.freeBool (s : State) : Bool × State := (Config.freeBool s.free, { s with free := s.free + 1 })

/-! ### Registers -/

/-- A scalar register: x0 reads 0 (R227). -/
def Ctx.readX (c : Ctx) (r : BitVec 5) : BitVec 64 := if r = 0#5 then 0#64 else c.x.get r.toFin

/-- A scalar register written: a write to x0 is discarded (R227). -/
def Ctx.writeX (c : Ctx) (r : BitVec 5) (v : BitVec 64) : Ctx :=
  if r = 0#5 then c else { c with x := c.x.set r.toNat v r.isLt }

def Ctx.readV (c : Ctx) (r : BitVec 5) : BitVec 4096 := c.v.get r.toFin
def Ctx.writeV (c : Ctx) (r : BitVec 5) (v : BitVec 4096) : Ctx := { c with v := c.v.set r.toNat v r.isLt }
def Ctx.readK (c : Ctx) (r : BitVec 3) : BitVec 256 := c.k.get r.toFin
def Ctx.writeK (c : Ctx) (r : BitVec 3) (v : BitVec 256) : Ctx := { c with k := c.k.set r.toNat v r.isLt }
def Ctx.readH (c : Ctx) (r : BitVec 3) : BitVec 128 := c.h.get r.toFin
def Ctx.writeH (c : Ctx) (r : BitVec 3) (v : BitVec 128) : Ctx := { c with h := c.h.set r.toNat v r.isLt }

/-- The registers of the agent whose turn it is (R232). -/
def State.x (s : State) (r : BitVec 5) : BitVec 64 := s.cur.readX r
def State.v (s : State) (r : BitVec 5) : BitVec 4096 := s.cur.readV r
def State.k (s : State) (r : BitVec 3) : BitVec 256 := s.cur.readK r
def State.h (s : State) (r : BitVec 3) : BitVec 128 := s.cur.readH r

/-- A register of a group, by distance from its first (R280). -/
def State.xg (s : State) (r : BitVec 5) (n : Nat) : BitVec 64 := s.x (r + BitVec.ofNat 5 n)

/-- A masked write of a context register. -/
def Ctx.mix (c : Ctx) (r : RegRef) (value mask : BitVec 4096) : Ctx :=
  match r with
  | .x d => c.writeX d ((c.readX d &&& ~~~(mask.setWidth 64)) ||| (value.setWidth 64 &&& mask.setWidth 64))
  | .v d => c.writeV d ((c.readV d &&& ~~~mask) ||| (value &&& mask))
  | .k d => c.writeK d ((c.readK d &&& ~~~(mask.setWidth 256)) ||| (value.setWidth 256 &&& mask.setWidth 256))
  | .h d => c.writeH d ((c.readH d &&& ~~~(mask.setWidth 128)) ||| (value.setWidth 128 &&& mask.setWidth 128))
  | .flags => { c with mflags := (c.mflags &&& ~~~(mask.setWidth 64)) ||| (value.setWidth 64 &&& mask.setWidth 64) }
  | .vlen => { c with vlen := (c.vlen &&& ~~~(mask.setWidth 64)) ||| (value.setWidth 64 &&& mask.setWidth 64) }

/-- A result put in flight by a dense-tile operation of latency `lat` (R176). -/
def State.fly (s : State) (t b : Nat) (r : RegRef) (lat : Nat) (value mask : BitVec 4096) : State :=
  let p := s.dp t
  { s.setDp t { p with flights := p.flights ++ [⟨b, r, value, mask, p.vcc, lat, s.free⟩] } with free := s.free + 1 }

/-- A scalar result: at once on a lookup core, in flight for `lat` virtual cycles on a dense tile (R162, R176, R177). -/
def State.setX (s : State) (lat : Nat) (d : BitVec 5) (v : BitVec 64) : State :=
  match s.focus with
  | .thread _ _ => s.setCur (s.cur.writeX d v)
  | .bank t b => if d = 0#5 then s else s.fly t b (.x d) lat (v.setWidth 4096) (BitVec.ofNat 4096 (2 ^ 64 - 1))

/-- A vector result under a bit mask. -/
def State.setV (s : State) (lat : Nat) (d : BitVec 5) (v mask : BitVec 4096) : State :=
  match s.focus with
  | .thread _ _ => s.setCur (s.cur.mix (.v d) v mask)
  | .bank t b => s.fly t b (.v d) lat v mask

/-- A predicate result under a bit mask. -/
def State.setK (s : State) (lat : Nat) (d : BitVec 3) (v mask : BitVec 256) : State :=
  match s.focus with
  | .thread _ _ => s.setCur (s.cur.mix (.k d) (v.setWidth 4096) (mask.setWidth 4096))
  | .bank t b => s.fly t b (.k d) lat (v.setWidth 4096) (mask.setWidth 4096)

/-- A handle result. -/
def State.setH (s : State) (lat : Nat) (d : BitVec 3) (v : BitVec 128) : State :=
  match s.focus with
  | .thread _ _ => s.setCur (s.cur.writeH d v)
  | .bank t b => s.fly t b (.h d) lat (v.setWidth 4096) (BitVec.ofNat 4096 (2 ^ 128 - 1))

/-- Flags are ORed into mflags (R138). -/
def State.raiseFlags (s : State) (lat : Nat) (f : BitVec 64) : State :=
  if f = 0#64 then s
  else match s.focus with
    | .thread _ _ => s.setCur { s.cur with mflags := s.cur.mflags ||| f }
    | .bank t b => s.fly t b .flags lat (f.setWidth 4096) (f.setWidth 4096)

/-- A window's value once its operation is complete. -/
def Win.settled {α : Type} (w : Win α) : Win α := ⟨w.new, w.new, 0, 0⟩

/-- The array state with every operation in flight complete. -/
def ArrayState.settled (a : ArrayState) : ArrayState :=
  { a with
    fa := a.fa.map fun e => (e.1, e.2.settled)
    fb := a.fb.map fun e => (e.1, e.2.settled)
    bank := a.bank.map fun e => (e.1, e.2.settled)
    plane := a.plane.settled
    acc := []
    acfg := a.acfg.settled }

/-- The bits of a flight whose 32-bit elements have landed by virtual cycle `v` (R176). -/
def landedMask (f : Flight) (v : Nat) : BitVec 4096 :=
  if f.issue + f.latency ≤ v then f.mask
  else if f.latency ≤ 1 then 0#4096
  else (List.range 128).foldl (fun m e =>
    if f.issue + 1 + Config.landing f.num e % f.latency ≤ v then m ||| (BitVec.ofNat 4096 (2 ^ 32 - 1) <<< (32 * e)) else m) 0#4096
      &&& f.mask

/-- The flights of a tile landed by virtual cycle `v`, oldest first, into the contexts they belong to. -/
def landFlights (t v : Nat) (fs : List Flight) (s : State) : List Flight × State :=
  match fs with
  | [] => ([], s)
  | f :: rest =>
    let m := landedMask f v
    let s1 := s.setCtx (.bank t f.bank) ((s.ctx (.bank t f.bank)).mix f.reg f.value m)
    let (keep, s2) := landFlights t v rest s1
    (if f.issue + f.latency ≤ v then keep else { f with mask := f.mask &&& ~~~m } :: keep, s2)

/-- Every result of tile `t` that has landed by virtual cycle `v` is written. -/
def State.land (s : State) (t v : Nat) : State :=
  let (keep, s1) := landFlights t v (s.dp t).flights s
  s1.setDp t { s1.dp t with flights := keep }

/-! ### The program counter and the loop stack -/

/-- Where issue goes on after the word or bundle at `addr`, with the end action of hardware loops (R256). -/
def loopEnd (addr u : BitVec 48) (ls : List LoopEntry) : BitVec 48 × List LoopEntry :=
  match ls with
  | [] => (addr + u, [])
  | e :: rest =>
    if e.last = addr then
      if e.idx + 1#64 < e.trip then (e.first, { e with idx := e.idx + 1#64 } :: rest)
      else loopEnd addr u rest
    else (addr + u, e :: rest)

/-- The context after its word or bundle has completed with the next address its own plus `u` (R256). -/
def Ctx.advance (c : Ctx) (u : BitVec 48) : Ctx :=
  { c with pc := (loopEnd c.pc u c.loops).1, loops := (loopEnd c.pc u c.loops).2 }

/-- The word of an agent has completed. On a dense tile the bundle's pc moves with its slot 0 (DEDUCED, log 11). -/
def State.completeFor (s : State) (a : Agent) : State :=
  match a with
  | .thread _ _ => s.setCtx a ((s.ctx a).advance 4#48)
  | .bank _ _ => if s.bslot = 0 then s.setCtx a ((s.ctx a).advance 16#48) else s

def State.complete (s : State) : State := s.completeFor s.focus

/-- The slot of a bundle that a top byte's engine takes (R228): a copy word stands in slot 3, the others that wait in slot 0. -/
def waitSlot (top : Nat) : Nat := if top / 32 = 5 then 3 else 0

/-- The scheduled latency of a word that another unit answers (R51, R261): that of any other space. A TRNS miss and a CCAN pause at once (R180). -/
def stepLatency (top : Nat) : Nat := if top = 0x26 ∨ top = 0xAD then 0 else 400

/-- The instruction in issue waits for a step of another unit (R163). On a dense tile its word has issued, and the counter pauses once the answer
is later than its scheduled latency (R180). -/
def State.awaitStep (s : State) (top : Nat) : State :=
  match s.focus with
  | .thread _ _ => s.setCur { s.cur with wait := .completion top }
  | .bank t b =>
    let p := s.dp t
    (s.setDp t { p with lates := p.lates ++ [⟨b, .none, p.vcc + stepLatency top, s.cur.pc, s.bslot, s.cur.opnd, p.vcc, 0#128, none, top, s.cur.waitLoops⟩] }).complete

/-- Whether an agent waits for the step of a top byte. -/
def State.waitsFor (s : State) (a : Agent) (top : Nat) : Bool :=
  match a with
  | .thread _ _ => (s.ctx a).wait = .completion top
  | .bank t b => (s.dp t).lates.any fun l => l.bank = b && l.dest = .none && l.top = top

/-- The wait of an agent ended without completing its instruction: a lookup thread issues it again. -/
def State.unwait (s : State) (a : Agent) (top : Nat) : State :=
  match a with
  | .thread _ _ => s.setCtx a { s.ctx a with wait := .none }
  | .bank t b =>
    let p := s.dp t
    s.setDp t { p with lates := p.lates.filter fun l => !(l.bank = b && l.dest = .none && l.top = top) }

/-- A word that has waited for a step of another unit completes (R163, R180). -/
def State.finish (s : State) (a : Agent) (top : Nat) : State :=
  match a with
  | .thread _ _ => s.setCtx a (({ s.ctx a with wait := .none } : Ctx).advance 4#48)
  | .bank _ _ => s.unwait a top

/-- A word completes where its agent waits for exactly that. -/
def State.wake (s : State) (a : Agent) (top : Nat) : State := if s.waitsFor a top then s.finish a top else s

/-- A transfer of control to `t` (R225, R253). A taken transfer on a dense tile is followed by the target at issue + 3. -/
def State.goTo (s : State) (t : BitVec 48) : State :=
  match s.focus with
  | .thread _ _ => s.setCur { s.cur with pc := t }
  | .bank b _ => (s.setCur { s.cur with pc := t }).setDp b { s.dp b with vcc := (s.dp b).vcc + 2 }

/-- The instruction waits and issues again at the agent's next turn (R163, R180). -/
def State.again (s : State) : State := s.setCur { s.cur with wait := .again }

/-- The agent leaves rotation until `n` replies are written; on a dense tile the word has issued and its reply is due `lat`
virtual cycles later (R51, R162, R180). -/
def State.await (s : State) (n lat : Nat) (d : Dest) : State :=
  match s.focus with
  | .thread _ _ => s.setCur { s.cur with wait := .replies n }
  | .bank t b =>
    let p := s.dp t
    let late : Late := ⟨b, d, p.vcc + lat, s.cur.pc, s.bslot, s.cur.opnd, p.vcc, s.cur.readH s.cur.opnd.2, none, 0, s.cur.waitLoops⟩
    (s.setDp t { p with lates := p.lates ++ List.replicate n late }).complete

/-! ### Bytes of memory -/

/-- The space and module of a global physical address (R11). -/
def spaceOf (pa : Nat) : Nat := bitsOf pa 51 48
def moduleOf (pa : Nat) : Nat := bitsOf pa 63 52
def offsetOf (pa : Nat) : Nat := pa % 2 ^ 48

/-- The owned-view offset of a striped offset (R12, R13). -/
def ownedOfStriped (s : Nat) : Nat := bitsOf s 20 12 * 0x30000000 + (bitsOf s 47 21 * 4096 + bitsOf s 11 0)

/-- An address on its owned alias (R13). -/
def canon (pa : Nat) : Nat :=
  if spaceOf pa = 1 then moduleOf pa * 2 ^ 52 + ownedOfStriped (offsetOf pa) else pa

/-- Bytes of a space's memory at global physical addresses already taken on the owned alias. -/
def State.read (s : State) (pa n : Nat) : List Byte := memRead s.mem pa n
def State.readNat (s : State) (pa n : Nat) : Nat := bytesToNat (memRead s.mem pa n)

/-- Bytes written. A write that covers a whole granule clears its poison (R58). -/
def State.write (s : State) (pa : Nat) (bs : List Byte) : State :=
  { s with
    mem := memWrite s.mem pa bs
    poison := s.poison.filter fun g => !(decide (pa ≤ g * 64) && decide (g * 64 + 64 ≤ pa + bs.length)) }

def State.writeNat (s : State) (pa n v : Nat) : State := s.write pa (natToBytes n v)

/-- Whether any of `n` bytes from `pa` lies in a poisoned granule (R58). -/
def State.poisoned (s : State) (pa n : Nat) : Bool :=
  s.poison.any fun g => decide (g * 64 < pa + n) && decide (pa < g * 64 + 64)

/-- The granules of `n` bytes from `pa` take poison along (R58). -/
def State.addPoison (s : State) (pa n : Nat) : State :=
  { s with poison := s.poison ++ ((List.range ((pa + n + 63) / 64 - pa / 64)).map (· + pa / 64)).filter fun g => !s.poison.contains g }

/-! ### Interrupts and the fault queue -/

/-- A module vector's event: one message until its source is acknowledged (R413); none before stage C (R425). -/
def State.raiseVector (s : State) (v : Nat) : State :=
  if s.boot.stage < 2 || s.boot.coalesced.contains v then s
  else { s with boot := { s.boot with msix := s.boot.msix ++ [v], coalesced := s.boot.coalesced ++ [v] } }

/-- A launch port's vector (R412). -/
def State.raisePort (s : State) (n : Nat) : State :=
  if (getAt s.disp.ports n LaunchPort.reset).ie then { s with boot := { s.boot with msix := s.boot.msix ++ [n] } } else s

/-- A module vector's source is acknowledged (R413). -/
def State.ackVector (s : State) (v : Nat) : State :=
  { s with boot := { s.boot with coalesced := s.boot.coalesced.filter (· ≠ v) } }

/-- The 32 bytes of a fault record (R374). -/
structure FaultRec where
  cause : Nat
  ds : Bool := false
  dt : Bool := false
  db : Bool := false
  uh : Bool := false
  slot : Nat := 0
  tag : Nat := 0
  core : Nat := 0
  tval : Nat := 0
  tinfo : Nat := 0
  key : Nat := 0
  epc : Nat := 0
  deriving DecidableEq, Repr

def bit (b : Bool) : Nat := if b then 1 else 0

def faultRecord (r : FaultRec) : Nat :=
  r.cause % 256 * 2 ^ 248 + bit r.ds * 2 ^ 247 + bit r.dt * 2 ^ 246 + bit r.db * 2 ^ 245 + bit r.uh * 2 ^ 244
    + r.slot % 16 * 2 ^ 240 + r.tag % 4096 * 2 ^ 228 + r.core % 2 ^ 24 * 2 ^ 200 + r.tval % 2 ^ 64 * 2 ^ 128
    + r.tinfo % 2 ^ 64 * 2 ^ 64 + r.key % 65536 * 2 ^ 48 + r.epc % 2 ^ 48

/-- A fault record posted (R373, R413): lost where the ring is full, with `lost` raised; none while EN is 0. -/
def State.postFault (s : State) (r : FaultRec) : State :=
  let q := s.regs
  if q.fqen = false then s
  else if q.fqtail + 1#11 = q.fqhead then
    { s with regs := { q with fqlost := if q.fqlost = BitVec.allOnes 32 then q.fqlost else q.fqlost + 1#32 } }
  else
    let s1 := s.writeNat (canon (q.fqbase.toNat + 32 * q.fqtail.toNat)) 32 (faultRecord r)
    ({ s1 with regs := { s1.regs with fqtail := q.fqtail + 1#11 } }).raiseVector 256

/-! ### Line locks, journal -/

/-- The locks of a thread released: each line of its list loses one lock (R45). -/
def State.releaseLocks (s : State) (a : Agent) : State :=
  match a with
  | .bank _ _ => s
  | .thread c _ =>
    let ls := (s.ctx a).locks
    let p := s.lp c
    let l1 := p.l1.map fun l => { l with lock := l.lock - (ls.filter (· = l.line)).length }
    -- a line with no valid byte and no lock is no line
    (s.setLp c { p with l1 := l1.filter fun l => l.valid ≠ 0#64 || l.lock ≠ 0 }).setCtx a { s.ctx a with locks := [] }

/-- The next free journal number in ring order (R262); none where all 32 are live. -/
def nextEntry (c : Ctx) : Option Nat :=
  ((List.range 32).map fun i => (c.jpos + 1 + i) % 32).find? fun j => (findAt c.journal j).isNone

/-- Whether the journal is full (R163, R262). -/
def journalFull (c : Ctx) : Bool := (nextEntry c).isNone

/-- A posted instruction takes its journal entry (R262): the number and the state. The entry is held under a waypoint (R275). -/
def State.takeEntry (s : State) (top : Nat) (hnd : BitVec 3) (ofs : BitVec 64) (parts : Nat) : Nat × State :=
  let c := s.cur
  match nextEntry c with
  | none => (0, s)
  | some j => (j, s.setCur { c with
      journal := setAt c.journal j ⟨c.pc, BitVec.ofNat 8 top, hnd, ofs, parts, c.wayOpen, 0#128, 0, 0, s.cycle⟩, jpos := j })

/-- The handle that an entry's instruction has read, and the bytes that it reaches through it (R25, R261). -/
def State.noteHandle (s : State) (j : Nat) (h : BitVec 128) (len : Nat) : State :=
  match findAt s.cur.journal j with
  | some e => s.setCur { s.cur with journal := setAt s.cur.journal j { e with hval := h, len := len } }
  | none => s

/-- One part of a journal entry is answered; the last retires it (R104, R358). -/
def State.retirePart (s : State) (a : Agent) (j : Nat) : State :=
  let c := s.ctx a
  match findAt c.journal j with
  | none => s
  | some e => s.setCtx a { c with
      journal := if e.parts ≤ 1 then dropAt c.journal j else setAt c.journal j { e with parts := e.parts - 1 } }

/-! ### Packets to other modules (R378, R396 to R407) -/

/-- The other modules that a gang-wide step reaches. -/
def State.otherModules (s : State) : List Nat := s.fabric.domain.filter (· ≠ s.module)

/-- The virtual channel of what a packet carries (R398). -/
def channelOf (b : Payload) : Nat :=
  match b with
  | .gangStart _ _ _ => 0
  | .marker _ => 0
  | .gkeyRemove _ => 0
  | .revoke _ => 0
  | .reply _ => 2
  | .ack _ _ _ _ => 2
  | .done _ kind _ => if kind = 0x27 ∨ kind = 0xD1 ∨ kind = 0xD2 then 0 else 2
  | .req r =>
    (match r.who with
      | .copy _ _ => 5
      | _ => if r.jent.isSome then 3 else 1)
  | .gather _ => 1
  | .rowWrite _ => 1
  | .rowZero _ => 1
  | .command _ top _ => if top = 0x38 ∨ top = 0x39 then 3 else 1
  | .accum _ => 3
  | .task _ => 3
  | .segment _ => 3
  | .commit _ => 3
  | .travel _ => 4
  | .delivery _ => 5

/-- The ports that a packet of a channel and key may leave by (R400, R403, R405). -/
def State.usablePorts (s : State) (vc key : Nat) : List Nat :=
  (s.fabric.ports.filter fun e =>
    e.2.state = .up && e.2.dis = false && e.2.susp.getLsbD vc = false && (vc = 0 || e.2.allow.contains key)).map (·.1)

/-! The sending side of a port (R396 to R399). -/

/-- The flits of a packet: the last completes it. -/
def packetFlits (num : Nat) (p : Packet) : List Flit :=
  (List.range p.nd).map (fun i => Flit.mk (num + i) p.vc none) ++ [Flit.mk (num + p.nd) p.vc (some p)]

/-- The order in which packets that are ready leave (R398): control first, then one packet of each channel in turn. -/
def servePackets (ps : List Packet) : List Packet :=
  (ps.filter fun p => p.vc = 0) ++ (List.range ps.length).flatMap fun i => [1, 2, 3, 4, 5].filterMap fun v => (ps.filter fun p => p.vc = v)[i]?

/-- A port sends every packet that its channel lets start; its flits stay in the replay buffer until they are acknowledged (R397, R399). -/
def pumpPort (q : Port) : Port :=
  if q.state = .up ∧ q.dis = false then
    let fs := (servePackets (q.queue.filter fun p => !q.stopped.getLsbD p.vc)).foldl (fun l p => l ++ packetFlits (q.nextNum + l.length) p) []
    { q with
      queue := q.queue.filter fun p => q.stopped.getLsbD p.vc
      replay := q.replay ++ fs
      nextNum := q.nextNum + fs.length }
  else q

/-- The skid reserve of a link's channels: ceil(f t) + 8 flits, f being 3.5, 1.75 or 0.875 a ns (R399). -/
def skidReserve (width rtt : Nat) : Nat := (7 * rtt + 2 * 2 ^ width - 1) / (2 * 2 ^ width) + 8

/-- Each channel's share of the receive buffer with `n` channels carried (R399). -/
def channelShare (width n : Nat) : Nat := 4096 / 2 ^ width / n

/-- The occupancy that a channel may have without stop being asserted (R399). -/
def stopLimit (q : Port) : Nat :=
  channelShare q.width ((List.range 6).filter fun v => !q.susp.getLsbD v).length - skidReserve q.width q.rtt

/-- The occupancy of a channel's receive buffer, with the stop or go that follows from it (R399). -/
def occupy1 (q : Port) (vc n : Nat) : Port :=
  { q with
    occupancy := setAt q.occupancy vc n
    asserted := if stopLimit q < n then q.asserted ||| (1#6 <<< vc) else q.asserted &&& ~~~(1#6 <<< vc) }

/-- The flits of a packet leave the buffer of the port that it came by. -/
def State.freeFlits (s : State) (port : Nat) (p : Packet) : State :=
  let q := getAt s.fabric.ports port Port.reset
  { s with fabric := { s.fabric with ports := setAt s.fabric.ports port (occupy1 q p.vc (getAt q.occupancy p.vc 0 - (p.nd + 1))) } }

/-- A packet put on the port that the hash picks, or made to wait where no path is usable (R405, R407). -/
def State.route1 (s : State) (p : Packet) : State :=
  let us := s.usablePorts p.vc p.key
  match us[Config.linkHash s.module (moduleOfNumber p.dst) % us.length]? with
  | none => { s with fabric := { s.fabric with waiting := s.fabric.waiting ++ [{ p with since := if p.since = 0 then s.cycle else p.since }] } }
  | some n =>
    let q := getAt s.fabric.ports n Port.reset
    { s with fabric := { s.fabric with ports := setAt s.fabric.ports n (pumpPort { q with queue := q.queue ++ [{ p with since := 0 }] }) } }

/-- The index of a sequence counter: source module, destination module and channel (R406). -/
def seqIndex (src dst vc : Nat) : Nat := (src * 4096 + dst) * 8 + vc

/-- A packet stamped and sent (R378, R396, R406). -/
def State.sendPacket (s : State) (dst src key kind tag jent addr nd : Nat) (b : Payload) : State :=
  let vc := channelOf b
  let ix := seqIndex s.module (moduleOfNumber dst) vc
  let n := getAt s.fabric.seqOut ix 0
  let s1 := { s with fabric := { s.fabric with seqOut := setAt s.fabric.seqOut ix ((n + 1) % 65536) } }
  s1.route1 ⟨dst, src, key, (s.part key).scount.toNat, vc, nd, kind, tag, jent, n, addr, b, 0⟩

/-! ### Completion records and held companions -/

/-- Whether a line lies in this module's own memory, outside every registered range, with no write to it held: nothing but the line takes part in
a write of it. -/
def State.plainLine (s : State) (pa : Nat) : Bool :=
  let a := canon pa
  moduleOf pa = s.module && decide (spaceOf pa ≤ 3) &&
    (s.homes.ranges.all fun g => decide (a + 64 ≤ g.lo) || decide (g.lo + g.len ≤ a)) &&
    s.homes.heldWrites.all fun w => decide (canon w.2.pa + 64 ≤ a) || decide (a + 64 ≤ canon w.2.pa)

/-- A completion record written whole at crec (R190): status, detail, tasks, killed, tstart, tend. A record on another module, in host memory or in a
registered range goes to its site as a store does (R115). The interrupt of the launch's port follows the write (R412). -/
def State.writeCompletion (s : State) (record : BitVec 512) (port : Option Nat) (status detail tasks killed tstart tend : Nat) : State :=
  let r := record.toNat
  let crec := bitsOf r (128 + 63) (128 + 6) * 64
  let key := bitsOf r 63 48
  let bs := natToBytes 8 (2 ^ 63 + status % 8 * 2 ^ 60 + detail % 256 * 2 ^ 48 + key * 2 ^ 32 + tasks % 2 ^ 32)
    ++ natToBytes 8 (killed % 2 ^ 32 * 2 ^ 32) ++ natToBytes 8 tstart ++ natToBytes 8 tend ++ natToBytes 32 0
  if s.plainLine crec then
    let s1 := s.write (canon crec) bs
    match port with
    | some p => s1.raisePort p
    | none => s1
  else
    let q : Request := {
      who := .host
      core := coreNumber s.module (.lc 0)
      key := key
      op := .store
      pa := crec
      len := 64
      data := bs
      dest := (match port with
        | some p => .area 0 0#5 p
        | none => .none)
      acq := true }
    if moduleOf crec = s.module then s.push (.homeRequest q)
    else s.sendPacket (coreNumber (moduleOf crec) (.lc 0)) q.core key 0 0 0 crec 1 (.req q)

/-- Check 11 of R185: crec in spaces 0x0 to 0x3 or 0x5. -/
def crecOk (record : BitVec 512) : Bool :=
  let sp := spaceOf (bitsOf record.toNat (128 + 63) (128 + 6) * 64)
  decide (sp ≤ 3) || sp = 5

/-- A launch rejected (R185, R188, R190): the completion record, or NR on its port where its crec fails check 11. -/
def State.rejectLaunch (s : State) (record : BitVec 512) (port : Option Nat) (detail : Nat) : State :=
  if crecOk record && detail ≠ 0x0C then s.writeCompletion record port 1 detail 0 0 0 s.timeNs
  else match port with
    | some p =>
      let q := getAt s.disp.ports p LaunchPort.reset
      ({ s with disp := { s.disp with ports := setAt s.disp.ports p { q with nr := true } } }).raisePort p
    | none => s

/-- The held launch of a thread that ends, is parked or migrates is rejected with 0x0B (R185). -/
def State.dropCompanion (s : State) (a : Agent) : State :=
  match (s.ctx a).companion with
  | none => s
  | some r => (s.setCtx a { s.ctx a with companion := none }).rejectLaunch r none 0x0B

/-- A launch's table entry changed. -/
def State.setLaunch (s : State) (tag : Nat) (f : Launch → Launch) : State :=
  match findAt s.disp.launches tag with
  | some l => { s with disp := { s.disp with launches := setAt s.disp.launches tag (f l) } }
  | none => s

/-! ### Ending and parking a thread -/

/-- Every task of a launch is looked at again when its live travel count has fallen to 0 (R174). -/
def State.checkTasks (s : State) (tag : Nat) : State :=
  match findAt s.disp.launches tag with
  | some l =>
    if l.travel = 0 then
      s.pushAll (s.lcs.flatMap fun e => (e.2.plane.tasks.filter fun k => k.2.valid && k.2.tag = tag && k.2.unstarted = []).map fun k => .taskEnd e.1 k.1)
    else s
  | none => s

def State.lowerTravel (s : State) (tag : Nat) : State :=
  (s.setLaunch tag fun l => { l with travel := l.travel - 1 }).checkTasks tag

/-- The thread of a slot leaves it: no writer mask names it any more (R63), and no fill of its brings a line. -/
def LPlane.forget (p : LPlane) (t : Nat) : LPlane :=
  { p with
    l1 := p.l1.map fun l => { l with writers := l.writers &&& ~~~(1#16 <<< t) }
    wb := p.wb.map fun w => (w.1, w.2 &&& ~~~(1#16 <<< t))
    misses := p.misses.filter fun m => m.slot ≠ t }

/-- A lookup thread's slot freed: the task may end and the ready queue may grant (R174, R198). -/
def State.freeSlot (s : State) (c t : Nat) : State :=
  match s.slot c t with
  | none => s
  | some sl =>
    (s.setLp c { (s.lp c).forget t with slots := dropAt (s.lp c).slots t }).pushAll [.taskEnd c sl.task, .slotGrant c]

/-- Thread `t` of its task has ended, or is killed: its bit of `ended` is set, and a visitor lowers the launch's live travel
count (R174, R194). -/
def State.endThread (s : State) (c t : Nat) (tend : Bool) : State :=
  match s.slot c t with
  | none => s
  | some sl =>
    let k := getAt (s.lp c).tasks sl.task Task.reset
    if sl.visitor then (s.freeSlot c t).lowerTravel k.tag
    else
      let ts := setAt (s.lp c).tasks sl.task { k with ended := if tend then k.ended ||| (1#16 <<< sl.tid) else k.ended }
      (s.setLp c { s.lp c with tasks := ts }).freeSlot c t

/-- The core number of the thread that a held operation belongs to (R103). -/
def payloadCore (b : Payload) : Nat :=
  match b with
  | .req r => r.core
  | .accum x => x.core
  | .task t => t.core
  | .segment g => g.core
  | .command _ _ (core :: _) => core
  | _ => 0

/-- The partition key of the thread that a held operation belongs to. -/
def payloadKey (b : Payload) : Nat :=
  match b with
  | .req r => r.key
  | .accum x => x.key
  | .task t => t.key
  | .segment g => g.key
  | .command _ _ (_ :: key :: _) => key
  | _ => 0

/-- Whether a held operation belongs to agent `a` of core number `core` under a key: two planes of a core have the same slots (R377). -/
def Pending.of (p : Pending) (core key : Nat) (a : Agent) : Bool := p.who = a && payloadCore p.body = core && payloadKey p.body = key

/-- The key of the active plane of an agent's core (R377). -/
def State.coreKey (s : State) (a : Agent) : Nat :=
  match a with
  | .thread c _ => (s.lp c).key
  | .bank j _ => (s.dp j).key

/-- Whether a key is switched out, beyond the stop of its switch (R383, R387). -/
def State.keyOut (s : State) (k : Nat) : Bool :=
  s.gang.suspended.contains k && !(s.gang.runs.any fun r => r.out = k && decide (r.phase ≤ 1))

/-- The pending operations of agent `a` of core number `core` discarded at the sites of this module (R362). -/
def State.discardOf (s : State) (core key : Nat) (a : Agent) : State :=
  { s with homes := { s.homes with pending := s.homes.pending.filter (fun p => !(p.of core key a)) } }

/-- A thread's pending operations discarded at every site, and its waiting row reads (R362, R371). -/
def State.discardPending (s : State) (a : Agent) : State :=
  let core := s.coreNo a
  let s1 := s.discardOf core (s.coreKey a) a
  let s2 := { s1 with homes := { s1.homes with waiting := s1.homes.waiting.filter (fun w => !(w.2.who = a && w.2.core = core)) } }
  if (s.ctx a).journal.any (fun e => e.2.held) then
    s2.otherModules.foldl (fun x m => x.sendPacket (coreNumber m (.lc 0)) core (x.key a) 0x39 0 0 0 0 (.command a 0x39 [core])) s2
  else s2

/-! ### Calling off what an instruction awaits (R289, R362, R371) -/

/-- Whether a reply to a request is awaited by agent `a` of core number `core`. -/
def awaits (core : Nat) (a : Agent) (r : Request) : Bool := r.who = .agent a && r.core = core && r.jent = none && r.dest ≠ .none

def reads (core : Nat) (a : Agent) (g : Gather) : Bool := g.who = a && g.core = core

/-- Whether a step that is due brings, or leads to, a reply that the agent awaits. -/
def calledOff (core : Nat) (a : Agent) (i : Instr) : Bool :=
  match i with
  | .homeRequest r => awaits core a r
  | .tileWindowAccess r => awaits core a r
  | .forwardedOperation _ _ r => awaits core a r
  | .replyWritten r => r.who = .agent a && r.dest ≠ .none
  | .homeGather g => reads core a g
  | .gatherResend g => reads core a g
  | .homeRowWriteback w => w.who = a && w.core = core
  | .homeZero z => z.who = a && z.core = core
  | _ => false

/-- What is left of a request that is called off: a load is discarded, and an atomic is performed and answers nobody. -/
def callOffReq (core : Nat) (a : Agent) (r : Request) : Option Request :=
  if awaits core a r = false then some r
  else match r.op with
    | .load | .generation | .fill _ _ => none
    | _ => some { r with who := .host, dest := .none, acq := false }

def callOffStep (core : Nat) (a : Agent) (i : Instr) : Option Instr :=
  match i with
  | .homeRequest r => (callOffReq core a r).map .homeRequest
  | .tileWindowAccess r => (callOffReq core a r).map .tileWindowAccess
  | .forwardedOperation c t r => (callOffReq core a r).map (.forwardedOperation c t)
  | _ => if calledOff core a i then none else some i

/-- The waiting row reads without those of an agent: a merge entry that one of them stands for goes on for the first request that has joined it (R84). -/
def callOffWaiting (core : Nat) (a : Agent) (ms : List MergeEntry) (ws : List (Nat × Gather)) : List (Nat × Gather) :=
  ws.filterMap fun w =>
    if reads core a w.2 = false then some w
    else match (ms.find? fun m => w.2.merge = some m.id).bind fun m => (m.joined.filter fun g => !reads core a g).head? with
      | some g => some (w.1, { g with merge := w.2.merge })
      | none => none

/-- The merge entries without the requests of an agent (R84). -/
def callOffMerges (core : Nat) (a : Agent) (ms : List MergeEntry) : List MergeEntry :=
  ms.filterMap fun m =>
    let js := m.joined.filter fun g => !reads core a g
    if reads core a m.first = false then some { m with joined := js }
    else match js with
      | g :: rest => some { m with first := { g with merge := some m.id }, joined := rest }
      | [] => none

/-- What an agent awaits is called off at this module: how many replies will not come, and the state without them. -/
def State.callOff (s : State) (a : Agent) : Nat × State :=
  let core := s.coreNo a
  let h := s.homes
  let gone := (s.agenda.filter (calledOff core a)).length + (h.waiting.filter fun w => reads core a w.2).length
    + (h.merges.map fun m => (m.joined.filter (reads core a)).length).sum
    + (h.ranges.map fun (g : Range) => (g.held.filter (awaits core a)).length).sum
    + (h.heldWrites.filter fun w => awaits core a w.2).length
  let s1 := { s with
    agenda := s.agenda.filterMap (callOffStep core a)
    homes := { h with
      waiting := callOffWaiting core a h.merges h.waiting
      merges := callOffMerges core a h.merges
      ranges := h.ranges.map fun (g : Range) => { g with held := g.held.filterMap (callOffReq core a) }
      heldWrites := h.heldWrites.filterMap fun (w : Nat × Request) => (callOffReq core a w.2).map fun r => (w.1, r) } }
  (gone, match a with
    | .thread c t => s1.setLp c { s1.lp c with misses := (s1.lp c).misses.filter fun m => m.slot ≠ t }
    | .bank _ _ => s1)

/-- A thread leaves an instruction that awaits replies: those of this module are called off, and the others are discarded as they come. -/
def State.leaveReplies (s : State) (a : Agent) : State :=
  match a, (s.ctx a).wait with
  | .thread c t, .replies n =>
    let (gone, s1) := s.callOff a
    if gone < n ∧ s.otherModules ≠ [] then s1.setLp c { s1.lp c with strays := setAt (s1.lp c).strays t (n - gone) } else s1
  | _, _ => s

/-- The replies that slot `t` discards before it goes on. -/
def LPlane.stray (p : LPlane) (t : Nat) : Nat := getAt p.strays t 0

/-- What is left of a request of agent `a` once it is parked (R104): its loads are discarded, its other operations complete and
answer nobody. -/
def disownReq (core : Nat) (a : Agent) (r : Request) : Option Request :=
  if r.who ≠ .agent a ∨ r.core ≠ core then some r
  else match r.op with
    | .load | .generation | .fill _ _ => none
    | _ => if r.held then none else some { r with who := .host, jent := none, acq := false }

/-- What is left of a step that is due once agent `a` is parked, or rolled back (R104, R362): replies to it and its loads are
discarded, its other operations complete and answer nobody. -/
def disownStep (core : Nat) (a : Agent) (i : Instr) : Option Instr :=
  let req (r : Request) : Option Request := disownReq core a r
  match i with
  | .homeRequest r => (req r).map .homeRequest
  | .tileWindowAccess r => (req r).map .tileWindowAccess
  | .forwardedOperation c t r => (req r).map (.forwardedOperation c t)
  | .replyWritten r => if r.who = .agent a then none else some i
  | .lateReplyArrival r => if r.who = .agent a then none else some i
  | .journalAck w _ => if w = a then none else some i
  | .refusalArrival w _ _ _ => if w = a then none else some i
  | .translationWalkComplete w _ _ _ => if w = a then none else some i
  | .homeGather g => if g.who = a ∧ g.core = core then none else some i
  | .gatherResend g => if g.who = a ∧ g.core = core then none else some i
  | .homeAccumulate x => if x.who = a ∧ x.core = core then (if x.held then none else some (.homeAccumulate { x with jent := none })) else some i
  | .taskOperationArrival x =>
    if x.who = a ∧ x.core = core then (if x.held then none else some (.taskOperationArrival { x with jent := none })) else some i
  | .lsendSegmentArrival x =>
    if x.who = a ∧ x.core = core then (if x.held then none else some (.lsendSegmentArrival { x with jent := none })) else some i
  | _ => some i

/-- The steps that are due after agent `a` is parked. -/
def State.disown (s : State) (a : Agent) : State :=
  let h := s.homes
  let core := s.coreNo a
  { s with
    agenda := s.agenda.filterMap (disownStep core a)
    homes := { h with
      ranges := h.ranges.map fun (g : Range) => { g with held := g.held.filterMap (disownReq core a) }
      heldWrites := h.heldWrites.filterMap fun (w : Nat × Request) => (disownReq core a w.2).map fun r => (w.1, r)
      merges := h.merges.map fun (m : MergeEntry) => { m with joined := m.joined.filter fun g => !(g.who = a && g.core = core) }
      announced := h.announced.map fun (n : Announce) => if n.who = .agent a ∧ n.core = core then { n with who := .host } else n
      heldAnnounces := h.heldAnnounces.filter fun (n : HeldAnnounce) => !(n.who = .agent a && n.core = core)
      tableRuns := h.tableRuns.filter fun (n : TableRun) => n.who ≠ a } }

/-- Whether a step that is due is one of agent `a`'s pending operations, or its walk (R362). -/
def rolledBack (core : Nat) (a : Agent) (i : Instr) : Bool :=
  let req (r : Request) : Bool := r.who = .agent a && r.core = core && r.held
  match i with
  | .homeRequest r => req r
  | .tileWindowAccess r => req r
  | .forwardedOperation _ _ r => req r
  | .translationWalkComplete w _ _ _ => w = a
  | .homeAccumulate x => x.who = a && x.core = core && x.held
  | .taskOperationArrival x => x.who = a && x.core = core && x.held
  | .lsendSegmentArrival x => x.who = a && x.core = core && x.held
  | _ => false

/-- The other thread of a double-stitch pair (R165). -/
def State.partner (s : State) (a : Agent) : Option Agent :=
  match a with
  | .thread c t => if (s.task a).ds then some (.thread c ((t + 8) % 16)) else none
  | .bank _ _ => none

/-- The event record of a parked thread or bank (R374). -/
def State.parkRecord (s : State) (a : Agent) (cause tval tinfo : Nat) (db uh : Bool) : FaultRec where
  cause := cause
  ds := (s.task a).ds
  dt := isDense a
  db := db
  uh := uh
  slot := agentSlot a
  tag := (s.task a).tag
  core := s.coreNo a
  tval := tval
  tinfo := tinfo
  key := s.key a
  epc := (s.ctx a).pc.toNat

/-- The tiles of a tile's group (R179, R181): itself where it is alone. -/
def State.groupOf (s : State) (j : Nat) : List Nat :=
  let m := (s.dp j).members
  if m.getLsbD (j % 32) then ((List.range 32).filter fun i => m.getLsbD i).map fun i => j / 32 * 32 + i else [j]

/-- The other members of a tile's group are to switch banks with it (R204, R368). -/
def State.switchOthers (s : State) (j : Nat) : State :=
  ((s.groupOf j).filter (· ≠ j)).foldl (fun x i => (x.setDp i { x.dp i with sync := 4 }).push (.denseBankSwitch i)) s

/-- A tile leaves its group (R345). -/
def State.leaveGroup (s : State) (j : Nat) : State :=
  { s with dts := s.dts.map fun (e : Nat × DTile) =>
      if e.1 / 32 ≠ j / 32 then e
      else (e.1, { e.2 with plane := { e.2.plane with
        members := if e.1 = j then 0#32 else e.2.plane.members &&& ~~~(1#32 <<< (j % 32)) } }) }

/-- What a thread that is parked leaves behind (R104, R371). -/
def State.leaveBehind (s : State) (a : Agent) : State := ((((s.leaveReplies a).disown a).releaseLocks a).discardPending a).dropCompanion a

/-- A parked thread's register bank scrubbed and its slot freed (R371); it counts as ended and as killed. The position in its
slot's stochastic stream stays (R170, DEDUCED, log 12). -/
def State.scrubThread (s : State) (a : Agent) : State :=
  match a with
  | .thread c t =>
    let s1 := s.leaveBehind a
    let s2 := s1.setLaunch (s1.task a).tag fun l => { l with killed := l.killed + 1 }
    (s2.setCtx a { Ctx.reset with src := (s2.ctx a).src }).endThread c t false
  | .bank t b =>
    let s1 := s.leaveBehind a
    let s2 := (s1.setLaunch (s1.task a).tag fun l => { l with killed := l.killed + 1, ended := l.ended + 1 }).switchOthers t |>.leaveGroup t
    let p := s2.dp t
    let s3 := s2.setDp t { p with
      -- the parked bank's operations have left the engines (R365)
      array := if p.active = b then { p.array.settled with msq := none } else p.array
      uses := if p.active = b then [] else p.uses
      busy := if p.active = b then [] else p.busy
      banks := dropAt p.banks b, timer := if p.timerBank = b then 0#64 else p.timer, members := 0#32, lates := p.lates.filter (fun l => l.bank ≠ b),
      again := if p.active = b then [] else p.again,
      traps := p.traps.filter (fun x => x.bank ≠ b), flights := p.flights.filter (fun f => f.bank ≠ b) }
    (s3.setCtx a (Ctx.resetOf a)).pushAll [.denseBankSwitch t, .launchComplete (s2.task a).tag]

/-- The other slot of a pair that has been parked: the pair is one thread (R102). -/
def State.scrubPartner (s : State) (b : Agent) : State :=
  match b with
  | .thread c t =>
    let s1 := s.leaveBehind b
    let s2 := (s1.setCtx b { Ctx.reset with src := (s1.ctx b).src }).freeSlot c t
    s2.setLp c { s2.lp c with pairs := dropAt (s2.lp c).pairs (t % 8) }
  | .bank _ _ => s

/-- A thread or a pair scrubbed. -/
def State.scrubBoth (s : State) (a : Agent) : State :=
  match s.partner a with
  | none => s.scrubThread a
  | some b => (s.scrubThread a).scrubPartner b

/-- A thread or bank parked (R371): one event record; a pair frees both slots. -/
def State.parkAgent (s : State) (a : Agent) (cause tval tinfo : Nat) (db uh : Bool) : State :=
  (s.postFault (s.parkRecord a cause tval tinfo db uh)).scrubBoth a

/-! ### Taking a trap and returning from one -/

/-- The bits of the cause register (R351). -/
def causeIH (c : BitVec 64) : Bool := c.getLsbD 9
def causePL (c : BitVec 64) : Bool := c.getLsbD 10
def causeRP (c : BitVec 64) : Bool := c.getLsbD 11

/-- The cause register written at trap entry (R355, R367). -/
def causeWord (t : TrapInfo) (sup : Bool) : BitVec 64 :=
  BitVec.ofNat 64 (t.cause % 256 + bit t.async * 256 + 512 + bit sup * 1024 + bit t.replay * 2048)

/-- The handler of a cause and the level in it (R354); none: the thread or bank is parked. -/
def State.route (s : State) (a : Agent) (cause : Nat) : Option (BitVec 48 × Bool) :=
  let c := s.ctx a
  let p := s.part (s.key a)
  let sv := (if isDense a then p.svpcd else p.svpc).setWidth 48
  let hpc := (s.task a).hpc
  if causeIH c.cause then none
  else if c.sup then (if sv ≠ 0#48 then some (sv, true) else none)
  else if p.tdeleg.getLsbD cause && decide (cause < 32) && hpc ≠ 0#48 then some (hpc, false)
  else if sv ≠ 0#48 then some (sv, true)
  else none

/-- TAKING A TRAP (R354, R355, R356): the trap registers written and the pc at the handler, or the thread parked as a double
trap or as unhandled (R371). -/
def State.enterTrap (s : State) (a : Agent) (t : TrapInfo) (epc : BitVec 48) : State :=
  let c := s.ctx a
  match s.route a t.cause with
  | some (pc, sup) =>
    s.setCtx a { c with
      cause := causeWord t c.sup, epc := epc.setWidth 64, tval := t.tval, tinfo := t.tinfo, tfmt := t.tfmt, tvec := t.tvec,
      sup := sup, pc := pc, wait := .none, inbox := none, flight := none, caught := none, want := none }
  | none =>
    s.parkAgent a t.cause t.tval.toNat t.tinfo.toNat (causeIH c.cause) (!causeIH c.cause)

/-- A trap taken, or for a thread of a pair raised: the pair takes it when its partner raises the same (R168). -/
def State.takeTrap (s : State) (a : Agent) (t : TrapInfo) (epc : BitVec 48) : State :=
  match s.partner a with
  | none => s.enterTrap a t epc
  | some _ => s.setCtx a { s.ctx a with caught := some (t, epc), wait := .again, inbox := none, flight := none }

/-- Both threads of a pair, or the one thread, take a trap at the boundary they stand at. -/
def State.enterBoth (s : State) (a : Agent) (t : TrapInfo) (epc : BitVec 48) : State :=
  match s.partner a with
  | none => s.enterTrap a t epc
  | some b =>
    if (s.route a t.cause).isSome then (s.enterTrap a t epc).enterTrap b t epc else s.enterTrap a t epc

/-- A trap of the instruction in issue. A lookup thread takes it at once, with epc its own pc; a dense tile records it, and its
drain takes it (R364 to R366). -/
def State.raise (s : State) (t : TrapInfo) : State :=
  match s.focus with
  | .thread _ _ => s.takeTrap s.focus t s.cur.pc
  | .bank j b =>
    let p := s.dp j
    s.setDp j { p with traps := p.traps ++
      [⟨b, s.bslot, ⟨t.cause, 0, t.tval.toNat⟩, t.tinfo.toNat, t.tfmt.toNat, t.tvec.toNat, s.cur.pc, true, false, false, false, p.vcc, none, 0⟩] }

/-- trap(cause, tval, tinfo) of R232: precise, with no further effect. -/
def State.trap (s : State) (cause : Nat) (tval : BitVec 64) (tinfo : Nat) : State :=
  s.raise { cause := cause, tval := tval, tinfo := BitVec.ofNat 64 tinfo }

/-- An illegal-instruction cause found after decoding (R230, R265, R275): tval the word, tinfo the slot and the detail. -/
def State.illegal (s : State) (w : Word) (detail : Nat) : State :=
  s.trap 0x01 (w.setWidth 64) (detail + (if isDense s.focus then 256 * s.bslot else 0))

/-- A trap taken once its instruction has completed: `s` is the state after it (R139, R216, R337). On a dense tile it is seen `delay` cycles later. -/
def State.trapAfter (s : State) (t : TrapInfo) (delay : Nat) : State :=
  match s.focus with
  | .thread _ _ => s.takeTrap s.focus t s.cur.pc
  | .bank j b =>
    let p := s.dp j
    s.setDp j { p with traps := p.traps ++
      [⟨b, s.bslot, ⟨t.cause, 0, t.tval.toNat⟩, t.tinfo.toNat, t.tfmt.toNat, t.tvec.toNat, s.cur.pc, false, false, false, false, p.vcc, none, p.vcc + delay⟩] }

/-- A trap of a word whose answer has come (R263, R364): a lookup thread takes it at the word, which it has not left; a dense tile
drains for it and replays the word after the handler (R367). -/
def State.trapLate (s : State) (a : Agent) (t : TrapInfo) (pc : BitVec 48) (slot issued : Nat) : State :=
  match a with
  | .thread _ _ => s.takeTrap a t (s.ctx a).pc
  | .bank j b =>
    let p := s.dp j
    (s.setDp j { p with traps := p.traps ++
      [⟨b, slot, ⟨t.cause, 0, t.tval.toNat⟩, t.tinfo.toNat, t.tfmt.toNat, t.tvec.toNat, pc, false, true, t.async, false, issued, none, 0⟩] }).push (.trapDrain j)

/-- The trap of a word that has waited for the step of a top byte. -/
def State.failStep (s : State) (a : Agent) (top : Nat) (t : TrapInfo) : State :=
  match a with
  | .thread _ _ => s.takeTrap a t (s.ctx a).pc
  | .bank j b =>
    match (s.dp j).lates.find? (fun l => l.bank = b && l.dest = .none && l.top = top) with
    | some l => (s.unwait a top).trapLate a t l.pc l.slot l.issued
    | none => s

/-- RETURNING FROM A TRAP (R357): level := PL, IH := 0, pc := epc. -/
def State.returnTrap (s : State) (a : Agent) : State :=
  let c := s.ctx a
  s.setCtx a { c with
    sup := causePL c.cause, cause := c.cause &&& ~~~(512#64), pc := c.epc.setWidth 48 }

/-! ### Rollback (R361, R362) -/

/-- The registers of a checkpoint restored: the cause reaches WPB's destination, and IH is cleared. -/
def Ctx.restore (c : Ctx) (k : Checkpoint) (cause : Nat) : Ctx :=
  ({ c with
      pc := k.pc, sup := k.sup, x := k.x, v := k.v, k := k.k, h := k.h, loops := k.loops, mflags := k.mflags,
      ascope := k.ascope, cbko := k.cbko, src := k.src, cause := c.cause &&& ~~~(512#64), wayOpen := false,
      committing := false,
      checkpoint := none, wait := .none, undo := none, inbox := none, num := 0, flight := none, caught := none, want := none,
      refusals := c.refusals.filter (fun r => !((c.journal.any fun e => e.1 = r.jent && e.2.held))),
      journal := c.journal.filter (fun e => !e.2.held) } : Ctx).writeX c.wayDest (BitVec.ofNat 64 cause)

/-- A thread rolled back to a checkpoint: its pending operations are discarded everywhere. -/
def State.rollbackTo (s : State) (a : Agent) (k : Checkpoint) (cause : Nat) : State :=
  let s0 := s.leaveReplies a
  let s1 := { s0 with agenda := s0.agenda.filter fun i => !rolledBack (s.coreNo a) a i }
  let c := (s.ctx a).restore k cause
  (s1.discardPending a).setCtx a (match a with
    | .thread i t => if (s1.lp i).stray t = 0 then c else { c with wait := .strays }
    | .bank _ _ => c)

/-- A thread with an open waypoint rolled back. -/
def State.rollbackOne (s : State) (a : Agent) (cause : Nat) : State :=
  match (s.ctx a).checkpoint with
  | none => s
  | some k => s.rollbackTo a k cause

/-- A rollback; a double-stitch pair rolls back together, and nothing unmatched is released (R102, R168, R372). -/
def State.rollback (s : State) (a : Agent) (cause : Nat) : State :=
  match s.partner a with
  | none => s.rollbackOne a cause
  | some b =>
    let s1 := (s.rollbackOne a cause).rollbackOne b cause
    match a with
    | .thread c t => s1.setLp c { s1.lp c with pairs := dropAt (s1.lp c).pairs (t % 8) }
    | .bank _ _ => s1

/-- An uncorrectable error consumed (R371): rollback with a waypoint open, else parking. -/
def State.consumePoison (s : State) (a : Agent) : State :=
  if (s.ctx a).wayOpen then s.rollback a 0x12 else s.parkAgent a 0x12 0 0 false false

/-! ### Asynchronous refusals -/

/-- A refusal of a journal entry queued, or merged into the entry's waiting record (R359). -/
def mergeRefusal (q : List RefusalRec) (r : RefusalRec) : List RefusalRec :=
  match q with
  | [] => [r]
  | w :: rest =>
    if w.jent = r.jent then
      { w with merged := min (w.merged + 1) 0xFFFF, mixed := w.mixed || w.cause ≠ r.cause || w.detail ≠ r.detail } :: rest
    else w :: mergeRefusal rest r

/-- The trap that a waiting refusal record gives (R358). -/
def refusalTrap (r : RefusalRec) : TrapInfo where
  cause := r.cause
  tval := BitVec.ofNat 64 r.tval
  tinfo := BitVec.ofNat 64 (r.merged % 65536 * 65536 + bit r.mixed * 8192 + r.jent % 32 * 256 + r.detail % 256)
  tfmt := r.ofs
  tvec := BitVec.ofNat 64 (r.top.toNat * 2 ^ 56 + r.handle.toNat * 2 ^ 53 + r.addr.toNat)
  async := true

end Sys2Proof.Machine
end

