-- ==== Sys2Proof/Machine/Address.lean ====
section
/-! DEFINITION. Global physical addresses, the page-table walk, handles and the checks on every access (R11 to R24). -/

namespace Sys2Proof.Machine

/-- The offset limit of a space; none for a reserved space (R12). -/
def spaceLimit (sp : Nat) : Option Nat :=
  match sp with
  | 0 => some 0x6000000000
  | 1 => some 0x6000000000
  | 2 => some 0x10000000000
  | 3 => some 0x20000000
  | 4 => some 0x200000000
  | 5 => some 0x1000000000000
  | 6 => some 0x1000000000000
  | _ => none

/-- The defined bytes of the window of core field `c` (R14). -/
def windowBytes (c : Nat) : Nat := if c ≤ 15 then 0x50000 else if c ≤ 17 then 0x300000 else 0

/-- Whether a space-0x4 offset is a reserved byte (R14). -/
def reservedByte (off : Nat) : Bool := decide (windowBytes (bitsOf off 27 22) ≤ bitsOf off 21 0)

/-- Whether every byte of [off, off + n) of space 0x4 is reserved (R14, R265). -/
def allReserved (off n : Nat) : Bool :=
  (List.range ((off + n + 0x3FFFFF) / 0x400000 - off / 0x400000)).all fun i =>
    let w := off / 0x400000 + i
    windowBytes (w % 64) = 0 || decide (w * 0x400000 + windowBytes (w % 64) ≤ off) || decide (off + n ≤ w * 0x400000)

/-- The core whose window a space-0x4 offset lies in (R12). -/
def windowCore (off : Nat) : Option CoreRef :=
  let d := bitsOf off 32 32
  let s := bitsOf off 31 28
  let c := bitsOf off 27 22
  if c ≤ 15 then some (.lc (d * 256 + s * 16 + c))
  else if c ≤ 17 then some (.dt (d * 32 + s * 2 + (c - 16))) else none

/-- The window address of a core's byte (R12). -/
def windowAddr (m : Nat) (u : CoreRef) (byte : Nat) : Nat :=
  let (d, s, c) := coreFields u
  m * 2 ^ 52 + 4 * 2 ^ 48 + d * 2 ^ 32 + s * 2 ^ 28 + c * 2 ^ 22 + byte

/-- The home slice pair of an address of spaces 0x0, 0x1, 0x2 and 0x5 (R12, R32). -/
def homePair (pa : Nat) : Nat :=
  if spaceOf pa = 2 ∨ spaceOf pa = 5 then bitsOf pa 20 12 else offsetOf (canon pa) / 0x30000000

/-- The home lookup core of an address (R271). -/
def homeCore (pa : Nat) : Nat :=
  if spaceOf pa = 3 then bitsOf (offsetOf pa) 28 24 * 16
  else if spaceOf pa = 4 then
    match windowCore (offsetOf pa) with
    | some (.lc i) => i
    | some (.dt j) => j / 2 * 16
    | none => 0
  else homePair pa % 512

/-- Whether an access of `key` to module `m` passes that module's ports (R15). -/
def State.admits (s : State) (m key : Nat) : Bool :=
  if m = s.module then true else s.fabric.domain.contains m && (s.part key).admitted

/-! ### Handles (R23) -/

def hV (h : BitVec 128) : Bool := h.getLsbD 127
def hD (h : BitVec 128) : Bool := h.getLsbD 126
def hO (h : BitVec 128) : Bool := h.getLsbD 125
def hR (h : BitVec 128) : Bool := h.getLsbD 122
def hW (h : BitVec 128) : Bool := h.getLsbD 121
def hA (h : BitVec 128) : Bool := h.getLsbD 120
def hP (h : BitVec 128) : Bool := h.getLsbD 119
def hS (h : BitVec 128) : Bool := h.getLsbD 118
def hLg (h : BitVec 128) : Nat := (h.extractLsb' 112 6).toNat
def hKey (h : BitVec 128) : Nat := (h.extractLsb' 96 16).toNat
def hBase (h : BitVec 128) : Nat := (h.extractLsb' 0 64).toNat

/-- The highest valid offset (R23). -/
def hLimit (h : BitVec 128) : Nat := 2 ^ hLg h - 1

/-- The tier field of a space (R23). -/
def tierOf (sp : Nat) : Nat :=
  match sp with
  | 0 => 0
  | 1 => 0
  | 2 => 1
  | 5 => 2
  | _ => 3

/-- A handle's word (R23, R265). -/
def mkHandle (d o : Bool) (rights : Nat) (p : Bool) (lg key base : Nat) : BitVec 128 :=
  BitVec.ofNat 128 (2 ^ 127 + bit d * 2 ^ 126 + bit o * 2 ^ 125 + tierOf (spaceOf base) * 2 ^ 123 + rights % 8 * 2 ^ 120
    + bit p * 2 ^ 119 + bit (spaceOf base = 6) * 2 ^ 118 + lg % 64 * 2 ^ 112 + key % 65536 * 2 ^ 96 + base % 2 ^ 64)

/-- The handle with V cleared (R25). -/
def hClear (h : BitVec 128) : BitVec 128 := h &&& ~~~(1#128 <<< 127)

/-- The kinds of access and the rights they need (R24). -/
inductive Access where
  | load
  | store
  | amor
  | acc
  deriving DecidableEq, Repr

def rightsOk (h : BitVec 128) (k : Access) : Bool :=
  match k with
  | .load => hR h
  | .store => hW h
  | .amor => hR h && hW h && hA h
  | .acc => hW h && hA h

/-- The checks of R24, in order: the first failing check's cause. `drop` asks for check 6. -/
def checkHandle (sup : Bool) (h : BitVec 128) (o n align : Nat) (k : Access) (drop : Bool) : Option Nat :=
  if hV h = false then some 0x04
  else if hS h = true ∧ sup = false then some 0x03
  else if ¬(o + n ≤ hLimit h + 1) then some 0x05
  else if rightsOk h k = false then some 0x06
  else if o % align ≠ 0 then some 0x07
  else if drop = true ∧ hD h = true then some 0x0E
  else none

/-- tval is the offset and tinfo the handle number for causes 0x04 to 0x07 and 0x0E (R24, R159). A privilege failure has the
slot in tinfo (R230). -/
def State.handleTrap (s : State) (cause : Nat) (o : BitVec 64) (m : BitVec 3) : State :=
  s.trap cause o (if cause = 0x03 then (if isDense s.focus then 256 * s.bslot else 0) else m.toNat)

/-! ### The page table (R16 to R19, R22) -/

def pteV (e : BitVec 64) : Bool := e.getLsbD 63
def pteKind (e : BitVec 64) : Nat := (e.extractLsb' 61 2).toNat
def pteR (e : BitVec 64) : Bool := e.getLsbD 60
def pteW (e : BitVec 64) : Bool := e.getLsbD 59
def pteA (e : BitVec 64) : Bool := e.getLsbD 58
def pteD (e : BitVec 64) : Bool := e.getLsbD 57
def pteO (e : BitVec 64) : Bool := e.getLsbD 56
def pteAddr (e : BitVec 64) : Nat := (e.extractLsb' 0 48).toNat

/-- The physical page of a leaf (R17). -/
def leafPage (e : BitVec 64) : Nat := pteAddr e * 65536

/-- The address of a structure that a pointer or ptroot names, in module `m` (R17, R20). -/
def pointed (m a : Nat) : Nat := m * 2 ^ 52 + a * 16

/-- Whether a leaf of page size 2^lg is malformed (R18, R14). -/
def leafMalformed (e : BitVec 64) (lg : Nat) : Bool :=
  (e.extractLsb' 48 8 ≠ 0#8) ||
  (lg = 21 && (pteD e || pteO e || pteAddr e % 32 ≠ 0)) ||
  (match spaceLimit (spaceOf (leafPage e)) with
   | none => true
   | some lim => decide (lim < offsetOf (leafPage e) + 2 ^ lg)) ||
  (spaceOf (leafPage e) = 4 && allReserved (offsetOf (leafPage e)) (2 ^ lg))

/-- Whether a pointer to a structure of `align` bytes alignment is malformed (R18). -/
def pointerMalformed (m : Nat) (e : BitVec 64) (align : Nat) : Bool :=
  (e.extractLsb' 48 8 ≠ 0#8) || pteR e || pteW e || pteA e || pteD e || pteO e ||
  (pointed m (pteAddr e) % align ≠ 0) || decide (3 < spaceOf (pointed m (pteAddr e)))

/-- How a walk ends: a leaf with its page size, or the depth at which it stopped and whether the entry was malformed (R22). -/
inductive Walk where
  | leaf (e : BitVec 64) (lg : Nat) (pa : Nat) (depth : Nat)
  | stop (depth : Nat) (bad : Bool)
  deriving DecidableEq, Repr

/-- An eight-byte entry at a physical address. -/
def State.entryAt (s : State) (pa : Nat) : BitVec 64 := BitVec.ofNat 64 (s.readNat (canon pa) 8)

/-- The walk of a leaf block (R16). -/
def State.walkBlock (s : State) (block va : Nat) : Walk :=
  let pa := block + bitsOf va 20 16 * 8
  let e := s.entryAt pa
  if pteV e = false then .stop 2 false
  else if pteKind e ≠ 0 || leafMalformed e 16 then .stop 2 true
  else .leaf e 16 pa 2

/-- The walk of a 2 MiB node or a 64 KiB node (R16, R18). -/
def State.walkNode (s : State) (big : Bool) (node va : Nat) : Walk :=
  let pa := node + (if big then bitsOf va 33 16 else bitsOf va 33 21) * 8
  let e := s.entryAt pa
  if pteV e = false then .stop 1 false
  else if pteKind e = 1 then (if leafMalformed e 21 then .stop 1 true else .leaf e 21 pa 1)
  else if big then
    (if pteKind e = 0 then (if leafMalformed e 16 then .stop 1 true else .leaf e 16 pa 1) else .stop 1 true)
  else if pteKind e = 3 then
    (if pointerMalformed s.module e 256 then .stop 1 true else s.walkBlock (pointed s.module (pteAddr e)) va)
  else .stop 1 true

/-- The walk of a virtual address below 2^48 for a partition (R16, R22). -/
def State.walk (s : State) (key va : Nat) : Walk :=
  let rt := (s.part key).ptroot
  if rt.getLsbD 63 = false then .stop 0 false
  else
    let e := s.entryAt (pointed s.module (rt.extractLsb' 0 48).toNat + bitsOf va 47 34 * 8)
    if pteV e = false then .stop 0 false
    else if pteKind e = 2 then
      (if pointerMalformed s.module e 0x200000 then .stop 0 true
       else s.walkNode true (pointed s.module (pteAddr e)) va)
    else if pteKind e = 3 then
      (if pointerMalformed s.module e 0x10000 then .stop 0 true
       else s.walkNode false (pointed s.module (pteAddr e)) va)
    else .stop 0 true

/-- The exponent of the addresses that a leaf found by a walk translates: a 2 MiB node's entries translate 64 KiB each (R19). -/
def State.leafSpan (s : State) (key va lg : Nat) : Nat :=
  if pteKind (s.entryAt (pointed s.module ((s.part key).ptroot.extractLsb' 0 48).toNat + bitsOf va 47 34 * 8)) = 2 then 16 else lg

/-- The translation cache of an agent's core (R21). -/
def State.trans (s : State) (u : CoreRef) : List TransEntry :=
  match u with
  | .lc i => (s.lc i).trans
  | .dt j => (s.dt j).trans

def State.setTrans (s : State) (u : CoreRef) (ts : List TransEntry) : State :=
  match u with
  | .lc i => s.setLc i { s.lc i with trans := ts }
  | .dt j => s.setDt j { s.dt j with trans := ts }

/-- The entry of a translation cache for a page of a key (R21). -/
def transFind (ts : List TransEntry) (key va : Nat) : Option TransEntry :=
  ts.find? fun e => e.key = key && e.page = va / 2 ^ e.span

/-- A leaf enters the cache; a full cache loses its oldest entry (R21: 64 and 32 entries; the entry lost is DESIGN CHOICE, log 13). -/
def State.transAdd (s : State) (u : CoreRef) (e : TransEntry) : State :=
  let cap := match u with
    | .lc _ => 64
    | .dt _ => 32
  let ts := s.trans u
  s.setTrans u ((if cap ≤ ts.length then ts.drop 1 else ts) ++ [e])

/-- The leaf that a walk of a virtual address has found enters a core's cache (R21). -/
def State.transLearn (s : State) (u : CoreRef) (key va : Nat) (e : BitVec 64) (lg : Nat) : State :=
  let sp := s.leafSpan key va lg
  s.transAdd u ⟨key, lg, sp, va / 2 ^ sp, e⟩

/-- What a translation gives: a leaf with its page size, whether it was cached, or the fields of a page fault (R22). -/
inductive Translation where
  | hit (e : BitVec 64) (lg : Nat)
  | walked (e : BitVec 64) (lg : Nat)
  | fault (tinfo : Nat)
  deriving DecidableEq, Repr

/-- The translation of an operand for an agent, without changing any cache (R22). -/
def State.translate (s : State) (u : CoreRef) (key : Nat) (sup : Bool) (va : BitVec 64) : Translation :=
  if va.extractLsb' 48 16 ≠ 0#16 then .fault 512
  else if (s.part key).ptroot.getLsbD 63 = false then .fault 0
  else match transFind (s.trans u) key va.toNat with
    | some e =>
      if spaceOf (leafPage e.leaf) = 6 ∧ sup = false then
        .fault (match s.walk key va.toNat with
          | .leaf _ _ _ d => d
          | .stop d _ => d)
      else .hit e.leaf e.lg
    | none =>
      match s.walk key va.toNat with
      | .stop d bad => .fault (d + bit bad * 128)
      | .leaf e lg _ d => if spaceOf (leafPage e) = 6 ∧ sup = false then .fault d else .walked e lg

/-- The handle of a leaf for a key (R265). -/
def leafHandle (e : BitVec 64) (lg key : Nat) : BitVec 128 :=
  mkHandle (pteD e) (pteO e) (bit (pteR e) * 4 + bit (pteW e) * 2 + bit (pteA e)) false lg key (leafPage e)

/-! ### Fetch (R226) -/

/-- The lines of a core's instruction cache. -/
def State.codeLines (s : State) (u : CoreRef) : List CodeLine :=
  match u with
  | .lc c => (s.lc c).icache
  | .dt j => (s.dt j).icache

def State.setCodeLines (s : State) (u : CoreRef) (ls : List CodeLine) : State :=
  match u with
  | .lc c => s.setLc c { s.lc c with icache := ls }
  | .dt j => s.setDt j { s.dt j with icache := ls }

def isTile : CoreRef → Bool
  | .lc _ => false
  | .dt _ => true

/-- The lines of an instruction cache: 32 KiB on a lookup core and 64 KiB on a dense tile (R226). -/
def codeRoom (u : CoreRef) : Nat := if isTile u then 1024 else 512

/-- A line taken in; the oldest one leaves a full cache (DESIGN CHOICE, log 102). -/
def State.addCode (s : State) (u : CoreRef) (line : Nat) (bs : List Byte) : State :=
  let kept := (s.codeLines u).filter fun l => l.line ≠ line
  s.setCodeLines u ((if codeRoom u ≤ kept.length then kept.drop 1 else kept) ++ [⟨line, bs⟩])

/-- What a fetch gives: the bytes, a trap at the pc, or a miss of the line that holds them. -/
inductive Fetched where
  | bytes (bs : List Byte)
  | trap (t : TrapInfo)
  | miss (line : Nat)
  deriving DecidableEq, Repr

/-- The word or bundle at an address, fetched for an agent through its core's instruction cache (R226). An address that is not a multiple of `u`
(R219, R225), which a TRET, a CTXL or a handler's address can give, is a misaligned access at the fetch (DEDUCED, log 129). -/
def State.fetch (s : State) (a : Agent) (pc : BitVec 48) : Fetched :=
  let n := (stepBytes a).toNat
  let look (e : BitVec 64) (lg : Nat) : Fetched :=
    if pteR e = false then .trap { cause := 0x06, tval := pc.setWidth 64 }
    else
      let pa := canon (leafPage e + pc.toNat % 2 ^ lg)
      match (s.codeLines (agentCore a)).find? fun l => l.line = pa / 64 * 64 with
      | some l => .bytes ((l.data.drop (pa % 64)).take n)
      | none => .miss (pa / 64 * 64)
  if pc.toNat % n ≠ 0 then .trap { cause := 0x07, tval := pc.setWidth 64 }
  else match s.translate (agentCore a) (s.key a) (s.ctx a).sup (pc.setWidth 64) with
    | .hit e lg => look e lg
    | .walked e lg => look e lg
    | .fault t => .trap { cause := 0x08, tval := pc.setWidth 64, tinfo := BitVec.ofNat 64 (t + 256) }

end Sys2Proof.Machine
end

