-- ==== Sys2Proof/Machine/Control.lean ====
section
/-! DEFINITION. The registers of control space and of BAR 2 as reads see them, and the step that a write makes (R9, R28, R30,
R85, R156, R187, R194, R373, R375, R379, R380, R382, R390, R391, R403, R410 to R412, R426, R429, R430). -/

namespace Sys2Proof.Machine

/-- gangstat (R382). -/
def State.gangstat (s : State) : BitVec 64 := s.regs.gangstat

/-- The two 64-bit halves of notice and fault queue control (R30, R373). -/
def queueCtl (en : Bool) (lost : BitVec 32) : Nat := bit en * 2 ^ 32 + lost.toNat

/-- An entry of a lookup core's task table as control space shows it (R194). -/
def taskWord (k : Task) : Nat :=
  bit k.valid * 2 ^ 255 + k.bprio % 4 * 2 ^ 253 + k.eprio % 4 * 2 ^ 251 + bit k.hold * 2 ^ 250 + bit k.ready * 2 ^ 249
    + bit k.ds * 2 ^ 248 + (k.width - 1) % 16 * 2 ^ 244 + k.tag % 4096 * 2 ^ 228 + k.slice % 65536 * 2 ^ 212
    + k.age % 4096 * 2 ^ 200 + k.inc % 256 * 2 ^ 192 + k.entry.toNat * 2 ^ 144 + k.arg.toNat * 2 ^ 96 + k.hpc.toNat * 2 ^ 48
    + k.n % 2 ^ 32 * 2 ^ 16 + k.ended.toNat

/-- A free entry shows its incarnation and zeros (R194). -/
def taskShown (k : Task) : Nat := if k.valid then taskWord k else k.inc % 256 * 2 ^ 192

/-- A late-packet log entry (R390). -/
def lateWord (e : LateEntry) : Nat :=
  e.key % 65536 * 2 ^ 240 + e.scnt % 16 * 2 ^ 236 + e.rcnt % 16 * 2 ^ 232 + e.port % 16 * 2 ^ 228 + e.vc % 8 * 2 ^ 225
    + e.src % 2 ^ 24 * 2 ^ 200 + e.dst % 2 ^ 24 * 2 ^ 176 + e.kind % 256 * 2 ^ 168 + e.addr % 2 ^ 64

/-- The log's entry `e` of the ring of 16: the newest entry has index count - 1 mod 16 (R390). -/
def State.lateAt (s : State) (e : Nat) : Nat :=
  match s.regs.late[e]? with
  | some x => lateWord x
  | none => 0

/-- A link's status (R403). -/
def lstatWord (p : Port) : Nat :=
  min p.replays 0xFFFF * 2 ^ 48 + p.failed.toNat * 2 ^ 40 + min p.rtt 1023 * 2 ^ 30 + p.susp.toNat * 2 ^ 24
    + min p.retrains 255 * 2 ^ 16 + p.width % 4 * 4 + (match p.state with
      | .down => 0
      | .training => 1
      | .up => 2
      | .disabled => 3)

/-- The revocation port's registers, in the two places that show it (R28). -/
def State.revPort (s : State) (ofs : Nat) : Nat :=
  let q := s.regs
  match ofs with
  | 0x00 => q.rvScope.toNat * 65536 + q.rvKey.toNat
  | 0x08 => q.rvBase.toNat
  | 0x10 => q.rvLen.toNat
  | 0x20 => q.rvSeq.toNat * 2 ^ 32 + bit q.rvEr * 4 + bit q.rvDn * 2 + bit q.rvBsy
  | _ => 0

/-- The eight registers of a partition set, in the partition port's order (R380). -/
def PartSet.reg (p : PartSet) (i : Nat) : BitVec 64 :=
  match i with
  | 0 => p.ptroot
  | 1 => p.svpc
  | 2 => p.svpcd
  | 3 => p.tdeleg
  | 4 => p.owbase
  | 5 => p.owlimit
  | 6 => p.selbase
  | 7 => p.selovf
  | _ => 0#64

/-- A register of a sector's block of control space (R194, R375, R429). -/
def State.sectorReg (s : State) (sec ofs : Nat) : Nat :=
  if ofs < 0x8000 then
    let k := getAt (s.lp (sec * 16 + ofs / 0x800)).tasks (ofs % 0x800 / 0x20) Task.reset
    bitsOf (taskShown k) (64 * (ofs % 0x20 / 8) + 63) (64 * (ofs % 0x20 / 8))
  else if 0xC000 ≤ ofs ∧ ofs < 0xC080 then bit (s.lc (sec * 16 + (ofs - 0xC000) / 8)).fenced
  else if 0xC080 ≤ ofs ∧ ofs < 0xC090 then bit (s.dt (sec * 2 + (ofs - 0xC080) / 8)).fenced
  else if ofs = 0xD000 then
    let e := getAt s.sectors sec Sector.reset
    e.rm.toNat * 2 ^ 48 + e.ck.toNat * 2 ^ 32 + e.ue.toNat * 2 ^ 16 + e.ce.toNat
  else 0

/-- A 64-bit register of control space as a read by `key` sees it; reserved offsets read 0 (R5, R8). -/
def State.controlReg (s : State) (key ofs : Nat) : Nat :=
  let q := s.regs
  if 0x1000000 ≤ ofs ∧ ofs < 0x1000000 + 32 * 0x10000 then s.sectorReg ((ofs - 0x1000000) / 0x10000) (ofs % 0x10000)
  else if 0x10400 ≤ ofs ∧ ofs < 0x10600 then
    bitsOf (s.lateAt ((ofs - 0x10400) / 0x20)) (64 * (ofs % 0x20 / 8) + 63) (64 * (ofs % 0x20 / 8))
  else if 0x10700 ≤ ofs ∧ ofs < 0x10728 then s.revPort (ofs - 0x10700)
  else if 0x10800 ≤ ofs ∧ ofs < 0x10900 then
    let p := getAt s.fabric.ports ((ofs - 0x10800) / 0x10) Port.reset
    if ofs % 0x10 = 0 then lstatWord p else bit p.dis
  else match ofs with
    | 0x10000 => q.nqbase.toNat
    | 0x10008 => q.nqhead.toNat
    | 0x10010 => q.nqtail.toNat
    | 0x10018 => queueCtl q.nqen q.nqlost
    | 0x10020 => q.thost.toNat * 2 ^ 32 + q.tbulk.toNat * 2 ^ 16 + q.thbm.toNat
    | 0x10028 => q.decay.toNat
    | 0x10100 => q.rcontrol.toNat
    | 0x10200 => (s.part key).owbase.toNat
    | 0x10208 => (s.part key).owlimit.toNat
    | 0x10210 => (s.part key).selbase.toNat
    | 0x10218 => (s.part key).selovf.toNat
    | 0x10300 => q.fqbase.toNat
    | 0x10308 => q.fqhead.toNat
    | 0x10310 => q.fqtail.toNat
    | 0x10318 => queueCtl q.fqen q.fqlost
    | 0x10600 => q.lateCount.toNat
    | _ => 0

/-- Bytes read from control space (R263): each byte belongs to the register that holds it. -/
def State.controlRead (s : State) (key ofs n : Nat) : List Byte :=
  (List.range n).map fun i => BitVec.ofNat 8 (s.controlReg key ((ofs + i) / 8 * 8) / 2 ^ (8 * ((ofs + i) % 8)))

/-- Reading every lstat that has changed acknowledges vector 259 (R413). -/
def State.controlReadEffect (s : State) (ofs : Nat) : State :=
  if 0x10800 ≤ ofs ∧ ofs < 0x10900 ∧ ofs % 0x10 < 8 then
    let n := (ofs - 0x10800) / 0x10
    let ports := setAt s.fabric.ports n { getAt s.fabric.ports n Port.reset with changed := false }
    let s1 := { s with fabric := { s.fabric with ports := ports } }
    if ports.any (fun e => e.2.changed) then s1 else s1.ackVector 259
  else s

/-- The bits of a control register that a narrower store leaves as they are: its W1C bits take 0 (R9, DEDUCED, log 14). -/
def State.controlKeep (s : State) (key ofs : Nat) : Nat :=
  let v := s.controlReg key ofs
  if ofs = 0x10018 ∨ ofs = 0x10318 then v / 2 ^ 32 * 2 ^ 32
  else if ofs = 0x10600 ∨ ofs = 0x10720 ∨ (0x1000000 ≤ ofs ∧ ofs % 0x10000 = 0xD000) then 0
  else v

/-- The steps that a write of a control register makes: rows of their own, or REGISTER_WRITE (R9). -/
def controlStep (key ofs value : Nat) : List Instr :=
  let v := BitVec.ofNat 64 value
  if 0x1000000 ≤ ofs ∧ ofs < 0x1000000 + 32 * 0x10000 then
    let sec := (ofs - 0x1000000) / 0x10000
    let o := ofs % 0x10000
    if 0xC000 ≤ o ∧ o < 0xC080 then [.coreFence (.lc (sec * 16 + (o - 0xC000) / 8)) v]
    else if 0xC080 ≤ o ∧ o < 0xC090 then [.coreFence (.dt (sec * 2 + (o - 0xC080) / 8)) v]
    else [.registerWrite .control (some key) ofs v]
  else if ofs = 0x10008 then [.nqheadWrite v]
  else if ofs = 0x10308 then [.fqheadWrite v]
  else if ofs = 0x10718 then [.revocationPortGo (some key) v]
  else if 0x10800 ≤ ofs ∧ ofs < 0x10900 ∧ ofs % 0x10 = 8 then
    let n := (ofs - 0x10800) / 0x10
    .lctlDisable n (v.getLsbD 0) :: (if v.getLsbD 1 then [.lctlFullRetrain n] else [])
  else [.registerWrite .control (some key) ofs v]

/-- The values that selbase and selovf take (R379). -/
def State.selbaseOk (s : State) (v : BitVec 64) : Bool := v = 0#64 || (v.toNat % 2 ^ 26 = 0 && bitsOf v.toNat 51 48 = 0 && bitsOf v.toNat 63 52 = s.module)
def State.selovfOk (s : State) (v : BitVec 64) : Bool := v = 0#64 || (v.toNat % 2 ^ 30 = 0 && bitsOf v.toNat 51 48 = 2 && bitsOf v.toNat 63 52 = s.module)

/-- A write of a control register that its own rule refuses with a trap (R379). -/
def State.controlBad (s : State) (i : Instr) : Bool :=
  match i with
  | .registerWrite _ _ ofs v => (ofs = 0x10210 && !s.selbaseOk v) || (ofs = 0x10218 && !s.selovfOk v)
  | _ => false

/-- A store of bytes to control space becomes the writes of the registers it reaches (R9). -/
def State.controlWrites (s : State) (key ofs : Nat) (bs : List Byte) : List Instr :=
  (List.range ((ofs + bs.length + 7) / 8 - ofs / 8)).flatMap fun i =>
    let r := (ofs / 8 + i) * 8
    let keep := s.controlKeep key r
    let bytes := (List.range 8).map fun j =>
      if r + j < ofs then BitVec.ofNat 8 (keep / 2 ^ (8 * j))
      else match bs[r + j - ofs]? with
        | some b => b
        | none => BitVec.ofNat 8 (keep / 2 ^ (8 * j))
    controlStep key r (bytesToNat bytes)

/-- An event counted by the counters of a core or tile that select its source (R336, R429). -/
def countIn (cs : SMap Counter) (src n : Nat) : SMap Counter :=
  cs.map fun (i, c) =>
    (i, if c.select.getLsbD 16 && (c.select.extractLsb' 0 16).toNat = src then { c with count := c.count + BitVec.ofNat 64 n } else c)

def State.count (s : State) (u : CoreRef) (src n : Nat) : State :=
  match u with
  | .lc i => if (s.lc i).counters = [] then s else s.setLc i { s.lc i with counters := countIn (s.lc i).counters src n }
  | .dt j => if (s.dt j).counters = [] then s else s.setDt j { s.dt j with counters := countIn (s.dt j).counters src n }

/-- The sector (die x 16 + sector) of a core. -/
def sectorOf : CoreRef → Nat
  | .lc i => i / 16
  | .dt j => j / 2

/-- An event of a sector, and its error register where it is one of the four errors (R429). -/
def State.countSector (s : State) (sec src n : Nat) : State :=
  let e := getAt s.sectors sec Sector.reset
  let sat (v : BitVec 16) : BitVec 16 := BitVec.ofNat 16 (min (v.toNat + n) 0xFFFF)
  let e1 := { e with counters := countIn e.counters src n }
  let e2 := match src with
    | 0x0107 => { e1 with ce := sat e1.ce }
    | 0x0108 => { e1 with ue := sat e1.ue }
    | 0x0109 => { e1 with ck := sat e1.ck }
    | 0x010A => { e1 with rm := sat e1.rm }
    | _ => e1
  { s with sectors := setAt s.sectors sec e2 }

end Sys2Proof.Machine
end

