-- ==== Sys2Proof/Machine/Send.lean ====
section
/-! DEFINITION. How requests, replies, refusals and acknowledgements travel between units of the module and, over Laralair, to
other modules (R15, R53, R63, R104, R358, R359, R396 to R407). -/

namespace Sys2Proof.Machine

/-- The step by which a reply arrives (R44, R162, R180): a fill that no load asked for is a PFL's. -/
def replyStep (r : Reply) : Instr :=
  match r.who, r.line, r.n with
  | .agent (.thread c _), some l, 0 =>
    .pflFillArrival c l (if r.poison then [] else r.data) (r.noAlloc || r.refused.isSome)
  | .agent (.bank _ _), _, _ => .lateReplyArrival r
  | _, _, _ => .replyWritten r

/-- A reply sent to the core that made the request. -/
def State.sendReply (s : State) (core key : Nat) (r : Reply) : State :=
  if moduleOfNumber core = s.module then s.push (replyStep r)
  else s.sendPacket core (coreNumber s.module (.lc 0)) key 0 0 0 0 (if r.data = [] then 0 else (r.data.length + 63) / 64) (.reply r)

/-- A journal entry answered: acknowledged, or refused; `last` for the entry's last part (R104, R358). -/
def State.sendAck (s : State) (core key : Nat) (a : Agent) (j : Nat) (x : Option Refused) (last : Bool) : State :=
  if moduleOfNumber core = s.module then
    match x with
    | none => s.push (.journalAck a j)
    | some r => s.push (.refusalArrival a j r last)
  else s.sendPacket core (coreNumber s.module (.lc 0)) key 0 0 j 0 0 (.ack a j x last)

/-- The threads of a writer mask (R40). -/
def writersOf (core : Nat) (m : BitVec 16) : List Agent :=
  ((List.range 16).filter fun t => m.getLsbD t).map fun t => .thread core t

/-- The line that a request was sent for, before any home forwarded it (R68). -/
def reqLine (r : Request) : Nat := r.orig.getD r.pa / 64

/-- The key that a refused write-back's record carries: that of the range where the keys differ (R63). -/
def State.refusingKey (s : State) (r : Request) (x : Refused) : Nat :=
  match s.homes.ranges.find? fun g => g.key ≠ r.key && decide (g.lo < canon ((reqLine r) * 64) + 64) && decide (canon ((reqLine r) * 64) < g.lo + g.len) with
  | some g => if x.cause = 0x0D ∧ x.detail = 4 then g.key else r.key
  | none => r.key

/-- A refused request reported as its kind requires (R63). -/
def State.refuseRequest (s : State) (r : Request) (x : Refused) : State :=
  match r.jent, r.op, r.who with
  | some j, _, .agent a => s.sendAck r.core r.key a j (some x) true
  | none, .writeBack _, w =>
    -- the core reports it to the threads of the line's writer mask, or posts a record with the range's key
    if r.acq then s.sendReply r.core r.key {
      who := w, dest := .none, refused := some { x with tval := (reqLine r) * 64 }, line := some (reqLine r), lo := s.refusingKey r x, n := 1 }
    else s
  | none, .store, .agent (.thread c t) =>
    -- a store that has drained to its site is refused as a write-back by its thread; a store that its thread waits for, at the thread (R14)
    if r.dest = .none then
      (if r.acq then s.sendReply r.core r.key { who := .agent (.thread c t), dest := .none, refused := some { x with tval := r.pa }, line := some (reqLine r), n := 1 }
       else s)
    else s.sendReply r.core r.key { who := .agent (.thread c t), dest := r.dest, refused := some x }
  | _, .fill lo n, w => s.sendReply r.core r.key { who := w, dest := r.dest, refused := some x, line := some (reqLine r), lo := lo, n := n }
  | _, _, w => s.sendReply r.core r.key { who := w, dest := r.dest, refused := some x }

/-- A request performed: its reply, or the acknowledgement of its journal entry or write-back (R63, R104, R162). -/
def State.answerRequest (s : State) (r : Request) (data : List Byte) (poison noAlloc : Bool) : State :=
  match r.jent, r.op, r.who with
  | some j, _, .agent a => s.sendAck r.core r.key a j none true
  | some _, _, w => s.sendReply r.core r.key { who := w, dest := r.dest, data := data, poison := poison }
  | none, .writeBack _, w => if r.acq then s.sendReply r.core r.key { who := w, dest := .none, line := some (reqLine r), n := 1 } else s
  | none, .store, .agent a => if r.acq then s.sendReply r.core r.key { who := .agent a, dest := r.dest } else s
  | none, .store, w => if r.acq then s.sendReply r.core r.key { who := w, dest := r.dest } else s
  | none, .fill lo n, w =>
    s.sendReply r.core r.key {
      who := w, dest := r.dest, data := data, poison := poison, acq := r.acq,
      line := some (reqLine r), noAlloc := noAlloc || r.orig.isSome, lo := lo, n := n }
  | none, _, w => s.sendReply r.core r.key { who := w, dest := r.dest, data := data, poison := poison, acq := r.acq }

/-- A request sent to its site (R11, R15, R53). -/
def State.sendRequest (s : State) (r : Request) : State :=
  let m := moduleOf r.pa
  if m = s.module then
    s.push (if spaceOf r.pa = 4 then .tileWindowAccess r else .homeRequest r)
  else if s.admits m r.key then
    s.sendPacket (coreNumber m (.lc (homeCore r.pa))) r.core r.key 0 0 (r.jent.getD 0) r.pa ((r.data.length + 63) / 64) (.req r)
  else s.refuseRequest r ⟨0x15, 0, 0⟩

/-- What is sent to core number `dst`: here, the step `i`; on another module, a packet that carries `b` (R15, R396). -/
def State.sendTo (s : State) (dst src key kind jent nd : Nat) (i : Instr) (b : Payload) : State :=
  if moduleOfNumber dst = s.module then s.push i
  else s.sendPacket dst src key kind 0 jent 0 nd b

end Sys2Proof.Machine
end

