-- ==== Sys2Proof/Machine/Access.lean ====
section
/-! DEFINITION. The access counters of the home slices and their notices (R29 to R31), and the page-table walks that count as accesses (R22, R29). -/

namespace Sys2Proof.Machine

/-! ### Access counters and notices (R29 to R31) -/

/-- The region that an address counts for; none in a space that is not counted. -/
def regionOf (pa : Nat) : Option Nat :=
  match spaceOf pa with
  | 0 => some (canon pa / 2 ^ 21)
  | 1 => some (canon pa / 2 ^ 21)
  | 2 => some (pa / 2 ^ 21)
  | 5 => some (pa / 2 ^ 21)
  | _ => none

/-- The threshold of a region's tier (R30): 0 or 1 behaves as 1. -/
def State.threshold (s : State) (pa : Nat) : Nat :=
  max 1 (match spaceOf pa with
    | 2 => s.regs.tbulk.toNat
    | 5 => s.regs.thost.toNat
    | _ => s.regs.thbm.toNat)

/-- Whether the notice queue has a free entry. -/
def State.noticeSpace (s : State) : Bool := s.regs.nqtail + 1#12 ≠ s.regs.nqhead

/-- A notice posted (R31), at the slot of the queue that nqtail names. -/
def State.postNotice (s : State) (region pair count : Nat) (lost : Bool) : State :=
  let q := s.regs
  let w := region % 2 ^ 43 * 2 ^ 85 + pair % 512 * 2 ^ 76 + count % 65536 * 2 ^ 60 + bit lost * 2 ^ 59
  let s1 := s.writeNat (canon (q.nqbase.toNat + 16 * q.nqtail.toNat)) 16 w
  ({ s1 with regs := { s1.regs with nqtail := q.nqtail + 1#12 } }).raiseVector 257

def State.loseNotice (s : State) : State :=
  { s with regs := { s.regs with
      nqlost := if s.regs.nqlost = BitVec.allOnes 32 then s.regs.nqlost else s.regs.nqlost + 1#32 } }

def State.setCounters (s : State) (cs : List AccessCounter) : State := { s with homes := { s.homes with counters := cs } }

/-- The way that a new region takes in its set of 16: a free way, or the entry of the lowest count and then the lowest way (R29). -/
def newWay (cs : List AccessCounter) : Nat × Option AccessCounter :=
  match (List.range 16).find? (fun w => cs.all fun c => c.way ≠ w) with
  | some w => (w, none)
  | none =>
    let low := (cs.map fun (c : AccessCounter) => c.count).min?.getD 0
    match ((List.range 16).findSome? fun w => cs.find? fun c => c.way = w && c.count = low) with
    | some c => (c.way, some c)
    | none => (0, none)

/-- A request served by a slice counts for its region (R29). Which of a pair's 64 sets a region falls in is not said: its number modulo 64 is taken; nor is what
an access does to a count that stands above a threshold lowered meanwhile: it counts as reaching the threshold (DESIGN CHOICE, log 101). -/
def State.countAccess (s : State) (pa : Nat) : State :=
  match (if s.regs.nqen then regionOf pa else none) with
  | none => s
  | some region =>
    let pair := homePair pa
    let t := s.threshold pa
    let mine (c : AccessCounter) : Bool := c.pair = pair && c.region = region
    -- the state with the region's entry, made where there is none
    let (s1, e) := match s.homes.counters.find? mine with
      | some c => (s, c)
      | none =>
        let set := s.homes.counters.filter fun (c : AccessCounter) => c.pair = pair && c.region % 64 = region % 64
        let (w, old) := newWay set
        let new : AccessCounter := { pair := pair, region := region, way := w, count := 0, queued := false, overflow := false }
        let s0 := s.setCounters ((s.homes.counters.filter fun (c : AccessCounter) => !(c.pair = pair && c.region % 64 = region % 64 && c.way = w)) ++ [new])
        (match old with
          | some c => if c.queued || c.overflow then s0.loseNotice else s0
          | none => s0, new)
    let put (x : State) (c : AccessCounter) : State := x.setCounters (x.homes.counters.map fun d => if mine d then c else d)
    if e.queued then s1
    else if e.overflow then
      (if s1.noticeSpace then (put s1 { e with queued := true, overflow := false }).postNotice region pair e.count true else s1)
    else if e.count + 1 < t then put s1 { e with count := e.count + 1 }
    else if s1.noticeSpace then (put s1 { e with count := t, queued := true }).postNotice region pair t false
    else (put s1 { e with count := t, overflow := true }).loseNotice

/-- The addresses of the table entries that a walk of a virtual address reads (R16, R22). -/
def State.walkReads (s : State) (key va : Nat) : List Nat :=
  let rt := (s.part key).ptroot
  if rt.getLsbD 63 = false then []
  else
    let root := pointed s.module (rt.extractLsb' 0 48).toNat + bitsOf va 47 34 * 8
    let e := s.entryAt root
    let big := pteKind e = 2
    if pteV e = false ∨ (pteKind e ≠ 2 ∧ pteKind e ≠ 3) ∨ pointerMalformed s.module e (if big then 0x200000 else 0x10000) = true then [root]
    else
      let node := pointed s.module (pteAddr e) + (if big then bitsOf va 33 16 else bitsOf va 33 21) * 8
      let f := s.entryAt node
      if big ∨ pteV f = false ∨ pteKind f ≠ 3 ∨ pointerMalformed s.module f 256 = true then [root, node]
      else [root, node, pointed s.module (pteAddr f) + bitsOf va 20 16 * 8]

/-- A walk counts at the homes of the entries that it reads (R29). -/
def State.countWalk (s : State) (key va : Nat) : State := (s.walkReads key va).foldl State.countAccess s

end Sys2Proof.Machine
end

