-- ==== Sys2Proof/Machine/Memory.lean ====
section
/-! DEFINITION. Loads and stores of a thread or bank through a handle: scratchpads, L1, store buffer, sites, bank uses, the steps
of a release and of an acquire, milestone words, and the flow of a dropped granule (R36 to R52, R87 to R117, R159). -/

namespace Sys2Proof.Machine

/-! ### Launches and scopes -/

/-- Bits hi to lo of the 64-bit field at byte `ofs` of a launch record (R182). -/
def recBits (r : BitVec 512) (ofs hi lo : Nat) : Nat := bitsOf r.toNat (8 * ofs + hi) (8 * ofs + lo)

/-- The descriptor of work level `j` (R182). -/
def recLevel (r : BitVec 512) (j : Nat) : Nat := recBits r 0x30 (16 * j + 15) (16 * j)

/-- Work levels declared, less one (R182). -/
def recNlev (r : BitVec 512) : Nat := recBits r 0x20 18 16

/-- The launch record of an agent's task; an empty record where its launch is not in the table. -/
def State.recordOf (s : State) (a : Agent) : BitVec 512 :=
  match findAt s.disp.launches (s.task a).tag with
  | some l => l.record
  | none => 0#512

/-- The hardware scope that a scope code names for a launch (R87, R88); none: reserved or undeclared. -/
def scopeIn (r : BitVec 512) (code : Nat) : Option Nat :=
  if code ≤ 6 then some code
  else if code = 7 then none
  else if code - 8 ≤ recNlev r then some (bitsOf (recLevel r (code - 8)) 12 10) else none

def State.resolveScope (s : State) (a : Agent) (code : Nat) : Option Nat := scopeIn (s.recordOf a) code

/-- Whether the scope in ascope is wider than core (R89, R99, R100). -/
def State.wideScope (s : State) (a : Agent) : Bool :=
  match s.resolveScope a (s.ctx a).ascope.toNat with
  | some c => decide (1 < c)
  | none => true

/-! ### The L1 (R39 to R45) -/

/-- The set of a line (R39). -/
def setOf (line : Nat) : Nat := line % 256

/-- The line where the L1 holds it. -/
def l1Find (p : LPlane) (line : Nat) : Option L1Line := p.l1.find? fun l => l.line = line

/-- The tree's bits after an access to a way: each node of its path points away from it (R39). Node 1 is the root; a set bit marks
the upper half as less recently used. -/
def plruTouch (bits : BitVec 32) (way : Nat) : BitVec 32 :=
  (List.range 5).foldl (fun b k =>
    let node := 2 ^ k + way / 2 ^ (5 - k)
    if way / 2 ^ (4 - k) % 2 = 0 then b ||| (1#32 <<< node) else b &&& ~~~(1#32 <<< node)) bits

/-- The walk down the tree over `2 ^ k` leaves from `lo`, among the ways that may be chosen (R39). -/
def plruWalk (bits : BitVec 32) (ok : Nat → Bool) (k node lo : Nat) : Nat :=
  match k with
  | 0 => lo
  | j + 1 =>
    let half := 2 ^ j
    let upper := (List.range half).any fun i => ok (lo + half + i)
    let lower := (List.range half).any fun i => ok (lo + i)
    let goUp := if bits.getLsbD node then upper else !lower
    if goUp then plruWalk bits ok j (2 * node + 1) (lo + half) else plruWalk bits ok j (2 * node) lo

/-- The way that a new line of a set takes (R39); none where every way is locked. -/
def allocWay (p : LPlane) (set : Nat) : Option Nat :=
  let ways := (List.range 20).filter fun w => decide (p.banks ≤ w)
  let at' (w : Nat) : Option L1Line := p.l1.find? fun l => setOf l.line = set && l.way = w
  match ways.find? (fun w => (at' w).isNone) with
  | some w => some w
  | none =>
    let ok (w : Nat) : Bool := ways.contains w && (match at' w with
      | some l => l.lock = 0
      | none => true)
    if ways.any ok then some (plruWalk (getAt p.plru set 0) ok 5 1 0) else none

/-- A line replaced, or added; a line with no valid byte and no lock is no line. -/
def l1Put (p : LPlane) (l : L1Line) : LPlane :=
  let rest := p.l1.filter fun x => x.line ≠ l.line
  { p with
    l1 := if l.valid = 0#64 ∧ l.lock = 0 then rest else rest ++ [l]
    plru := setAt p.plru (setOf l.line) (plruTouch (getAt p.plru (setOf l.line) 0) l.way) }

/-- Byte `i` of a line. -/
def lineByte (l : L1Line) (i : Nat) : Byte := l.data.extractLsb' (8 * i) 8

/-- A line's data with bytes put from byte `i` on. -/
def putBytes (data : BitVec 512) (i : Nat) (bs : List Byte) : BitVec 512 :=
  let m := BitVec.ofNat 512 ((2 ^ (8 * bs.length) - 1) * 2 ^ (8 * i))
  (data &&& ~~~m) ||| BitVec.ofNat 512 (bytesToNat bs * 2 ^ (8 * i))

/-- Bits set in the bytes of a mask. -/
def wideMask (m : BitVec 64) : BitVec 512 :=
  BitVec.ofNat 512 ((List.range 64).foldl (fun k i => if m.getLsbD i then k + 255 * 2 ^ (8 * i) else k) 0)

/-- A line's bytes as a fill brings them, dirty bytes keeping their values (R40). -/
def L1Line.merge (l : L1Line) (data : List Byte) : BitVec 512 :=
  (l.data &&& wideMask l.dirty) ||| (putBytes 0#512 0 data &&& ~~~(wideMask l.dirty))

/-- The mask of `n` bytes from byte `i`. -/
def byteMask (i n : Nat) : BitVec 64 := BitVec.ofNat 64 ((2 ^ n - 1) * 2 ^ i)

/-- The L1 has written the dirty bytes of a line back: a fill of the line that is on its way may be older than those (R91). -/
def LPlane.sent (p : LPlane) (l : L1Line) : LPlane :=
  if l.dirty = 0#64 then p
  else
    { p with
      wb := p.wb ++ [(l.line, l.writers)]
      misses := p.misses.map fun m => if m.line = l.line then { m with fresh := false, own := m.own ||| l.dirty } else m
      l1 := p.l1.map fun x => if x.line = l.line then { x with filling := false } else x }

/-- The fills of lines that are on their way bring no line into the L1 any more (R41, R42, R94). -/
def LPlane.stale (p : LPlane) (hit : Nat → Bool) : LPlane :=
  { p with
    misses := p.misses.map fun m => if hit m.line then { m with fresh := false } else m
    l1 := p.l1.map fun x => if hit x.line then { x with filling := false } else x }

/-- The dirty bytes of a line on their way to their site, which accepts them (R40, R41). -/
def State.writeBack (s : State) (c : Nat) (l : L1Line) : State :=
  if l.dirty = 0#64 then s
  else
    (s.setLp c ((s.lp c).sent l)).sendRequest {
      who := .l1 c
      core := coreNumber s.module (.lc c)
      key := (s.lp c).key
      op := .writeBack l.writers
      pa := l.line * 64
      len := 64
      data := (List.range 64).map (lineByte l)
      mask := (List.range 64).map l.dirty.getLsbD
      acq := true
      poison := l.poison }

/-- A line given up: its dirty bytes written back and the line dropped (R40). -/
def State.evict (s : State) (c : Nat) (l : L1Line) : State :=
  let s1 := s.writeBack c l
  s1.setLp c { s1.lp c with l1 := (s1.lp c).l1.filter fun x => x.line ≠ l.line }

/-- A line that its home marks no-allocate is given up, locked or not, with the lock-list entries for it (R40, R44). -/
def State.dropLine (s : State) (c : Nat) (l : L1Line) : State :=
  (List.range 16).foldl (fun x t =>
    let a := Agent.thread c t
    match findAt x.ctxs (agentId a) with
    | none => x
    | some k => x.setCtx a { k with locks := k.locks.filter (· ≠ l.line) }) (s.evict c l)

/-- A way of a line's set made free for it (R39). -/
def State.makeRoom (s : State) (c line : Nat) : Option Nat × State :=
  match allocWay (s.lp c) (setOf line) with
  | none => (none, s)
  | some w =>
    match (s.lp c).l1.find? (fun l => setOf l.line = setOf line && l.way = w) with
    | none => (some w, s)
    | some l => (some w, s.evict c l)

/-- The virtual cycle by which an access is due that nothing waits for. -/
def neverDue : Nat := 2 ^ 64

/-- A store performed at its site: its acknowledgement is awaited by the thread's releases (R91, R99), or is an access in flight of
the dense tile (R365). -/
def State.storeAtSite (s : State) (a : Agent) (key pa : Nat) (bs : List Byte) : State :=
  let s1 := s.sendRequest {
    who := .agent a
    core := s.coreNo a
    key := key
    op := .store
    pa := pa
    len := bs.length
    data := bs
    dest := if isDense a then .x 0#5 3#3 else .none
    acq := true }
  match a with
  | .thread _ _ => s1.setCtx a { s1.ctx a with wbacks := (s1.ctx a).wbacks + 1 }
  | .bank j b =>
    let p := s1.dp j
    s1.setDp j { p with lates := p.lates ++ [⟨b, .x 0#5 3#3, neverDue, (s1.ctx a).pc, s1.bslot, (s1.ctx a).opnd, p.vcc, (s1.ctx a).readH (s1.ctx a).opnd.2, none, 0, (s1.ctx a).waitLoops⟩] }

/-- A store that drains into the L1: it allocates without fetching (R40). -/
def State.storeL1 (s : State) (c : Nat) (e : StoreEntry) : State :=
  let line := e.pa / 64
  let ofs := e.pa % 64
  let n := e.data.length
  let m := byteMask ofs n
  match l1Find (s.lp c) line with
  | some l =>
    s.setLp c (l1Put (s.lp c) { l with
      valid := l.valid ||| m, dirty := l.dirty ||| m, writers := l.writers ||| (1#16 <<< e.slot),
      data := putBytes l.data ofs e.data
      poison := l.poison && decide (n < 64) })
  | none =>
    match s.makeRoom c line with
    | (some w, s1) => s1.setLp c (l1Put (s1.lp c) (L1Line.mk w line m m (1#16 <<< e.slot) 0 (putBytes 0#512 ofs e.data) false false))
    | (none, s1) => s1.storeAtSite (.thread c e.slot) e.key e.pa e.data

/-- Whether a space is cached in the L1 (R32, R39). -/
def cachedSpace (sp : Nat) : Bool := sp = 0 || sp = 1 || sp = 2 || sp = 5

/-- The oldest entry of the store buffer drains (R91). -/
def State.drainOne (s : State) (c : Nat) : State :=
  match (s.lp c).sbuf with
  | [] => s
  | e :: rest =>
    let s1 := s.setLp c { s.lp c with sbuf := rest }
    if cachedSpace (spaceOf e.pa) then s1.storeL1 c e else s1.storeAtSite (.thread c e.slot) e.key e.pa e.data

/-- The `n` oldest entries drain. -/
def State.drainN (s : State) (c n : Nat) : State :=
  match n with
  | 0 => s
  | k + 1 => (s.drainOne c).drainN c k

/-- The number of entries up to the last that a test holds for. -/
def upToLast (f : StoreEntry → Bool) (es : List StoreEntry) : Nat :=
  match es with
  | [] => 0
  | e :: rest => if upToLast f rest = 0 then (if f e then 1 else 0) else upToLast f rest + 1

/-- The store buffer drained up to the last entry that touches a line. -/
def State.drainLine (s : State) (c line : Nat) : State :=
  s.drainN c (upToLast (fun e => e.pa / 64 = line) (s.lp c).sbuf)

/-- The L1 and store buffer give up a line before an operation performed at its site leaves the core (R42). Giving it up counts as an access
to its way (DESIGN CHOICE, log 97: R39 does not say). -/
def State.flushLine (s : State) (c line : Nat) : State :=
  let s1 := s.drainLine c line
  let s2 := match l1Find (s1.lp c) line with
    | none => s1
    | some l =>
      let x := s1.writeBack c l
      x.setLp c (l1Put (x.lp c) { l with valid := 0#64, dirty := 0#64, writers := 0#16, poison := false })
  s2.setLp c ((s2.lp c).stale fun x => x = line)

/-! ### Release and acquire (R41, R99, R100) -/

/-- The dirty lines of the thread, or all of them, written back (R41, R97). -/
def State.writeBackAll (s : State) (c t : Nat) (cm : Bool) : State :=
  let mine := (s.lp c).l1.filter fun l => l.dirty ≠ 0#64 && (cm || l.writers.getLsbD t)
  let s1 := mine.foldl (fun x l => x.writeBack c l) s
  s1.setLp c { s1.lp c with
    l1 := (s1.lp c).l1.map fun l => if cm || l.writers.getLsbD t then { l with dirty := 0#64, writers := 0#16 } else l }

/-- Whether a write-back of the thread's stores, or of any, is not accepted yet: of those that a release makes and of those of lines that the
core has given up before (R41, R97, R98). -/
def LPlane.unaccepted (p : LPlane) (t : Nat) (cm : Bool) : Bool := p.wb.any fun w => cm || w.2.getLsbD t

/-- Whether the journal holds an entry that a release waits for: one not pending under a waypoint (R99, R103). -/
def Ctx.posted (c : Ctx) : Bool := c.journal.any fun e => !e.2.held

/-- The steps of a release for an agent, as far as they go now: whether they are complete, and the state (R99). -/
def State.releaseFor (s : State) (a : Agent) (wide cm : Bool) : Bool × State :=
  match a with
  | .thread c t =>
    let s1 := s.drainN c (if wide && cm then (s.lp c).sbuf.length else upToLast (fun e => e.slot = t) (s.lp c).sbuf)
    if wide = false then (true, s1)
    else if (s1.ctx a).posted then (false, s1)
    else
      let s2 := s1.writeBackAll c t cm
      (decide ((s2.ctx a).wbacks = 0) && !(s2.lp c).unaccepted t cm, s2)
  | .bank j b =>
    let late := (s.dp j).lates.any fun l => l.bank = b
    if wide = false then (!late, s) else (!late && !(s.ctx a).posted && (s.ctx a).wbacks = 0, s)

/-- An acquire at scope wider than core clears every valid byte that is not dirty (R41). -/
def State.acquireL1 (s : State) (c : Nat) : State :=
  let p := (s.lp c).stale fun _ => true
  s.setLp c { p with
    l1 := (p.l1.map fun l => { l with valid := l.valid &&& l.dirty, poison := l.poison && l.dirty ≠ 0#64 }).filter fun l => l.valid ≠ 0#64 || l.lock ≠ 0 }

/-- The acquire step of an agent (R100). -/
def State.acquireFor (s : State) (a : Agent) (wide : Bool) : State :=
  match a with
  | .thread c _ => if wide then s.acquireL1 c else s
  | .bank _ _ => s

/-! ### Where an access is served -/

/-- Where an access of a core is served (R32). -/
inductive Site where
  /-- the core's own tile memory, from this byte -/
  | own (byte : Nat)
  | cached
  | vault
  | control
  | far
  deriving DecidableEq, Repr

def State.siteOf (s : State) (u : CoreRef) (pa : Nat) : Site :=
  if moduleOf pa = s.module ∧ spaceOf pa = 4 ∧ windowCore (offsetOf pa) = some u then .own (offsetOf pa % 0x400000)
  else if moduleOf pa = s.module ∧ spaceOf pa = 6 then .control
  else if spaceOf pa = 3 then .vault
  else match u with
    | .lc _ => if cachedSpace (spaceOf pa) then .cached else .far
    | .dt _ => .far

/-- Whether bytes of a core's own tile memory may be reached by its program (R14, R33). -/
def State.ownOk (s : State) (u : CoreRef) (byte n : Nat) : Bool :=
  match u with
  | .lc i => decide (byte + n ≤ (s.lp i).banks * 0x4000)
  | .dt _ => decide (byte + n ≤ 0x300000)

/-- An access cut at 64-byte boundaries: address on the owned alias, bytes, and offset within the access. -/
def pieces (base o n : Nat) : List (Nat × Nat × Nat) :=
  (List.range ((o + n + 63) / 64 - o / 64)).map fun i =>
    let lo := max o ((o / 64 + i) * 64)
    let hi := min (o + n) ((o / 64 + i + 1) * 64)
    (canon (base + lo), hi - lo, lo - o)

/-- A piece of the core's own memory that its program may not reach (R14). -/
def State.pieceBad (s : State) (u : CoreRef) (p : Nat × Nat × Nat) : Bool :=
  match s.siteOf u p.1 with
  | .own b => !s.ownOk u b p.2.1
  | _ => false

/-- The byte that the store buffer forwards (R91, R96). -/
def sbufByte (es : List StoreEntry) (a : Nat) : Option Byte :=
  es.foldl (fun acc e => if e.pa ≤ a ∧ a < e.pa + e.data.length then e.data[a - e.pa]? else acc) none

/-- The byte that the store buffer or the L1 holds; `dirtyOnly` for an acquire wider than core (R91, R95). -/
def coreByte (p : LPlane) (dirtyOnly : Bool) (a : Nat) : Option Byte :=
  match sbufByte p.sbuf a with
  | some b => some b
  | none =>
    match l1Find p (a / 64) with
    | none => none
    | some l => if (if dirtyOnly then l.dirty else l.valid).getLsbD (a % 64) then some (lineByte l (a % 64)) else none

/-- A piece that a load of core `u` takes from poisoned storage of the core: its own memory, or a line of its L1 that an
uncorrectable error has struck, where the store buffer does not hold the byte (R58). -/
def State.piecePoison (s : State) (u : CoreRef) (p : Nat × Nat × Nat) : Bool :=
  match s.siteOf u p.1, u with
  | .own _, _ => s.poisoned p.1 p.2.1
  | .cached, .lc c =>
    match l1Find (s.lp c) (p.1 / 64) with
    | some l => l.poison && (List.range p.2.1).any fun i => l.valid.getLsbD (p.1 % 64 + i) && (sbufByte (s.lp c).sbuf (p.1 + i)).isNone
    | none => false
  | _, _ => false

/-- Bytes that are all there. -/
def allBytes (bs : List (Option Byte)) : Option (List Byte) :=
  match bs with
  | [] => some []
  | none :: _ => none
  | some b :: rest => (allBytes rest).map (b :: ·)

/-- A load of a lookup core's thread served within its turn, where it can be (R38, R96). -/
def State.loadNow (s : State) (c : Nat) (wide : Bool) (key pa n : Nat) : Option (List Byte) :=
  let p := s.lp c
  match s.siteOf (.lc c) pa with
  | .own _ => some (s.read pa n)
  | .control => some (s.controlRead key (offsetOf pa) n)
  | .cached => allBytes ((List.range n).map fun i => coreByte p wide (pa + i))
  | .vault => allBytes ((List.range n).map fun i => sbufByte p.sbuf (pa + i))
  | .far => none

/-- What a load served within its turn does to the core: an L1 hit is an access to its way (R39). -/
def State.loadTouch (s : State) (c pa : Nat) : State :=
  match s.siteOf (.lc c) pa with
  | .cached =>
    (match l1Find (s.lp c) (pa / 64) with
      | some l => s.setLp c (l1Put (s.lp c) l)
      | none => s)
  | .control => s.controlReadEffect (offsetOf pa)
  | _ => s

/-! ### Writing results -/

/-- A loaded value extended as the width code gives (R223). -/
def extendBy (w : BitVec 3) (v : Nat) : BitVec 64 :=
  match w.toNat with
  | 0 => (BitVec.ofNat 8 v).signExtend 64
  | 1 => (BitVec.ofNat 16 v).signExtend 64
  | 2 => (BitVec.ofNat 32 v).signExtend 64
  | 3 => BitVec.ofNat 64 v
  | 4 => (BitVec.ofNat 8 v).setWidth 64
  | 5 => (BitVec.ofNat 16 v).setWidth 64
  | 6 => (BitVec.ofNat 32 v).setWidth 64
  | _ => BitVec.ofNat 64 v

/-- The bytes of an access of width code `w` (R223). -/
def widthBytes (w : BitVec 3) : Nat := 2 ^ (w.toNat % 4)

/-- The bit mask of `n` bytes of a vector register from byte `ofs`. -/
def vecMask (ofs n : Nat) : BitVec 4096 := BitVec.ofNat 4096 ((2 ^ (8 * n) - 1) * 2 ^ (8 * ofs))

/-- Bytes placed in a vector register from byte `ofs`. -/
def vecBytes (ofs : Nat) (bs : List Byte) : BitVec 4096 := BitVec.ofNat 4096 (bytesToNat bs * 2 ^ (8 * ofs))

/-- The address of a byte of an agent's own tile memory. -/
def State.ownAddr (s : State) (a : Agent) (byte : Nat) : Nat := windowAddr s.module (agentCore a) byte

/-- A result delivered to its destination in an agent's context (R162). -/
def State.deliver (s : State) (a : Agent) (d : Dest) (bs : List Byte) : State :=
  let c := s.ctx a
  match d with
  | .x r w => s.setCtx a (c.writeX r (extendBy w (bytesToNat bs)))
  | .v r ofs => s.setCtx a (c.mix (.v r) (vecBytes ofs bs) (vecMask ofs bs.length))
  | .area ofs _ _ => s.write (s.ownAddr a ofs) bs
  | .count _ => s.setCtx a { c with tally := c.tally + bytesToNat bs }
  | .none => s
  | .inbox ofs => s.setCtx a { c with inbox := some (c.inbox.getD [] ++ [(ofs, bs)]) }
  | .code line => s.addCode (agentCore a) line bs

/-- The value that the last reply of an instruction writes to a scalar register (R289, R292, R295). -/
def State.deliverLast (s : State) (a : Agent) (d : Dest) : State :=
  let c := s.ctx a
  match d with
  | .area _ r v => s.setCtx a (c.writeX r (BitVec.ofNat 64 v))
  | .count r => s.setCtx a ((c.writeX r (BitVec.ofNat 64 c.tally)))
  | _ => s

/-- A result of the instruction in issue delivered after `lat` virtual cycles on a dense tile. -/
def State.deliverNow (s : State) (lat : Nat) (d : Dest) (bs : List Byte) : State :=
  match s.focus, d with
  | .bank _ _, .x r w => s.setX lat r (extendBy w (bytesToNat bs))
  | .bank _ _, .v r ofs => s.setV lat r (vecBytes ofs bs) (vecMask ofs bs.length)
  | a, _ => s.deliver a d bs

/-! ### Bank uses of a dense tile (R46, R47) -/

/-- The uses of an operation against those reserved: the first conflict's granule, its bank and the slot that reserved it, else
the reservations. -/
def reserveUses (slot : Nat) (res : List BankUse) (us : List (Nat × Nat)) : Except (Nat × Nat × Nat) (List BankUse) :=
  match us with
  | [] => .ok res
  | (cyc, g) :: rest =>
    match res.find? (fun u => u.cycle = cyc && u.bank = g % 64) with
    | some u => .error (g, g % 64, u.slot)
    | none => reserveUses slot (⟨cyc, g % 64, slot⟩ :: res) rest

/-- The bank uses of an operation of tile `j`, given as access cycles after issue and bytes; the accumulation store has no banks
(R49). A conflict raises 0x09. -/
def State.useBanks (s : State) (j : Nat) (us : List (Nat × Nat)) : Except State State :=
  let p := s.dp j
  let live := p.uses.filter fun u => decide (p.vcc ≤ u.cycle)
  let gs := ((us.filter fun u => decide (u.2 < 0x200000)).map fun u => (p.vcc + u.1, u.2 / 64)).eraseDups
  match reserveUses s.bslot live gs with
  | .ok r => .ok (s.setDp j { p with uses := r })
  | .error (g, bank, slot) =>
    .error (s.trap 0x09 (BitVec.ofNat 64 (g * 64)) (bank + s.bslot * 256 + slot * 1024))

/-- The scheduled latency of an access beyond the tile (R51). -/
def State.scheduled (s : State) (j pa : Nat) : Nat :=
  if spaceOf pa = 3 ∧ moduleOf pa = s.module then
    (if bitsOf (offsetOf pa) 28 24 = j / 2 then 48 else if bitsOf (offsetOf pa) 28 28 = j / 32 then 128 else 400)
  else 400

/-! ### Dropped granules (R159) -/

/-- The producer registration that covers a granule: the latest one (R158). -/
def State.producerOf (s : State) (key granule : Nat) : Option Producer :=
  s.disp.producers.reverse.find? fun p =>
    p.key = key && decide (p.va / 65536 ≤ granule) && decide (granule < p.va / 65536 + p.count)

/-- A load that finds its granule dropped (R159): handle number and offset. -/
def State.dropFlow (s : State) (m : BitVec 3) (o : BitVec 64) : State :=
  let c := s.cur
  let key := s.curKey
  let report (bit8 : Nat) : State := (s.setCur { c with produced := false }).trap 0x0E o (m.toNat + bit8 * 256)
  match findAt c.hva m.toNat with
  | none => report 0
  | some page =>
    let va := page + (if hLg (s.h m) = 21 then o.toNat / 65536 * 65536 else 0)
    let granule := va / 65536
    match s.walk key va with
    | .stop _ _ => report 0
    | .leaf e lg _ _ =>
      if pteD e = false then (s.setCur { (c.writeH m (leafHandle e lg key)) with produced := false }).again
      else if c.produced then report 1
      else match s.producerOf key granule with
        | none => report 0
        | some p =>
          match p.record with
          | none => report 0
          | some r =>
            let sleep := s.setCur { c with wait := .production granule }
            if s.disp.productions.any (fun q => q.1 = key && q.2.1 = granule) then sleep
            else if s.disp.productions.length < maxProductions then
              ({ sleep with disp := { sleep.disp with
                  productions := sleep.disp.productions ++ [(key, granule, 0)]
                  issued := sleep.disp.issued ++ [Issue.mk none r (some (key, granule, granule - p.va / 65536))] } }).push (.launchValidate none)
            else sleep

/-! ### Where the bytes of a mapped range lie (R68, R116) -/

/-- Whether a range covers a byte, by its address on the owned alias. -/
def Range.covers (g : Range) (a : Nat) : Bool := decide (g.lo ≤ a) && decide (a < g.lo + g.len)

/-- Where a byte lies: in its mapper's scratchpad, or at its address (R68). -/
def State.byteSite (s : State) (a : Nat) : Nat :=
  match s.homes.ranges.find? (fun g => g.covers a && g.mapper.isSome && !g.lost) with
  | none => a
  | some g =>
    match g.mapper with
    | some (core, ofs, _) =>
      if moduleOfNumber core = s.module then
        (match coreOfNumber core with
          | some u => windowAddr s.module u (ofs + (a - g.lo))
          | none => a)
      else a
    | none => a

/-- Bytes read and written where they lie. -/
def State.readVia (s : State) (a n : Nat) : List Byte := (List.range n).flatMap fun i => s.read (s.byteSite (a + i)) 1

/-! ### Milestone words (R106 to R111) -/

/-- A milestone word (R106). -/
structure Milestone where
  target : Nat
  arrived : Nat
  gen : Nat
  ov : Bool
  ex : Bool
  ra : Bool
  low : Nat
  deriving DecidableEq, Repr

def milestoneOf (v : Nat) : Milestone where
  target := bitsOf v 127 88
  arrived := bitsOf v 87 48
  gen := bitsOf v 47 16
  ov := bitsOf v 15 15 = 1
  ex := bitsOf v 14 14 = 1
  ra := bitsOf v 13 13 = 1
  low := bitsOf v 12 0

def Milestone.word (m : Milestone) : Nat :=
  m.target % 2 ^ 40 * 2 ^ 88 + m.arrived % 2 ^ 40 * 2 ^ 48 + m.gen % 2 ^ 32 * 2 ^ 16
    + bit m.ov * 32768 + bit m.ex * 16384 + bit m.ra * 8192 + m.low

/-- settle (R107): with RA = 0 one generation, with RA = 1 as many as the count holds. -/
def Milestone.settle (m : Milestone) : Milestone :=
  if m.target = 0 ∨ m.arrived < m.target then m
  else if m.ra then
    { m with
      arrived := m.arrived % m.target, gen := (m.gen + m.arrived / m.target) % 2 ^ 32,
      ex := m.ex || decide (m.arrived ≠ m.target) }
  else
    { m with
      arrived := m.arrived - m.target, gen := (m.gen + 1) % 2 ^ 32,
      ex := m.ex || decide (m.arrived ≠ m.target), target := 0 }

/-- contribute (R107). -/
def Milestone.contribute (m : Milestone) (n : Nat) : Milestone :=
  if 0xFFFFFFFFFF < m.arrived + n then ({ m with arrived := 0xFFFFFFFFFF, ov := true } : Milestone).settle
  else ({ m with arrived := m.arrived + n } : Milestone).settle

/-- MSARM at the site (R108); none: milestone overflow. -/
def Milestone.arm (m : Milestone) (n : Nat) (ra : Bool) : Option Milestone :=
  if 0xFFFFFFFFFF < m.target + n then none
  else some ({ m with target := m.target + n, ra := ra } : Milestone).settle

/-- Whether a generation reaches `g` (R109). -/
def reaches (gen g : Nat) : Bool := decide ((gen + 2 ^ 32 - g) % 2 ^ 32 < 2 ^ 31)

/-- The word at an address, where its bytes lie (R116). -/
def State.milestone (s : State) (pa : Nat) : Milestone := milestoneOf (bytesToNat (s.readVia (canon pa) 16))

/-- The milestone word that a launch depends on (R182). -/
def Launch.dword (l : Launch) : Nat := recBits l.record 0x18 63 4 * 16

/-- The milestone words whose generations something here waits for: evicted sleepers, cores of other modules, and launches (R109, R201, R202). -/
def State.watched (s : State) : List Nat :=
  (s.lcs.flatMap (fun e => e.2.plane.watch.map (·.2.2)) ++ s.homes.watchers.map (·.1)
    ++ (s.disp.launches.filter fun e => e.2.depMet = false).map fun e => canon e.2.dword).eraseDups

/-- The generation of a word has changed: the cores that watch it, here and on other modules, and the launches that depend on it are told (R111,
R201, R202). -/
def State.wordMoved (s : State) (pa : Nat) : State :=
  let gen := (s.milestone pa).gen
  let cores := (s.lcs.filter fun e => e.2.plane.watch.any fun w => w.2.2 = pa).map (·.1)
  let tags := (s.disp.launches.filter fun e =>
    e.2.depMet = false && canon e.2.dword = pa && reaches gen (recBits e.2.record 0x20 63 32)).map (·.1)
  let far := s.homes.watchers.filter fun w => w.1 = pa
  let s1 := { s with homes := { s.homes with watchers := s.homes.watchers.filter fun w => w.1 ≠ pa } }
  let s2 := far.foldl (fun x w => x.sendPacket (w.2.1 % 2 ^ 24) (coreNumber x.module (.lc 0)) w.2.2 0 0 0 0 0 (.done .host 0x4F [pa, w.2.1, gen])) s1
  s2.pushAll (cores.map (fun c => .watchNotify c pa) ++ tags.map .dependenceMet)

/-- A core of another module, or with 2^24 added its dispatch core, asks to be told of the next change of a word whose generation it has seen
(R109, R201, R202). -/
def State.watchWord (s : State) (pa seen core key : Nat) : State :=
  if (s.milestone pa).gen = seen then { s with homes := { s.homes with watchers := s.homes.watchers ++ [(canon pa, core, key)] } }
  else s.sendPacket (core % 2 ^ 24) (coreNumber s.module (.lc 0)) key 0 0 0 0 0 (.done .host 0x4F [canon pa, core, (s.milestone pa).gen])

/-- A milestone word changed at its site. -/
def State.setMilestone (s : State) (pa : Nat) (m : Milestone) : State :=
  let old := s.milestone pa
  let s1 := s.writeNat (s.byteSite (canon pa)) 16 m.word
  if old.gen = m.gen then s1 else s1.wordMoved (canon pa)

/-- A contribution reaches the word at a physical address of this module (R107). -/
def State.contribute (s : State) (pa n : Nat) : State := s.setMilestone pa ((s.milestone pa).contribute n)

/-- Bytes written where milestone words may lie: a generation that changes is told to whatever waits for it (R111, R191). -/
def State.writeWatched (s : State) (pa : Nat) (bs : List Byte) : State :=
  let words := s.watched.filter fun w => decide (pa < s.byteSite w + 16) && decide (s.byteSite w < pa + bs.length)
  let s1 := s.write pa bs
  (words.filter fun w => (s.milestone w).gen ≠ (s1.milestone w).gen).foldl (fun x w => x.wordMoved w) s1

/-- Bytes at offsets written where they lie; a plain store that covers a whole granule is one write (R58). -/
def State.writeVia (s : State) (a : Nat) (bs : List (Nat × Byte)) : State :=
  if bs.map (fun b => s.byteSite (a + b.1)) = (List.range bs.length).map (· + s.byteSite a) ∧ bs.map (·.1) = List.range bs.length then
    s.writeWatched (s.byteSite a) (bs.map (·.2))
  else bs.foldl (fun x b => x.writeWatched (x.byteSite (a + b.1)) [b.2]) s

/-! ### Loads and stores -/

/-- The load request of an agent for a piece. -/
def State.loadRequest (s : State) (pa n : Nat) (d : Dest) (acq : Bool) : Request where
  who := .agent s.focus
  core := s.coreNo s.focus
  key := s.curKey
  op := match s.siteOf (agentCore s.focus) pa with
    | .cached => .fill (pa % 64) n
    | _ => .load
  pa := pa
  len := n
  dest := d
  acq := acq
  named := some (hBase (s.h s.cur.opnd.2) + s.cur.opnd.1.toNat)

/-- A load of a thread asked of its site: a fill of an L1 line is noted (R40). -/
def State.askLoad (s : State) (c pa n : Nat) (d : Dest) (acq : Bool) : State :=
  let r := s.loadRequest pa n d acq
  let s1 := match r.op with
    | .fill _ _ => s.setLp c { s.lp c with misses := (s.lp c).misses ++ [Miss.mk (agentSlot s.focus) (pa / 64) true 0#64] }
    | _ => s
  s1.sendRequest r

/-- Whether the thread has a posted operation on its way to bytes of another module: a later access of the thread to them must not overtake it
(R91, R104). Operations held under a waypoint are not performed yet (R103). -/
def State.behindPosted (s : State) (pa n : Nat) : Bool :=
  moduleOf pa ≠ s.module && s.cur.journal.any fun e => !e.2.held && hV e.2.hval &&
    decide (canon pa < canon (hBase e.2.hval + e.2.ofs.toNat) + e.2.len) && decide (canon (hBase e.2.hval + e.2.ofs.toNat) < canon pa + n)

/-- The pieces of a load of thread `t` of core `c`: those served at once are delivered, the others requested and counted. -/
def State.loadPieces (s : State) (c : Nat) (wide : Bool) (dest : Nat → Dest) (ps : List (Nat × Nat × Nat)) : Nat × State :=
  match ps with
  | [] => (0, s)
  | (pa, n, ofs) :: rest =>
    match s.loadNow c wide s.curKey pa n with
    | some bs => ((s.loadTouch c pa).deliver s.focus (dest ofs) bs).loadPieces c wide dest rest
    | none =>
      let s1 := (s.count (.lc c) 0x0004 (if s.siteOf (.lc c) pa = .cached then 1 else 0)).drainLine c (pa / 64)
      let (k, s2) := (s1.askLoad c pa n (dest ofs) wide).loadPieces c wide dest rest
      (k + 1, s2)

/-- The pieces of a dense tile's load beyond the tile: each is due at its scheduled latency, and one that acquires at once: no later bundle makes
an access before it returns (R100; at thread and core scope DEDUCED, log 98). -/
def State.latePieces (s : State) (j : Nat) (acq wide : Bool) (dest : Nat → Dest) (ps : List (Nat × Nat × Nat)) : State :=
  match ps with
  | [] => s
  | (pa, n, ofs) :: rest =>
    let p := s.dp j
    let late : Late := ⟨agentSlot s.focus, dest ofs, p.vcc + (if acq then 0 else s.scheduled j pa), s.cur.pc, s.bslot, s.cur.opnd, p.vcc,
      s.h s.cur.opnd.2, none, 0, s.cur.waitLoops⟩
    let s1 := (s.setDp j { p with lates := p.lates ++ [late] }).sendRequest (s.loadRequest pa n (dest ofs) wide)
    s1.latePieces j acq wide dest rest

/-- A checked load cut into pieces, delivered piece by piece to `dest` (R263, R264): on a lookup core at once or after its
replies; on a dense tile in `lat` virtual cycles, with the bank uses `us`, or as late accesses. -/
def State.loadCut (s : State) (m : BitVec 3) (o : BitVec 64) (acq : Bool) (dest : Nat → Dest) (lat : Nat)
    (us : List (Nat × Nat)) (ps : List (Nat × Nat × Nat)) : State :=
  let u := agentCore s.focus
  let wide := acq && s.wideScope s.focus
  if ps.any (s.pieceBad u) then s.trap 0x05 o m.toNat
  else if ps.any (s.piecePoison u) then s.consumePoison s.focus
  else if ps.any (fun p => s.behindPosted p.1 p.2.1) then s.again
  else
    let s0 := s.setCur { s.cur with opnd := (o, m), produced := false }
    match s.focus with
    | .thread c _ =>
      let (k, s1) := s0.loadPieces c wide dest ps
      if k = 0 then (s1.acquireFor s1.focus wide).complete else s1.await k 0 .none
    | .bank j _ =>
      match s0.useBanks j us with
      | .error t => t
      | .ok s1 =>
        let own := ps.filter fun p => match s1.siteOf u p.1 with
          | .own _ => true
          | .control => true
          | _ => false
        let out := ps.filter fun p => match s1.siteOf u p.1 with
          | .own _ => false
          | .control => false
          | _ => true
        let s2 := own.foldl (fun x p =>
          match x.siteOf u p.1 with
          | .control => (x.controlReadEffect (offsetOf p.1)).deliverNow 400 (dest p.2.2) (x.controlRead x.curKey (offsetOf p.1) p.2.1)
          | _ => x.deliverNow lat (dest p.2.2) (x.read p.1 p.2.1)) s1
        (s2.latePieces j acq wide dest out).complete

/-- A load of `n` bytes at offset `o` of handle `m`, checked under R24 (R261, R263). -/
def State.loadVia (s : State) (m : BitVec 3) (o : BitVec 64) (n align : Nat) (acq : Bool) (dest : Nat → Dest) (lat : Nat) : State :=
  match checkHandle s.cur.sup (s.h m) o.toNat n align .load true with
  | some 0x0E => s.dropFlow m o
  | some c => s.handleTrap c o m
  | none =>
    let ps := pieces (hBase (s.h m)) o.toNat n
    s.loadCut m o acq dest lat (ps.filterMap fun p => match s.siteOf (agentCore s.focus) p.1 with
      | .own b => some (1, b)
      | _ => none) ps

/-- One piece of a store: at once in the agent's own memory and in control space; through the store buffer of a lookup core to a cached space or
a vault; at its site for a dense tile, and to another core's window or another module's registers, where it is admitted or refused precisely and its
thread waits for that (R14, R38, R96, R261; DEDUCED, log 15). The number of answers to wait for, and the state. -/
def State.storePiece (s : State) (pa : Nat) (bs : List Byte) : Nat × State :=
  match s.siteOf (agentCore s.focus) pa with
  | .own _ => (0, s.writeWatched pa bs)
  | .control => (0, s.pushAll (s.controlWrites s.curKey (offsetOf pa) bs))
  | .far =>
    (match s.focus with
      | .thread _ _ => (1, s.sendRequest {
          who := .agent s.focus
          core := s.coreNo s.focus
          key := s.curKey
          op := .store
          pa := pa
          len := bs.length
          data := bs
          dest := .x 0#5 3#3
          acq := true })
      | .bank _ _ => (0, s.storeAtSite s.focus s.curKey pa bs))
  | _ =>
    match s.focus with
    | .thread c t =>
      let s1 := if maxStoreBuffer ≤ (s.lp c).sbuf.length then s.drainOne c else s
      (0, (s1.setLp c { s1.lp c with sbuf := (s1.lp c).sbuf ++ [⟨t, pa, bs, s.curKey⟩] }).push (.storeBufferDrain c))
    | .bank _ _ => (0, s.storeAtSite s.focus s.curKey pa bs)

/-- The pieces of a store, each with its bytes: how many answers to wait for, and the state. -/
def State.storePieces (s : State) (ps : List ((Nat × Nat × Nat) × List Byte)) : Nat × State :=
  ps.foldl (fun (x : Nat × State) p => let (k, t) := x.2.storePiece p.1.1 p.2; (x.1 + k, t)) (0, s)

/-- The word in issue, as memory holds it (DEDUCED, log 8). -/
def State.curWord (s : State) : Word :=
  match s.fetch s.focus s.cur.pc with
  | .bytes bs => BitVec.ofNat 32 (bytesToNat ((bs.drop (4 * s.bslot)).take 4))
  | _ => 0#32

/-- A checked store cut into pieces with the bytes of each (R263, R264). -/
def State.storeCut (s : State) (m : BitVec 3) (o : BitVec 64) (us : List (Nat × Nat)) (ps : List ((Nat × Nat × Nat) × List Byte)) : State :=
  let u := agentCore s.focus
  let full : Bool := match s.focus with
    | .thread c _ => decide (maxStoreBuffer ≤ (s.lp c).sbuf.length) && ps.any (fun p => match s.siteOf u p.1.1 with
      | .cached => true
      | .vault => true
      | _ => false)
    | .bank _ _ => false
  let badReg (p : (Nat × Nat × Nat) × List Byte) : Bool := match s.siteOf u p.1.1 with
    | .control => (s.controlWrites s.curKey (offsetOf p.1.1) p.2).any s.controlBad
    | _ => false
  if ps.any (fun p => s.pieceBad u p.1) then s.trap 0x05 o m.toNat
  else if ps.any badReg then s.illegal s.curWord 0x09
  else if full || ps.any (fun p => s.behindPosted p.1.1 p.1.2.1) then s.again
  else match (match s.focus with
      | .thread _ _ => .ok s
      | .bank j _ => s.useBanks j us : Except State State) with
    | .error t => t
    | .ok s1 =>
      let (k, s2) := (s1.setCur { s1.cur with opnd := (o, m) }).storePieces ps
      if k = 0 then s2.complete else s2.await k 0 .none

/-- A store of bytes at offset `o` of handle `m`, checked under R24, and under R99 first for a release (R261, R263). -/
def State.storeVia (s : State) (m : BitVec 3) (o : BitVec 64) (bs : List Byte) (align : Nat) (rel : Bool) : State :=
  match checkHandle s.cur.sup (s.h m) o.toNat bs.length align .store true with
  | some c => s.handleTrap c o m
  | none =>
    let (done, s1) := if rel then s.releaseFor s.focus (s.wideScope s.focus) false else (true, s)
    if done = false then s1.again
    else
      let ps := pieces (hBase (s1.h m)) o.toNat bs.length
      s1.storeCut m o (ps.filterMap fun p => match s1.siteOf (agentCore s1.focus) p.1 with
        | .own b => some (1, b)
        | _ => none) (ps.map fun p => (p, (bs.drop p.2.2).take p.2.1))

/-- A milestone word lies in a scratchpad, a tile window or a vault (R106). -/
def milestoneSpace (pa : Nat) : Bool := spaceOf pa = 3 || spaceOf pa = 4

end Sys2Proof.Machine
end

