-- ==== Sys2Proof/Machine/Flags.lean ====
section
/-! DEFINITION. Number formats, rounding, conversions, arithmetic and the flags they raise (R119 to R140, R312). -/

namespace Sys2Proof.Machine

/-! ### Formats (R119, R121) -/

/-- What the largest exponent field encodes. -/
inductive Top where
  | ieee
  | e4m3
  | finite
  deriving DecidableEq, Repr

/-- A floating format: exponent bits, mantissa bits, bias, top exponent. -/
structure FloatFmt where
  eb : Nat
  mb : Nat
  bias : Nat
  top : Top
  deriving DecidableEq, Repr

def fmtF32 : FloatFmt := ⟨8, 23, 127, .ieee⟩
def fmtF16 : FloatFmt := ⟨5, 10, 15, .ieee⟩
def fmtBf16 : FloatFmt := ⟨8, 7, 127, .ieee⟩
def fmtE5m2 : FloatFmt := ⟨5, 2, 15, .ieee⟩
def fmtE4m3 : FloatFmt := ⟨4, 3, 7, .e4m3⟩
def fmtE3m2 : FloatFmt := ⟨3, 2, 3, .finite⟩
def fmtE2m3 : FloatFmt := ⟨2, 3, 1, .finite⟩
def fmtE2m1 : FloatFmt := ⟨2, 1, 1, .finite⟩

def FloatFmt.width (f : FloatFmt) : Nat := 1 + f.eb + f.mb

/-- The sign bit's value. -/
def FloatFmt.signBit (f : FloatFmt) : Nat := 2 ^ (f.eb + f.mb)

/-- The code of the largest finite magnitude. -/
def FloatFmt.maxCode (f : FloatFmt) : Nat :=
  match f.top with
  | .ieee => (2 ^ f.eb - 1) * 2 ^ f.mb - 1
  | .e4m3 => 2 ^ (f.eb + f.mb) - 2
  | .finite => 2 ^ (f.eb + f.mb) - 1

def FloatFmt.hasInf (f : FloatFmt) : Bool := f.top = .ieee

/-- The code of infinity. -/
def FloatFmt.infCode (f : FloatFmt) : Nat := (2 ^ f.eb - 1) * 2 ^ f.mb

/-- The default NaN (R121, R122). -/
def FloatFmt.nanCode (f : FloatFmt) : Nat :=
  match f.top with
  | .ieee => f.infCode + 2 ^ (f.mb - 1)
  | .e4m3 => 2 ^ (f.eb + f.mb) - 1
  | .finite => 0

/-- A value: a NaN, an infinity, or (-1)^neg * n * 2^e. -/
inductive Val where
  | nan
  | inf (neg : Bool)
  | num (neg : Bool) (n : Nat) (e : Int)
  deriving DecidableEq, Repr

/-- The value that a code of a format stands for (R121). -/
def FloatFmt.decode (f : FloatFmt) (c : Nat) : Val :=
  let neg : Bool := decide (c / f.signBit % 2 = 1)
  let ex := c / 2 ^ f.mb % 2 ^ f.eb
  let m := c % 2 ^ f.mb
  if f.top = .ieee ∧ ex = 2 ^ f.eb - 1 then (if m = 0 then .inf neg else .nan)
  else if f.top = .e4m3 ∧ c % f.signBit = f.signBit - 1 then .nan
  else if ex = 0 then .num neg m (1 - (f.bias : Int) - f.mb)
  else .num neg (2 ^ f.mb + m) ((ex : Int) - f.bias - f.mb)

/-! ### Flags (R136) -/

def flagNX : Nat := 1
def flagUF : Nat := 2
def flagOF : Nat := 4
def flagDZ : Nat := 8
def flagNV : Nat := 16
def flagSV : Nat := 32
def flagAO : Nat := 64

/-- A result: its code, the flags it raises, and whether it is a produced NaN (R139). -/
structure Res where
  code : Nat
  flags : Nat := 0
  nan : Bool := false
  deriving DecidableEq, Repr

/-! ### Rounding (R125 to R127, R131) -/

/-- Whether the kept part `sig` of a magnitude moves away from zero, given what was discarded, `rem` of `2 ^ sh`. -/
def roundsAway (rm rnd : Nat) (neg : Bool) (sig rem sh : Nat) : Bool :=
  if rem = 0 then false
  else match rm with
    | 0 => decide (2 ^ sh < 2 * rem) || (decide (2 * rem = 2 ^ sh) && sig % 2 = 1)
    | 1 => false
    | 2 => !neg
    | 3 => neg
    | _ => decide (0x10000 ≤ rem * 0x10000 / 2 ^ sh + rnd)

/-- A magnitude n * 2^e kept to multiples of 2^q: the multiple and whether it differs. -/
def roundTo (rm rnd : Nat) (neg : Bool) (n : Nat) (e q : Int) : Nat × Bool :=
  if q ≤ e then (n * 2 ^ (e - q).toNat, false)
  else
    let sh := (q - e).toNat
    let sig := n / 2 ^ sh
    let rem := n % 2 ^ sh
    (if roundsAway rm rnd neg sig rem sh then sig + 1 else sig, decide (rem ≠ 0))

/-- The smallest normal exponent. -/
def FloatFmt.emin (f : FloatFmt) : Int := 1 - (f.bias : Int)

/-- Whether a value rounded with unbounded exponent range lies below the smallest normal (R127). -/
def tiny (f : FloatFmt) (rm rnd : Nat) (neg : Bool) (n : Nat) (e : Int) : Bool :=
  let top := (Nat.log2 n : Int) + e
  if f.emin ≤ top then false
  else if top < f.emin - 1 then true
  else decide ((roundTo rm rnd neg n e (top - f.mb)).1 < 2 ^ (f.mb + 1))

/-- What an overflow delivers (R126). -/
def overflowCode (f : FloatFmt) (rm : Nat) (neg : Bool) : Nat :=
  let s := if neg then f.signBit else 0
  if f.hasInf = false then s + f.maxCode
  else match rm with
    | 1 => s + f.maxCode
    | 2 => if neg then s + f.maxCode else f.infCode
    | 3 => if neg then s + f.infCode else f.maxCode
    | _ => s + f.infCode

/-- round_fmt on a finite value (R125 to R127). -/
def roundNum (f : FloatFmt) (rm rnd : Nat) (neg : Bool) (n : Nat) (e : Int) : Res :=
  let s := if neg then f.signBit else 0
  if n = 0 then { code := s }
  else
    let top := (Nat.log2 n : Int) + e
    let low := f.emin - f.mb
    let q := max (top - f.mb) low
    let r := roundTo rm rnd neg n e q
    let code := (q - low).toNat * 2 ^ f.mb + r.1
    if f.maxCode < code then { code := overflowCode f rm neg, flags := flagOF + flagNX }
    else
      { code := s + code
        flags := (if r.2 then flagNX else 0) + (if r.2 && tiny f rm rnd neg n e then flagUF else 0) }

/-- A value rounded to a format. A NaN gives the default NaN (R122); an infinity, in e4m3, a produced NaN (R128). -/
def roundVal (f : FloatFmt) (rm rnd : Nat) (v : Val) : Res :=
  match v with
  | .nan => { code := f.nanCode }
  | .inf neg =>
    if f.hasInf then { code := (if neg then f.signBit else 0) + f.infCode }
    else { code := f.nanCode, flags := flagNV, nan := true }
  | .num neg n e => roundNum f rm rnd neg n e

/-! ### Exact arithmetic (R137) -/

/-- An operation's exact value with the flags of R137, and whether it makes a NaN from operands that are none. -/
structure Exact where
  v : Val
  flags : Nat := 0
  nan : Bool := false
  deriving DecidableEq, Repr

/-- An invalid operation: NV and a produced NaN. -/
def invalid : Exact := { v := .nan, flags := flagNV, nan := true }

def Val.isNan : Val → Bool
  | .nan => true
  | _ => false

def Val.isZero : Val → Bool
  | .num _ 0 _ => true
  | _ => false

def Val.neg? : Val → Bool
  | .nan => false
  | .inf b => b
  | .num b _ _ => b

/-- The sign inverted. -/
def Val.flip : Val → Val
  | .nan => .nan
  | .inf b => .inf (!b)
  | .num b n e => .num (!b) n e

/-- A signed multiple of 2^e as a value; zero has the sign given. -/
def valOfInt (i : Int) (e : Int) (zeroNeg : Bool) : Val :=
  if i = 0 then .num zeroNeg 0 0 else .num (decide (i < 0)) i.natAbs e

/-- A finite value as a multiple of 2^q, for q at most its exponent. -/
def scaled (neg : Bool) (n : Nat) (e q : Int) : Int :=
  let m : Int := (n * 2 ^ (e - q).toNat : Nat)
  if neg then -m else m

/-- x + y (R122, R137). -/
def addVal (rm : Nat) (x y : Val) : Exact :=
  match x, y with
  | .nan, _ => { v := .nan }
  | _, .nan => { v := .nan }
  | .inf a, .inf b => if a = b then { v := .inf a } else invalid
  | .inf a, _ => { v := .inf a }
  | _, .inf b => { v := .inf b }
  | .num a n e, .num b m g =>
    let q := min e g
    { v := valOfInt (scaled a n e q + scaled b m g q) q (if a = b then a else rm = 3) }

/-- x * y. -/
def mulVal (x y : Val) : Exact :=
  match x, y with
  | .nan, _ => { v := .nan }
  | _, .nan => { v := .nan }
  | .inf a, .inf b => { v := .inf (a != b) }
  | .inf a, .num b n _ => if n = 0 then invalid else { v := .inf (a != b) }
  | .num a n _, .inf b => if n = 0 then invalid else { v := .inf (a != b) }
  | .num a n e, .num b m g => { v := .num (a != b) (n * m) (e + g) }

/-- x * y + z, exact. -/
def fmaVal (rm : Nat) (x y z : Val) : Exact :=
  if x.isNan || y.isNan || z.isNan then { v := .nan }
  else
    let p := mulVal x y
    if p.nan then p else addVal rm p.v z

/-- x * 2^n. -/
def scaleVal (x : Val) (n : Int) : Val :=
  match x with
  | .num b m e => .num b m (e + n)
  | v => v

/-- The bits that a quotient or root keeps before its sticky bit: more than any format needs, stochastic bits included. -/
def extraBits : Nat := 96

/-- a / b to `extraBits` significant bits with a sticky bit: a multiple and its exponent. -/
def quotient (a b : Nat) : Nat × Int :=
  let sh := extraBits + Nat.log2 b
  let q := a * 2 ^ sh / b
  (2 * q + (if a * 2 ^ sh % b = 0 then 0 else 1), -(sh : Int) - 1)

/-- x / y (R137). -/
def divVal (x y : Val) : Exact :=
  match x, y with
  | .nan, _ => { v := .nan }
  | _, .nan => { v := .nan }
  | .inf _, .inf _ => invalid
  | .inf a, .num b _ _ => { v := .inf (a != b) }
  | .num a _ _, .inf b => { v := .num (a != b) 0 0 }
  | .num a n e, .num b m g =>
    if m = 0 then (if n = 0 then invalid else { v := .inf (a != b), flags := flagDZ })
    else
      let (q, k) := quotient n m
      { v := .num (a != b) q (e - g + k) }

/-- The root of n * 2^e with a sticky bit. -/
def rootOf (n : Nat) (e : Int) : Nat × Int :=
  let e1 := e - 2 * extraBits
  let (m, g) := if e1 % 2 = 0 then (n * 2 ^ (2 * extraBits), e1) else (2 * n * 2 ^ (2 * extraBits), e1 - 1)
  let r := Nat.sqrt m
  (2 * r + (if r * r = m then 0 else 1), g / 2 - 1)

/-- The square root (R137). -/
def sqrtVal (x : Val) : Exact :=
  match x with
  | .nan => { v := .nan }
  | .inf neg => if neg then invalid else { v := .inf false }
  | .num neg n e =>
    if n = 0 then { v := .num neg 0 0 }
    else if neg then invalid
    else { v := .num false (rootOf n e).1 (rootOf n e).2 }

/-- The reciprocal (R137, R312). -/
def rcpVal (x : Val) : Exact := divVal (.num false 1 0) x

/-- The reciprocal square root (R137, R312). -/
def rsqVal (x : Val) : Exact :=
  match x with
  | .nan => { v := .nan }
  | .inf neg => if neg then invalid else { v := .num false 0 0 }
  | .num neg n e =>
    if n = 0 then { v := .inf neg, flags := flagDZ }
    else if neg then invalid
    else
      -- 1 / sqrt(n 2^e): the root of 2^(2k) / n, with e made even
      let (m, g) := if e % 2 = 0 then (n, e) else (2 * n, e - 1)
      let k := extraBits + Nat.log2 m
      let y := 2 ^ (2 * k) / m
      let r := Nat.sqrt y
      { v := .num false (2 * r + (if r * r = y ∧ 2 ^ (2 * k) % m = 0 then 0 else 1)) (-(k : Int) - g / 2 - 1) }

/-! ### Logarithm and exponential in base 2, as binary fractions -/

/-- Fraction bits of the constants below. -/
def fracBits : Nat := 256

/-- The next `k` bits of log2 m, for m in [1, 2) given in units of 2^-fracBits, most significant first. -/
def logBits (k m acc : Nat) : Nat :=
  match k with
  | 0 => acc
  | j + 1 =>
    let sq := m * m / 2 ^ fracBits
    if 2 ^ (fracBits + 1) ≤ sq then logBits j (sq / 2) (2 * acc + 1) else logBits j sq (2 * acc)

/-- log2 (R312): 80 bits of fraction and a sticky bit. -/
def log2Val (x : Val) : Exact :=
  match x with
  | .nan => { v := .nan }
  | .inf neg => if neg then invalid else { v := .inf false }
  | .num neg n e =>
    if n = 0 then { v := .inf true, flags := flagDZ }
    else if neg then invalid
    else
      let top := Nat.log2 n
      let whole : Int := (top : Int) + e
      if n = 2 ^ top then { v := valOfInt whole 0 false }
      else
        let m := n * 2 ^ fracBits / 2 ^ top
        { v := valOfInt ((whole * 2 ^ 80 + (logBits 80 m 0 : Nat)) * 2 + 1) (-81) false }

/-- The product of the roots 2^(2^-i) over the set bits of a fraction, from bit `k - 1` down; `root` in units of
2^-fracBits. -/
def expBits (k frac root acc : Nat) : Nat :=
  match k with
  | 0 => acc
  | j + 1 =>
    let acc1 := if frac / 2 ^ j % 2 = 1 then acc * root / 2 ^ fracBits else acc
    expBits j frac (Nat.sqrt (root * 2 ^ fracBits)) acc1

/-- 2^x (R312). Beyond 2^14 the value only has to lie past every format; below 2^-80 it only has to lie beside 1. -/
def exp2Val (x : Val) : Exact :=
  match x with
  | .nan => { v := .nan }
  | .inf neg => if neg then { v := .num false 0 0 } else { v := .inf false }
  | .num neg n e =>
    if n = 0 then { v := .num false 1 0 }
    else
      let top := (Nat.log2 n : Int) + e
      if 14 ≤ top then { v := .num false 1 (if neg then -20000 else 20000) }
      else if top < -80 then { v := .num false (if neg then 2 ^ 200 - 1 else 2 ^ 200 + 1) (-200) }
      else
        -- x in units of 2^-160, exact: every operand that reaches here has its last bit at or above 2^-160
        let i := scaled neg n e (-160)
        let whole := i / 2 ^ 160
        let frac := (i % 2 ^ 160).toNat
        if frac = 0 then { v := .num false 1 whole }
        else { v := .num false (2 * expBits 160 frac (Nat.sqrt (2 * 2 ^ (2 * fracBits))) (2 ^ fracBits) + 1) (whole - fracBits - 1) }

/-! ### The five functions of R312 -/

/-- |a - b| at most k * 2^q, for values taken as multiples of a common unit. -/
def within (a b : Val) (k : Nat) (q : Int) : Bool :=
  match a, b with
  | .num s n e, .num t m g =>
    let u := min (min e g) q
    decide ((scaled s n e u - scaled t m g u).natAbs ≤ k * 2 ^ (q - u).toNat)
  | _, _ => false

/-- The spacing exponent of a format at a value. -/
def spacing (f : FloatFmt) (v : Val) : Int :=
  match v with
  | .num _ n e => max ((Nat.log2 n : Int) + e - f.mb) (f.emin - f.mb)
  | _ => 0

/-- The exact value of function `k`: 0 VEXP2, 1 VLOG2, 2 VRCP, 3 VRSQ. -/
def funcVal (k : Nat) (x : Val) : Exact :=
  match k with
  | 0 => exp2Val x
  | 1 => log2Val x
  | 2 => rcpVal x
  | _ => rsqVal x

/-- A function of R312 in f32: a value of the part's own within the bound of its row; exact and special cases as stated. The
part's value is `Config.approxF32`, which nothing constrains but this bound (DESIGN CHOICE, log 7). -/
def approxF32 (k c : Nat) : Res :=
  let x := fmtF32.decode c
  let y := funcVal k x
  let ref := roundVal fmtF32 0 0 y.v
  let r := { ref with flags := ref.flags ||| y.flags, nan := y.nan }
  match y.v with
  | .num _ n _ =>
    if n = 0 ∨ ref.flags % 2 = 0 ∨ ref.flags / 4 % 2 = 1 then r
    else
      let cand := (Config.approxF32 k (BitVec.ofNat 32 c)).toNat
      let v := fmtF32.decode cand
      let ulps := if k ≤ 1 then 2 else 1
      let near := within v y.v ulps (spacing fmtF32 y.v) ||
        (k = 1 && within x (.num false 5 (-2)) 3 (-2) && within v y.v 1 (-22))
      if near then { r with code := cand } else r
  | _ => r

/-- A function of R312 in a floating format. -/
def funcRes (k : Nat) (f : FloatFmt) (c : Nat) : Res :=
  if f = fmtF32 then approxF32 k c
  else
    let y := funcVal k (f.decode c)
    let r := roundVal f 0 0 y.v
    { r with flags := r.flags ||| y.flags, nan := y.nan }

/-- The exact value of an operation rounded, its flags together (R126, R137). -/
def Exact.round (x : Exact) (f : FloatFmt) (rm rnd : Nat) : Res :=
  let r := roundVal f rm rnd x.v
  { r with flags := r.flags ||| x.flags, nan := x.nan }

/-! ### Integers and conversions (R124, R128, R129) -/

/-- A code as a signed number of `w` bits. -/
def signedOf (w c : Nat) : Int := if 2 ^ (w - 1) ≤ c % 2 ^ w then (c % 2 ^ w : Nat) - (2 ^ w : Nat) else (c % 2 ^ w : Nat)

/-- A number as a code of `w` bits. -/
def codeOf (w : Nat) (i : Int) : Nat := (i % (2 ^ w : Nat)).toNat

/-- round_int: the integer that a finite value rounds to. -/
def roundInt (rm rnd : Nat) (neg : Bool) (n : Nat) (e : Int) : Int :=
  let r := (roundTo rm rnd neg n e 0).1
  if neg then -(r : Int) else r

/-- A number clamped to a range: the number and whether it moved. -/
def clamp (lo hi i : Int) : Int × Bool := if i < lo then (lo, true) else if hi < i then (hi, true) else (i, false)

/-- The range of an integer format of `w` bits. -/
def intLo (signed : Bool) (w : Nat) : Int := if signed then -(2 ^ (w - 1) : Nat) else 0
def intHi (signed : Bool) (w : Nat) : Int := if signed then (2 ^ (w - 1) : Nat) - 1 else (2 ^ w : Nat) - 1

/-- A value converted to an integer format (R129). -/
def toInt (signed : Bool) (w rm rnd : Nat) (v : Val) : Res :=
  match v with
  | .nan => { code := 0, flags := flagNV }
  | .inf neg => { code := codeOf w (if neg then intLo signed w else intHi signed w), flags := flagNV }
  | .num neg n e =>
    let i := roundInt rm rnd neg n e
    let (j, moved) := clamp (intLo signed w) (intHi signed w) i
    { code := codeOf w j
      flags := if moved then flagNV else if (roundTo rm rnd neg n e 0).2 then flagNX else 0 }

/-- A number as an exact value. -/
def valOf (i : Int) : Val := valOfInt i 0 false

/-- A format of VCVT by its number 0x00 to 0x0C (R119, R308). -/
inductive CvtFmt where
  | int (signed : Bool) (w : Nat)
  | float (f : FloatFmt)
  deriving DecidableEq, Repr

def cvtFmt (n : Nat) : Option CvtFmt :=
  if n < 4 then some (.int true (8 * 2 ^ n))
  else if n < 8 then some (.int false (8 * 2 ^ (n - 4)))
  else match n with
    | 8 => some (.float fmtF32)
    | 9 => some (.float fmtF16)
    | 10 => some (.float fmtBf16)
    | 11 => some (.float fmtE4m3)
    | 12 => some (.float fmtE5m2)
    | _ => none

def CvtFmt.width : CvtFmt → Nat
  | .int _ w => w
  | .float f => f.width

/-- One element converted (R128, R129). -/
def convert (a b : CvtFmt) (rm rnd c : Nat) : Res :=
  match a, b with
  | .int s w, .int t v =>
    let (j, moved) := clamp (intLo t v) (intHi t v) (if s then signedOf w c else (c % 2 ^ w : Nat))
    { code := codeOf v j, flags := if moved then flagSV else 0 }
  | .int s w, .float f => roundVal f rm rnd (valOf (if s then signedOf w c else (c % 2 ^ w : Nat)))
  | .float f, .int t v => toInt t v rm rnd (f.decode c)
  | .float f, .float g => roundVal g rm rnd (f.decode c)

/-! ### MX blocks (R123, R130) -/

/-- The packed formats of R309 and R119: element format, or the two integer ones. -/
inductive PackFmt where
  | mx (f : FloatFmt) (emax : Nat)
  | mxi8
  | i4
  deriving DecidableEq, Repr

/-- The packed side's code (R309). -/
def packFmt (n : Nat) : PackFmt :=
  match n with
  | 0 => .mx fmtE4m3 8
  | 1 => .mx fmtE5m2 15
  | 2 => .mx fmtE3m2 4
  | 3 => .mx fmtE2m3 2
  | 4 => .mx fmtE2m1 2
  | 5 => .mxi8
  | _ => .i4

/-- The bits of an element. -/
def PackFmt.width : PackFmt → Nat
  | .mx f _ => f.width
  | .mxi8 => 8
  | .i4 => 4

/-- A block converted: scale, element codes, flags, and the first element that produces a NaN (R130, R309). -/
structure Block where
  scale : Nat
  elems : List Nat
  flags : Nat
  nanAt : Option Nat
  deriving DecidableEq, Repr

/-- The floor of log2 of the largest magnitude; none where every value is zero. -/
def blockTop (vs : List Val) : Option Int :=
  vs.foldl (fun acc v => match v with
    | .num _ n e => if n = 0 then acc else
      let t := (Nat.log2 n : Int) + e
      some (match acc with
        | none => t
        | some u => max t u)
    | _ => acc) none

/-- An element of a block, by its scaled value: code and whether it is inexact or clamped (R130). -/
def blockElem (p : PackFmt) (rm rnd : Nat) (v : Val) : Nat × Bool :=
  match p, v with
  | .mx f _, .num neg n e =>
    let r := roundNum f rm rnd neg n e
    let s := if neg then f.signBit else 0
    if r.flags / 4 % 2 = 1 then (s + f.maxCode, true) else (r.code, r.flags % 2 = 1)
  | _, .num neg n e =>
    let i := roundInt rm rnd neg n (e + 6)
    let (j, moved) := clamp (-127) 127 i
    (codeOf 8 j, moved || (roundTo rm rnd neg n (e + 6) 0).2)
  | _, _ => (0, false)

/-- to_mx (R130); `rnd i` are the random bits of element `i`. -/
def toMx (p : PackFmt) (emax rm : Nat) (rnd : Nat → Nat) (vs : List Val) : Block :=
  let infAt := vs.findIdx? fun v => match v with
    | .inf _ => true
    | _ => false
  if vs.any Val.isNan || infAt.isSome then
    { scale := 0xFF
      elems := vs.map fun _ => 0
      flags := if infAt.isSome then flagNV else 0
      nanAt := if vs.any Val.isNan then none else infAt }
  else
    let xs : Int := match blockTop vs with
      | none => -127
      | some t => min (max (t - emax) (-127)) 127
    let es := (List.range vs.length).map fun i => blockElem p rm (rnd i) (scaleVal (vs.getD i .nan) (-xs))
    { scale := (xs + 127).toNat
      elems := es.map (·.1)
      flags := if es.any (·.2) then flagNX else 0
      nanAt := none }

/-- The exact value of a packed element under a scale byte (R123, R124); a scale of 0xFF gives NaN. -/
def unpackVal (p : PackFmt) (scale c : Nat) : Val :=
  match p with
  | .i4 => valOf (signedOf 4 c)
  | .mx f _ => if scale = 0xFF then .nan else scaleVal (f.decode c) ((scale : Int) - 127)
  | .mxi8 => if scale = 0xFF then .nan else scaleVal (valOfInt (signedOf 8 c) (-6) false) ((scale : Int) - 127)

/-! ### Stochastic bits (R132, R133) -/

/-- sr_word (R132). -/
def srWord (seed : BitVec 64) (lcoreid tid j : Nat) : BitVec 64 :=
  let x0 := seed ^^^ (BitVec.ofNat 64 (lcoreid % 2 ^ 24) <<< 40) ^^^ (BitVec.ofNat 64 (tid % 16) <<< 36) ^^^ BitVec.ofNat 64 j
  let x1 := x0 + 0x9E3779B97F4A7C15#64
  let x2 := (x1 ^^^ (x1 >>> 30)) * 0xBF58476D1CE4E5B9#64
  let x3 := (x2 ^^^ (x2 >>> 27)) * 0x94D049BB133111EB#64
  x3 ^^^ (x3 >>> 31)

/-- The word of the stream of the agent in issue, `j` places on from its counter. -/
def State.streamWord (s : State) (j : Nat) : BitVec 64 :=
  let tid := match s.partner s.focus with
    | some b => min (s.tid s.focus) (s.tid b)
    | none => s.tid s.focus
  srWord s.cur.seed (s.task s.focus).lcoreid tid ((s.cur.src.toNat + j) % 2 ^ 36)

/-- The 16 random bits of lane `i` (R133). -/
def State.laneBits (s : State) (i : Nat) : Nat := (s.streamWord (i / 4)).toNat / 2 ^ (16 * (i % 4)) % 65536

/-- The counter after `l` lanes have drawn (R133). -/
def State.drawn (s : State) (l : Nat) : State :=
  s.setCur { s.cur with src := BitVec.ofNat 64 ((s.cur.src.toNat + (l + 3) / 4) % 2 ^ 36) }

end Sys2Proof.Machine
end

