-- ==== Sys2Proof/Machine/Operands.lean ====
section
/-! DEFINITION. Vector lanes, predicates and vector length, and how a vector result is written with its flags and its NaN trap
(R224, R297 to R303, R138 to R140). -/

namespace Sys2Proof.Machine

/-- The bytes of an element of a type code (R224). -/
def elemBytes (t : BitVec 3) : Nat :=
  match t.toNat with
  | 0 => 1
  | 1 => 2
  | 2 => 4
  | 3 => 8
  | 4 => 4
  | _ => 2

def elemBits (t : BitVec 3) : Nat := 8 * elemBytes t

/-- The floating format of a type code (R224). -/
def floatOf (t : BitVec 3) : FloatFmt :=
  match t.toNat with
  | 4 => fmtF32
  | 5 => fmtF16
  | _ => fmtBf16

/-- The format number of a floating type code (R119). -/
def formatNo (t : BitVec 3) : Nat := t.toNat + 4

/-- Lane `i` of `w` bits (R297). -/
def laneOf (v : BitVec 4096) (w i : Nat) : Nat := v.toNat / 2 ^ (w * i) % 2 ^ w

/-- The lanes of `w` bits in a register of `r` bytes (R297). -/
def laneCount (r w : Nat) : Nat := 8 * r / w

/-- The vector length in lanes of `w` bits (R299). -/
def State.vl (s : State) (w : Nat) : Nat := s.cur.vlen.toNat * 8 / w

/-- Whether predicate field `q` allows lane `i` of `w` bits (R298). -/
def State.allows (s : State) (q : BitVec 3) (w i : Nat) : Bool := q = 0#3 || (s.k q).getLsbD (i * w / 16)

/-- act(i) of R301. -/
def State.act (s : State) (q : BitVec 3) (w i : Nat) : Bool := decide (i < s.vl w) && s.allows q w i

/-- The active lanes, ascending. -/
def State.activeLanes (s : State) (q : BitVec 3) (w : Nat) : List Nat :=
  (List.range (laneCount (vectorBytes s.focus) w)).filter (s.act q w)

/-- Results by lane put together: the register bits and the mask of those written. -/
def lanesValue (w : Nat) (rs : List (Nat × Res)) : BitVec 4096 :=
  BitVec.ofNat 4096 (rs.foldl (fun v r => v + r.2.code % 2 ^ w * 2 ^ (w * r.1)) 0)

def lanesMask (w : Nat) (rs : List (Nat × Res)) : BitVec 4096 :=
  BitVec.ofNat 4096 (rs.foldl (fun v r => v + (2 ^ w - 1) * 2 ^ (w * r.1)) 0)

/-- The flags of the lanes together (R138). -/
def lanesFlags (rs : List (Nat × Res)) : Nat := rs.foldl (fun f r => f ||| r.2.flags) 0

/-- The lowest lane that produced a NaN (R139). -/
def lanesNan (rs : List (Nat × Res)) : Option Nat := (rs.find? fun r => r.2.nan).map (·.1)

/-- Whether a produced NaN traps now (R139). -/
def nanTraps (mflags : BitVec 64) : Bool := mflags.getLsbD 14 && !mflags.getLsbD 15

/-- Whether a produced NaN of the agent in issue traps: not when one of an earlier bundle has set NT, which may still be in flight (R139). -/
def State.nanArmed (s : State) : Bool :=
  nanTraps s.cur.mflags && (match s.focus with
    | .thread _ _ => true
    | .bank j b =>
      let p := s.dp j
      !(p.flights.any fun f => f.bank = b && f.reg = .flags && f.value.getLsbD 15 && decide (f.issue < p.vcc)))

/-- tfmt of the NaN trap (R140). -/
def nanFormats (rm d b a : Nat) : BitVec 64 := BitVec.ofNat 64 (rm * 32768 + d * 1024 + b * 32 + a)

/-- A vector instruction completes with flags, and with the NaN trap where it produced one (R138 to R140). -/
def State.vecFinish (s : State) (lat flags : Nat) (nan : Option Nat) (tfmt : BitVec 64) : State :=
  match nan with
  | none => (s.raiseFlags lat (BitVec.ofNat 64 flags)).complete
  | some lane =>
    if s.nanArmed then
      ((s.raiseFlags lat (BitVec.ofNat 64 (flags + 0x8000))).complete).trapAfter {
        cause := 0x0F
        tval := s.cur.pc.setWidth 64
        tinfo := if isDense s.focus then BitVec.ofNat 64 s.bslot else 0#64
        tfmt := tfmt
        tvec := BitVec.ofNat 64 lane } 0
    else (s.raiseFlags lat (BitVec.ofNat 64 flags)).complete

/-- The lanes of a vector result written and the instruction completed (R301). -/
def State.vecDone (s : State) (lat : Nat) (d : BitVec 5) (w : Nat) (rs : List (Nat × Res)) (tfmt : BitVec 64) : State :=
  (s.setV lat d (lanesValue w rs) (lanesMask w rs)).vecFinish lat (lanesFlags rs) (lanesNan rs) tfmt

/-- An offence of R301 reported by 0x1D: kind, number, tval. -/
def State.vecType (s : State) (kind number : Nat) (tval : BitVec 64) : State :=
  s.trap 0x1D tval (kind * 256 + number)

/-- A lane-wise instruction (R301): `f` gives the result of each active lane. A stochastic mode draws for every lane of the
destination (R133). -/
def State.lanewise (s : State) (lat : Nat) (d : BitVec 5) (t q : BitVec 3) (rm : Nat) (tfmt : BitVec 64) (f : Nat → Res) : State :=
  let w := elemBits t
  let rs := (s.activeLanes q w).map fun i => (i, f i)
  let s1 := if rm = 4 then s.drawn (laneCount (vectorBytes s.focus) w) else s
  s1.vecDone lat d w rs tfmt

/-- The stochastic mode of a floating type (R224): an integer type's variant is no rounding mode. -/
def modeOf (t v : BitVec 3) : Nat := if isFloatType t then v.toNat else 0

/-! ### Integer lane arithmetic (R303, R304) -/

/-- A wrapped or saturated sum, difference or product: variant 0 wraps, 1 saturates signed, 2 unsigned. -/
def satLane (w v : Nat) (op : Int → Int → Int) (a b : Nat) : Res :=
  match v with
  | 1 => { code := codeOf w (clamp (intLo true w) (intHi true w) (op (signedOf w a) (signedOf w b))).1 }
  | 2 => { code := codeOf w (clamp 0 (intHi false w) (op (a : Int) (b : Int))).1 }
  | _ => { code := codeOf w (op (a : Int) (b : Int)) }

/-- The high half of a product (variants 3 and 4 of VMUL). -/
def mulLane (w v : Nat) (a b : Nat) : Res :=
  match v with
  | 3 => { code := codeOf w (signedOf w a * signedOf w b / (2 ^ w : Nat)) }
  | 4 => { code := codeOf w (((a * b / 2 ^ w : Nat)) : Int) }
  | _ => satLane w v (· * ·) a b

/-- divrem of R246 on `w` bits: quotient, remainder, DZ. -/
def divRem (w : Nat) (signed : Bool) (a b : Nat) : Nat × Nat × Bool :=
  if b % 2 ^ w = 0 then (2 ^ w - 1, a % 2 ^ w, true)
  else if signed then
    (codeOf w (Int.tdiv (signedOf w a) (signedOf w b)), codeOf w (Int.tmod (signedOf w a) (signedOf w b)), false)
  else (a % 2 ^ w / (b % 2 ^ w), a % 2 ^ w % (b % 2 ^ w), false)

/-- The population count, leading zeros or trailing zeros of `w` bits (R247, R311). -/
def bitCount (w op a : Nat) : Nat :=
  match op with
  | 0 => ((List.range w).filter fun i => a / 2 ^ i % 2 = 1).length
  | 1 => if a % 2 ^ w = 0 then w else w - 1 - Nat.log2 (a % 2 ^ w)
  | _ => ((List.range w).find? fun i => a / 2 ^ i % 2 = 1).getD w

/-- A shift of `w` bits by a code of R242. -/
def shiftBits (w fn n a : Nat) : Nat :=
  match fn with
  | 0 => a * 2 ^ n % 2 ^ w
  | 1 => a / 2 ^ n
  | 2 => codeOf w (signedOf w a / (2 ^ n : Nat))
  | _ => (a * 2 ^ n % 2 ^ w) + a / 2 ^ (w - n)

/-! ### Floating compares (R242, R305) -/

/-- The order of two values that are not NaN: -0 equals +0. -/
def cmpVal (x y : Val) : Ordering :=
  match x, y with
  | .inf a, .inf b => if a = b then .eq else if a then .lt else .gt
  | .inf a, _ => if a then .lt else .gt
  | _, .inf b => if b then .gt else .lt
  | .num a n e, .num b m g =>
    let q := min e g
    compare (scaled a n e q) (scaled b m g q)
  | _, _ => .eq

/-- A compare code on integers of `w` bits (R242). -/
def cmpInt (w fn a b : Nat) : Bool :=
  match fn with
  | 0 => a = b
  | 1 => a ≠ b
  | 2 => decide (signedOf w a < signedOf w b)
  | 3 => decide (signedOf w a ≤ signedOf w b)
  | 4 => decide (a < b)
  | _ => decide (a ≤ b)

/-- A compare code on floating values (R242). -/
def cmpFloat (fn : Nat) (x y : Val) : Bool :=
  if x.isNan || y.isNan then decide (fn = 1 ∨ fn = 6)
  else match fn with
    | 0 => cmpVal x y = .eq
    | 1 => cmpVal x y ≠ .eq
    | 2 => cmpVal x y = .lt
    | 3 => cmpVal x y ≠ .gt
    | _ => false

/-- The smaller or larger of two floating codes: a NaN gives the default NaN, and -0 lies below +0 (R304). -/
def minMaxFloat (f : FloatFmt) (isMax : Bool) (a b : Nat) : Nat :=
  let x := f.decode a
  let y := f.decode b
  if x.isNan || y.isNan then f.nanCode
  else match cmpVal x y with
    | .lt => if isMax then b else a
    | .gt => if isMax then a else b
    | .eq => if x.neg? = isMax then b else a

/-- A logic code of R242 on naturals of `w` bits. -/
def logicBits (w fn a b : Nat) : Nat :=
  let inv (x : Nat) : Nat := 2 ^ w - 1 - x % 2 ^ w
  match fn with
  | 0 => a &&& b
  | 1 => a ||| b
  | 2 => a ^^^ b
  | 3 => a &&& inv b
  | 4 => a ||| inv b
  | 5 => inv (a ^^^ b)
  | _ => inv (a ||| b)

end Sys2Proof.Machine
end

