-- ==== Sys2Proof/Machine/Revoke.lean ====
section
/-! DEFINITION. Revocation of handles (R25 to R28, R87, R267), as every core of its scope applies and acknowledges it. -/

namespace Sys2Proof.Machine

/-- The module's revocation sequence number (R27). -/
def State.revSeq (s : State) : Nat :=
  match s.revLog.getLast? with
  | some e => e.1
  | none => 0

/-- Whether [a, b] and [c, d] share a byte. -/
def overlaps (a b c d : Nat) : Bool := decide (a ≤ d) && decide (c ≤ b)

/-- A handle that a revocation matches (R25), its base on the alias that it names. -/
def matchesRev (r : Revocation) (h : BitVec 128) : Bool :=
  hV h && hKey h = r.key && overlaps (hBase h) (hBase h + hLimit h) r.lo r.hi

/-- A change of every handle of a context: of its registers, and of the waypoint checkpoint in its context-cache slot, so that a rollback brings
no revoked handle back (R25, R27, R275). DEDUCED (log 32). -/
def Ctx.mapHandles (c : Ctx) (f : BitVec 128 → BitVec 128) : Ctx :=
  { c with
    h := c.h.map f
    checkpoint := c.checkpoint.map fun k => { k with h := k.h.map f } }

/-- A context's handles with every match cleared. -/
def Ctx.revoke (c : Ctx) (r : Revocation) : Ctx := c.mapHandles fun h => if matchesRev r h then hClear h else h

/-- A context loaded again at a core: its handles meet the revocations logged since it was saved, or all are cleared where the log no longer
reaches back (R27); and those that this core has applied already while others of the module have not. -/
def State.reviveHandles (s : State) (u : CoreRef) (c : Ctx) (saved : Nat) : Ctx :=
  let newer := (s.revLog.filter fun e => decide (saved < e.1)).map (·.2)
  let applied := (s.revs.filter fun v => v.seq = 0 && !v.todo.contains u).map (·.rev)
  match s.revLog.head? with
  | some e => if saved + 1 < e.1 then c.mapHandles hClear else (newer ++ applied).foldl Ctx.revoke c
  | none => applied.foldl Ctx.revoke c

/-- Whether a handle read before a number of the log has been revoked since (R25, R27). -/
def State.handleLost (s : State) (u : CoreRef) (h : BitVec 128) (saved : Nat) : Bool :=
  hV h && !hV ((s.reviveHandles u { Ctx.reset with h := Vector.replicate 8 h } saved).readH 0#3)

/-- The cores that a scope code covers around core `u`, of those that hold anything (R87). -/
def State.scopeCores (s : State) (scope : Nat) (u : CoreRef) : List CoreRef :=
  let all := s.lcs.map (fun e => CoreRef.lc e.1) ++ s.dts.map (fun e => CoreRef.dt e.1)
  match scope with
  | 0 => [u]
  | 1 => [u]
  | 2 => all.filter fun v => sectorOf v = sectorOf u
  | 3 => all.filter fun v => sectorOf v / 16 = sectorOf u / 16
  | _ => all

/-- The revocation number goes up by one and the log takes an entry, once every core of the module that a revocation reaches has applied it: a context
saved before that meets it when it is loaded (R27, R28; DEDUCED, log 100). -/
def State.logRevocation (s : State) (r : Revocation) : State :=
  let n := s.revSeq + 1
  let log := s.revLog ++ [(n, r)]
  { s with
    revLog := log.drop (log.length - 64)
    revs := s.revs.map fun (v : RevRun) => if v.rev = r then { v with seq := n } else v }

/-- A revocation issued in this module, or by a step of another one (R25, R28): it reaches every core of its scope; a gang scope reaches the
other modules too. One that starts here gets a number of its own. -/
def State.startRevocation (s : State) (q : Revocation) (u : CoreRef) (origin : Option Nat) : State :=
  let r := if origin = none then { q with id := s.module * 2 ^ 32 + s.nextRev % 2 ^ 32 } else q
  let cores := s.scopeCores r.scope u
  let mods := if r.scope = 5 ∧ origin = none then s.otherModules else []
  let s1 := { s with
    revs := s.revs ++ [RevRun.mk r cores cores 0 mods origin]
    nextRev := if origin = none then s.nextRev + 1 else s.nextRev }
  let s2 := mods.foldl (fun x m => x.sendPacket (coreNumber m (.lc 0)) (coreNumber x.module u) r.key 0 0 0 r.lo 0 (.revoke r)) s1
  let s3 := s2.pushAll (cores.map fun v => .revocationApply v r)
  let s4 := if cores = [] then s3.logRevocation r else s3
  if cores = [] ∧ mods = [] then s4.push (.revocationComplete r) else s4

/-- The contexts resident on a core. -/
def residents (u : CoreRef) : List Agent :=
  match u with
  | .lc c => (List.range 16).map (.thread c)
  | .dt j => [.bank j 0, .bank j 1]

/-- A command that a revocation stops (R25): one that reads or writes through a matching handle. -/
def stopCmd (r : Revocation) (c : CopyCmd) : CopyCmd := { c with stop := c.stop || c.handles.any (matchesRev r) }

/-- Whether a revocation's interval covers a byte of `n` bytes from `lo` on the owned alias, itself or by its striped alias (R13). -/
def revCovers (r : Revocation) (lo n : Nat) : Bool :=
  overlaps lo (lo + n - 1) r.lo r.hi ||
    (spaceOf r.lo = 1 && decide (n ≠ 0) && (List.range ((r.hi - r.lo) / 4096 + 2)).any fun i =>
      let a := max r.lo ((r.lo / 4096 + i) * 4096)
      let b := min r.hi ((r.lo / 4096 + i) * 4096 + 4095)
      decide (a ≤ b) && overlaps lo (lo + n - 1) (canon a) (canon a + (b - a)))

/-- A range loses its mapper, at its home (R70). -/
def State.loseMapper (s : State) (tok : Nat) : State :=
  { s with homes := { s.homes with ranges := s.homes.ranges.map fun (g : Range) =>
      if tok / 2 ^ 52 = s.module ∧ g.kind = bitsOf tok 51 50 ∧ g.home = bitsOf tok 49 41 ∧ g.entry = bitsOf tok 40 29 ∧ g.tag = bitsOf tok 15 0 ∧ g.mapper.isSome
        then { g with mapper := none, lost := true } else g } }

/-- A core loses the mappings that a test picks: their homes, here or on other modules, mark the ranges (R70). -/
def State.loseMappings (s : State) (c : Nat) (f : Mapping → Bool) : State :=
  let gone := (s.lp c).mappings.filter f
  let s1 := s.setLp c { s.lp c with mappings := (s.lp c).mappings.filter fun m => !f m }
  gone.foldl (fun x m =>
    let tok := m.token.toNat
    if tok / 2 ^ 52 = x.module then x.loseMapper tok
    else x.sendPacket (coreNumber (tok / 2 ^ 52) (.lc 0)) (coreNumber x.module (.lc c)) (x.lp c).key 0x36 0 0 0 0
      (.command (.thread c 0) 0x36 [tok, 3])) s1

/-- Whether a pending operation is still pending at its site, as far as its core can tell: while a commit is under way, the operations of this
module that have left their sites' lists have been applied (R277). -/
def State.stillPending (s : State) (a : Agent) (c : Ctx) (e : Nat × JEntry) : Bool :=
  !c.committing || moduleOf (hBase e.2.hval) ≠ s.module || s.homes.pending.any fun p => p.of (s.coreNo a) (s.coreKey a) a && p.jent = e.1

/-- One resident context meets a revocation: a thread with a pending operation issued through a matching handle rolls back, a walk under way notes it
(R26), and a handle that is still in flight to its register loses V (R176). -/
def State.revokeCtx (s : State) (r : Revocation) (a : Agent) : State :=
  match findAt s.ctxs (agentId a) with
  | none => s
  | some c =>
    let hit := c.wayOpen && c.journal.any fun e => e.2.held && matchesRev r e.2.hval && s.stillPending a c e
    let s1 := if hit then s.rollback a 0x04 else s
    let walks := s1.waitsFor a 0x26
    let s2 := s1.setCtx a { (s1.ctx a).revoke r with walkRevs := if walks then (s1.ctx a).walkRevs ++ [r] else (s1.ctx a).walkRevs }
    match a with
    | .thread _ _ => s2
    | .bank j b => s2.setDp j { s2.dp j with flights := (s2.dp j).flights.map fun f =>
        match f.reg with
        | .h _ => if f.bank = b ∧ matchesRev r (f.value.setWidth 128) = true then { f with value := (hClear (f.value.setWidth 128)).setWidth 4096 } else f
        | _ => f }

/-- The engines that hold commands to be stopped. -/
def State.stoppedEngines (s : State) (u : CoreRef) : List Instr :=
  let own := match u with
    | .lc c => if (s.lp c).copyQ.any (·.stop) then [Instr.copyBeat c] else []
    | .dt j => if (s.dp j).copyQ.any (·.stop) then [Instr.copyBeat (512 + j)] else []
  own ++ (s.edges.filter fun e => e.2.any (·.stop)).map fun e => Instr.copyBeat e.1

def execRevocationApply (u : CoreRef) (r : Revocation) (s : State) : Out :=
  let s1 := (residents u).foldl (fun x a => x.revokeCtx r a) s
  let s2 := s1.setTrans u ((s1.trans u).filter fun e =>
    !(e.key = r.key && overlaps (leafPage e.leaf) (leafPage e.leaf + 2 ^ e.lg - 1) r.lo r.hi))
  let s3 := match u with
    | .lc c => s2.setLp c { s2.lp c with copyQ := (s2.lp c).copyQ.map (stopCmd r) }
    | .dt j => s2.setDp j { s2.dp j with copyQ := (s2.dp j).copyQ.map (stopCmd r) }
  let s4 := { s3 with
    edges := s3.edges.map fun (e : Nat × List CopyCmd) => (e.1, e.2.map fun (c : CopyCmd) => if agentCore c.who = u then stopCmd r c else c)
    revs := s3.revs.map fun (v : RevRun) => if v.rev = r then { v with todo := v.todo.filter (· ≠ u) } else v }
  let s5 := match u with
    | .lc c => if (s4.lp c).key = r.key then s4.loseMappings c fun m => revCovers r m.lo m.len else s4
    | .dt _ => s4
  let s6 := if s5.revs.any fun v => v.rev = r && v.todo = [] && v.seq = 0 then s5.logRevocation r else s5
  .next ((s6.pushAll (s6.stoppedEngines u)).push (.revocationAck u r))

/-- Whether a handle's interval and key are those of a revocation, whatever its V has become since (R25). -/
def spansRev (r : Revocation) (h : BitVec 128) : Bool := hKey h = r.key && overlaps (hBase h) (hBase h + hLimit h) r.lo r.hi

/-- Whether a resident context has an access in flight through a matching handle, by the handle as it was read at issue: a posted operation that is
not answered, replies that are awaited, late accesses (R25). An operation pending under a waypoint is no access in flight. -/
def State.ctxBusy (s : State) (r : Revocation) (a : Agent) : Bool :=
  match findAt s.ctxs (agentId a) with
  | none => false
  | some c =>
    c.journal.any (fun e => (!e.2.held || c.committing) && matchesRev r e.2.hval) ||
    (match c.wait with
      | .replies _ => spansRev r (c.readH c.opnd.2)
      | _ => false) ||
    (match a with
      | .thread _ _ => false
      | .bank j b => (s.dp j).lates.any fun l => l.bank = b && matchesRev r l.hval)

/-- Whether bytes at an address lie in a revocation's interval. -/
def touchesRev (r : Revocation) (key pa n : Nat) : Bool := key = r.key && decide (n ≠ 0) && revCovers r (canon pa) n

/-- Whether core `u` has an access in flight through a matching handle: of a resident context, in the store buffer, in a line written back and not
accepted, or a beat of a copy command (R25). -/
def State.coreBusy (s : State) (u : CoreRef) (r : Revocation) : Bool :=
  let beat (c : CopyCmd) : Bool := (c.busy || c.got ≠ [] || decide (c.puts ≠ 0)) && c.handles.any (matchesRev r)
  (residents u).any (s.ctxBusy r) ||
  (match u with
    | .lc c => (s.lp c).sbuf.any (fun e => touchesRev r e.key e.pa e.data.length) ||
        (s.lp c).wb.any (fun w => touchesRev r (s.lp c).key (w.1 * 64) 64) || (s.lp c).copyQ.any beat
    | .dt j => (s.dp j).copyQ.any beat) ||
  s.edges.any (fun e => e.2.any fun c => agentCore c.who = u && beat c) ||
  s.homes.heldWrites.any (fun w => w.2.core = coreNumber s.module u && touchesRev r w.2.key w.2.pa w.2.len) ||
  s.homes.ranges.any (fun g => g.held.any fun q => q.core = coreNumber s.module u && touchesRev r q.key q.pa q.len)

/-- Whether a step that is due belongs to an access of core `u` that a revocation's acknowledgement waits for (R25). -/
def inFlight (m : Nat) (u : CoreRef) (r : Revocation) (i : Instr) : Bool :=
  let req (q : Request) : Bool := q.core = coreNumber m u && q.key = r.key && overlaps q.pa (q.pa + q.len - 1) r.lo r.hi
  let own (a : Agent) : Bool := agentCore a = u
  match i with
  | .homeRequest q => req q
  | .tileWindowAccess q => req q
  | .forwardedOperation _ _ q => req q
  | .replyWritten q => (match q.who with
    | .agent a => own a
    | _ => false)
  | .lateReplyArrival q => (match q.who with
    | .agent a => own a
    | _ => false)
  | .journalAck a _ => own a
  | .refusalArrival a _ _ _ => own a
  | _ => false

/-- One core, or one module, has acknowledged. -/
def State.ackRevocation (s : State) (r : Revocation) (f : RevRun → RevRun) : State :=
  match s.revs.find? (fun v => v.rev = r) with
  | none => s
  | some v =>
    let w := f v
    let s1 := { s with revs := s.revs.map fun x => if x = v then w else x }
    if w.cores = [] ∧ w.mods = [] then s1.push (.revocationComplete r) else s1

def execRevocationAck (u : CoreRef) (r : Revocation) (s : State) : Out :=
  .next (if s.agenda.any (inFlight s.module u r) || s.coreBusy u r then s.push (.revocationAck u r)
    else s.ackRevocation r fun v => { v with cores := v.cores.filter (· ≠ u) })

def execRevocationComplete (r : Revocation) (s : State) : Out :=
  -- the thread of a key that is switched out hears of it once it is back (R395)
  if s.keyOut r.key && (match r.who with
    | .agent _ => true
    | _ => false) then .next (s.push (.revocationComplete r)) else
  let run : Option RevRun := s.revs.find? fun v => v.rev = r
  let org := run.bind (·.origin)
  let s1 := { s with revs := s.revs.filter fun v => v.rev ≠ r }
  .next (match org, r.who with
    | some m, w => s1.sendPacket (coreNumber m (.lc 0)) (coreNumber s1.module (.lc 0)) r.key 0 0 0 0 0 (.done w 0x27 [r.key, r.lo, r.hi, r.scope, s1.module, r.id])
    | none, .agent a =>
      -- a DROP may have one revocation for each run of pages; one that stopped at a granule now raises its trap (R157)
      if s1.revs.any (fun v => v.rev.who = .agent a) then s1
      else if s1.waitsFor a 0x29 then
        (if (s1.ctx a).opnd.2 = 1#3 then s1.failStep a 0x29 { cause := 0x0A, tval := (s1.ctx a).opnd.1, tinfo := 5#64 }
         else s1.finish a 0x29)
      else s1.wake a 0x27
    | none, _ =>
      ({ s1 with regs := { s1.regs with
          rvBsy := false, rvDn := true, rvSeq := BitVec.ofNat 32 ((run.map fun (v : RevRun) => v.seq).getD s1.revSeq) } }).raiseVector 260)

/-- A module with an origin answers for its cores. -/
def execRevocationPortGo (control : Option Nat) (value : BitVec 64) (s : State) : Out :=
  let q := s.regs
  let scope := q.rvScope.toNat
  let bad := (scope ≠ 4 && scope ≠ 5) || q.rvBsy || (match control with
    | some key => key ≠ q.rvKey.toNat
    | none => false)
  .next (if value.getLsbD 0 = false then s
    else if bad then { s with regs := { q with rvEr := true } }
    else if q.rvLen = 0#64 then ({ s with regs := { q with rvDn := true } }).raiseVector 260
    else
      let r : Revocation := {
        key := q.rvKey.toNat
        lo := q.rvBase.toNat
        hi := min (q.rvBase.toNat + q.rvLen.toNat - 1) (2 ^ 64 - 1)
        scope := scope
        who := .host }
      ({ s with regs := { q with rvBsy := true } }).startRevocation r (.lc 0) none)

end Sys2Proof.Machine
end

