-- ==== Sys2Proof/Machine/Batch.lean ====
section
/-! DEFINITION. Copy batches: their records, states and reports (R148 to R150). -/

namespace Sys2Proof.Machine

/-- The agent of a context's index. -/
def agentOfId (i : Nat) : Agent := if i < 8192 then .thread (i / 16) (i % 16) else .bank ((i - 8192) / 2) ((i - 8192) % 2)

/-- What `holder` names (R149): the agent under whose slot the batches are recorded, and the thread's own number there. -/
def holderAgent (h : Nat) : Agent := agentOfId (h % 16384 - 1)
def holderOwner (h : Nat) : Nat := h / 16384

/-- The batch records of a core. -/
def State.batchesAt (s : State) (a : Agent) : List Batch :=
  match a with
  | .thread c _ => (s.lp c).batches
  | .bank j _ => (s.dp j).batches

def State.setBatches (s : State) (a : Agent) (bs : List Batch) : State :=
  match a with
  | .thread c _ => s.setLp c { s.lp c with batches := bs }
  | .bank j _ => s.setDp j { s.dp j with batches := bs }

/-- The newest record of a slot's batch number (R150: what a token names). -/
def findBatch (bs : List Batch) (slot n : Nat) : Option Batch :=
  bs.reverse.find? fun b => b.slot = slot && b.number = n

/-- The newest record of a thread's batch number. -/
def findOwn (bs : List Batch) (owner n : Nat) : Option Batch :=
  bs.reverse.find? fun b => b.owner = owner && b.number = n

/-- The newest record of a thread's batch number changed. -/
def mapOwn (bs : List Batch) (owner n : Nat) (f : Batch → Batch) : List Batch :=
  match bs with
  | [] => []
  | b :: rest =>
    if b.owner = owner ∧ b.number = n ∧ (findOwn rest owner n).isNone = true then f b :: rest
    else b :: mapOwn rest owner n f

/-- A batch that a thread no longer waits for (R149). -/
def Batch.finished (b : Batch) : Bool := b.state = 2 || b.state = 5 || (b.state = 3 && b.reported && b.left = 0)

/-- A record added; a slot keeps its last 64 (R150). One whose batch still runs is kept beyond that. -/
def addBatch (bs : List Batch) (b : Batch) : List Batch :=
  let mine := bs.filter fun x => x.slot = b.slot
  match (if 64 ≤ mine.length then mine.find? (·.finished) else none) with
  | some old => bs.erase old ++ [b]
  | none => bs ++ [b]

/-- The record of an agent's batch. -/
def State.batch (s : State) (a : Agent) (n : Nat) : Option Batch :=
  let h := (s.ctx a).holder
  if h = 0 then none else findOwn (s.batchesAt (holderAgent h)) (holderOwner h) n

/-- The record of a batch changed, by the agent it is recorded under, its owner and its number. -/
def State.mapBatchOf (s : State) (home : Agent) (owner n : Nat) (f : Batch → Batch) : State :=
  s.setBatches home (mapOwn (s.batchesAt home) owner n f)

def State.mapBatch (s : State) (a : Agent) (n : Nat) (f : Batch → Batch) : State :=
  let h := (s.ctx a).holder
  if h = 0 then s else s.mapBatchOf (holderAgent h) (holderOwner h) n f

/-- A task named by its entry and incarnation; on a dense tile by its bank. -/
def State.taskTag (s : State) (a : Agent) : Nat :=
  match a with
  | .thread c t => (s.slot c t).elim 0 fun x => x.task * 256 + (s.task a).inc % 256
  | .bank _ b => b

/-- An empty record of a batch. -/
def Batch.new (slot owner task number key : Nat) : Batch where
  slot := slot
  owner := owner
  task := task
  number := number
  key := key
  state := 0
  detail := 0
  cmd := 0
  isSealed := false
  reported := false
  left := 0
  tval := 0
  susp := none
  suspInfo := 0
  words := []

/-- A thread gets a number of its own, where it has none yet. -/
def State.giveHolder (s : State) (a : Agent) : State :=
  let c := s.ctx a
  if c.holder = 0 then { s.setCtx a { c with holder := s.nextCmd * 16384 + agentId a + 1 } with nextCmd := s.nextCmd + 1 } else s

/-- The record of the agent's open batch, made where there is none yet. -/
def State.needBatch (s : State) (a : Agent) : State :=
  let s1 := s.giveHolder a
  let c1 := s1.ctx a
  let h := holderAgent c1.holder
  let fresh : Bool := match s1.batch a c1.openBatch with
    | some b => b.isSealed
    | none => true
  if fresh then s1.setBatches h (addBatch (s1.batchesAt h) (Batch.new (agentSlot h) (holderOwner c1.holder) (s.taskTag a) c1.openBatch (s.key a))) else s1

/-- A batch with a suspension or failure to report (R148): a failure counts once every command has ended. -/
def Batch.toReport (b : Batch) : Bool := (b.state = 4 && !b.reported) || (b.state = 3 && !b.reported && b.left = 0)

/-- The status word (R150): a batch counts as failed only once every command of it has ended (R148). -/
def Batch.word (b : Batch) : Nat :=
  if b.state = 3 ∧ b.left ≠ 0 then bit b.isSealed
  else if b.state = 3 then b.cmd % 65536 * 65536 + b.detail % 256 * 256 + 3 else b.state

/-- The trap that reports a batch (R148). -/
def Batch.trap (b : Batch) : TrapInfo :=
  match b.state, b.susp with
  | 4, some x => { cause := x.cause, tval := BitVec.ofNat 64 x.tval, tinfo := BitVec.ofNat 64 (b.suspInfo + b.number * 65536) }
  | _, _ => {
    cause := 0x1B
    tval := BitVec.ofNat 64 (if b.detail = 7 then b.tval else b.number)
    tinfo := BitVec.ofNat 64 (b.detail % 256 + b.cmd % 65536 * 256) }

/-- The sealed batches of an agent that are not finished (R149). -/
def State.unfinished (s : State) (a : Agent) : List Nat :=
  (s.ctx a).sealedBatches.filter fun n => match s.batch a n with
    | some b => !b.finished
    | none => false

/-- The first of an agent's batches, sealed or open, that has something to report and passes a test. -/
def State.reportable (s : State) (a : Agent) (f : Batch → Bool) : Option Batch :=
  ((s.ctx a).sealedBatches ++ [(s.ctx a).openBatch]).findSome? fun n => match s.batch a n with
    | some b => if b.toReport && f b then some b else none
    | none => none

/-- The reported batch marked: a failure is reported once (R148). -/
def State.markReported (s : State) (a : Agent) (n : Nat) : State :=
  s.mapBatch a n fun x => { x with reported := true }

/-- A suspension or failure reported at the instruction that waits (R148), which issues again after the handler. On a dense tile the
report counts as made once its drain takes the trap. -/
def State.report (s : State) (b : Batch) : State :=
  match s.focus with
  | .thread _ _ => (s.markReported s.focus b.number).raise b.trap
  | .bank j _ =>
    let n := (s.dp j).traps.length
    let s1 := s.raise b.trap
    let p := s1.dp j
    s1.setDp j { p with traps := p.traps.take n ++ (p.traps.drop n).map fun t => { t with batch := some b.number } }

/-! ### Engines and their queues (R141, R142) -/

/-- Engines are numbered: lookup core i, 512 + tile j, 576 + 4 x die + edge engine. -/
def engineNo (u : CoreRef) : Nat :=
  match u with
  | .lc i => i
  | .dt j => 512 + j

/-- The commands that an engine performs: those of its core's queue that are not delegated, or those that an edge engine has accepted. -/
def State.copies (s : State) (unit : Nat) : List CopyCmd :=
  if unit < 512 then (s.lp unit).copyQ else if unit < 576 then (s.dp (unit - 512)).copyQ else getAt s.edges unit []

def State.setCopies (s : State) (unit : Nat) (cs : List CopyCmd) : State :=
  if unit < 512 then s.setLp unit { s.lp unit with copyQ := cs }
  else if unit < 576 then s.setDp (unit - 512) { s.dp (unit - 512) with copyQ := cs }
  else { s with edges := setAt s.edges unit cs }

/-- A command changed, by its identity. -/
def State.mapCopy (s : State) (unit id : Nat) (f : CopyCmd → CopyCmd) : State :=
  s.setCopies unit ((s.copies unit).map fun c => if c.id = id then f c else c)

/-- Every engine that may hold a command of a core. -/
def State.enginesOf (s : State) (u : CoreRef) : List Nat := engineNo u :: s.edges.map (·.1)

/-- Suspended batches that have been reported go on from their faulting beat (R148). -/
def State.resumeBatches (s : State) (a : Agent) (f : Batch → Bool) : State :=
  let hit (n : Nat) : Bool := match s.batch a n with
    | some b => b.state = 4 && b.reported && f b
    | none => false
  let ns := ((s.ctx a).sealedBatches ++ [(s.ctx a).openBatch]).filter hit
  if ns = [] then s
  else
    let s1 := ns.foldl (fun x n => x.mapBatch a n fun b => { b with state := if b.isSealed then 1 else 0, reported := false, susp := none }) s
    s1.pushAll ((s1.enginesOf (agentCore (holderAgent (s.ctx a).holder))).map .copyBeat)

end Sys2Proof.Machine
end

