-- ==== Sys2Proof/Machine/Mem.lean ====
section
/-! DEFINITION. Memory and synchronisation instructions through a handle (R260 to R277), and the steps by which their page
walks and line fills end. -/

namespace Sys2Proof.Machine

/-- The word of an instruction, for the causes whose tval is the word (R230). -/
def wordOf (i : Instr) : Word := (encode i).headD 0#32

/-- The offset of a format M operand (R221). -/
def State.mOffset (s : State) (a : BitVec 5) (i : BitVec 6) (size : Nat) : BitVec 64 := s.x a + BitVec.ofNat 64 (i.toNat * size)

/-- Whether an ordering acquires, or releases (R223). -/
def acquires (o : BitVec 2) : Bool := o.getLsbD 0
def releases (o : BitVec 2) : Bool := o.getLsbD 1

/-! ### Posted operations (R261, R262, R275) -/

/-- A posted operation that has passed its checks: it waits for a journal entry, takes it with `parts` parts still to be answered,
and leaves as `k` says with the entry's number. With a waypoint open, a journal filled by pending entries rolls the thread back
(R275). -/
def State.post (s : State) (top : Nat) (hnd : BitVec 3) (ofs : BitVec 64) (parts : Nat) (k : Nat → State → State) : State :=
  if journalFull s.cur then
    (if s.cur.wayOpen && s.cur.journal.all (fun e => e.2.held) then s.rollback s.focus 0x16 else s.again)
  else
    let (j, s1) := s.takeEntry top hnd ofs parts
    (k j s1).complete

/-- A posted operation through a handle: its entry keeps the handle as it is read now, and the bytes that it reaches (R25, R261). -/
def State.postVia (s : State) (top : Nat) (hnd : BitVec 3) (ofs : BitVec 64) (len parts : Nat) (k : Nat → State → State) : State :=
  s.post top hnd ofs parts fun j x => k j (x.noteHandle j (x.h hnd) len)

/-- A core gives up a line before an operation on it leaves for its site (R42). -/
def State.leaveLine (s : State) (pa : Nat) : State :=
  match s.focus with
  | .thread c _ => s.flushLine c (pa / 64)
  | .bank _ _ => s

/-- Lines given up before a remote operation on bytes of another module: it must not overtake a write-back of theirs that is not accepted yet, nor
an earlier posted operation of the thread (R42, R91, R104). -/
def State.afterLines (s : State) (ps : List (Nat × Nat)) (k : State → State) : State :=
  if ps.any (fun p => s.behindPosted p.1 p.2) then s.again
  else match s.focus with
    | .bank _ _ => k s
    | .thread c _ =>
      let away := ps.filter fun p => moduleOf p.1 ≠ s.module
      let t := away.foldl (fun x p => x.flushLine c (p.1 / 64)) s
      if away.any (fun p => (t.lp c).wb.any fun w => w.1 = p.1 / 64) then t.again else k t

/-- A request of the instruction in issue. -/
def State.requestOf (s : State) (op : ReqOp) (pa len : Nat) (data : List Byte) (d : Dest) (jent : Option Nat) (acq : Bool) : Request where
  who := .agent s.focus
  core := s.coreNo s.focus
  key := s.curKey
  op := op
  pa := pa
  len := len
  data := data
  dest := d
  jent := jent
  held := jent.isSome && s.cur.wayOpen
  acq := acq
  named := some (hBase (s.h s.cur.opnd.2) + s.cur.opnd.1.toNat)

/-- A request whose result the instruction in issue waits for (R162, R180): a late access on a dense tile, due at once where it acquires (R100; at
thread and core scope DEDUCED, log 98); `wide` for an acquire at a scope wider than core. -/
def State.awaitRequest (s : State) (m : BitVec 3) (o : BitVec 64) (op : ReqOp) (pa len : Nat) (data : List Byte) (d : Dest) (acq wide : Bool) : State :=
  (s.setCur { s.cur with opnd := (o, m), undo := none }).afterLines [(pa, len)] fun t =>
    let s0 := t.leaveLine pa
    let lat := match s.focus with
      | .bank j _ => if acq then 0 else s.scheduled j pa
      | .thread _ _ => 0
    (s0.sendRequest (s0.requestOf op pa len data d none wide)).await 1 lat d

/-- The release of an instruction in issue, then what follows it (R99). -/
def State.afterRelease (s : State) (needed wide : Bool) (k : State → State) : State :=
  if needed = false then k s
  else match s.releaseFor s.focus wide false with
    | (true, s1) => k s1
    | (false, s1) => s1.again

/-! ### Loads and stores (R263, R264) -/

def execLd (d : BitVec 5) (h : BitVec 3) (a : BitVec 5) (w : BitVec 3) (o : BitVec 2) (i : BitVec 6) (s : State) : Out :=
  let n := widthBytes w
  .next (s.loadVia h (s.mOffset a i n) n n (acquires o) (fun _ => .x d w) 4)

def execSt (d : BitVec 5) (h : BitVec 3) (a : BitVec 5) (w : BitVec 3) (o : BitVec 2) (i : BitVec 6) (s : State) : Out :=
  let n := widthBytes w
  .next (s.storeVia h (s.mOffset a i n) (natToBytes n (s.x d).toNat) n (releases o))

/-- A vector load in several parts keeps what its destination held, for a precise trap of a part (R350). -/
def State.keepVector (s : State) (d : BitVec 5) : State := s.setCur { s.cur with undo := some (d, s.v d) }

def execLdv (d : BitVec 5) (h : BitVec 3) (a : BitVec 5) (o : BitVec 2) (i : BitVec 6) (s : State) : Out :=
  let n := vectorBytes s.focus
  .next ((s.keepVector d).loadVia h (s.mOffset a i n) n 64 (acquires o) (fun k => .v d k) 6)

def execStv (d : BitVec 5) (h : BitVec 3) (a : BitVec 5) (o : BitVec 2) (i : BitVec 6) (s : State) : Out :=
  let n := vectorBytes s.focus
  .next (s.storeVia h (s.mOffset a i n) (natToBytes n (s.v d).toNat) 64 (releases o))

/-- A strided access before its checks: the lanes, their offsets as integers, and its lowest and highest byte (R264). -/
def State.strided (s : State) (a b : BitVec 5) (q : BitVec 3) (es : Nat) : List (Nat × Int) :=
  (s.activeLanes q (8 * es)).map fun i => (i, (s.x a).toNat + i * (s.x b).toInt)

/-- The checks of a strided access (R264); what follows them gets its lanes with their offsets. -/
def State.stridedChecked (s : State) (a : BitVec 5) (stride : Int) (m : BitVec 3) (es : Nat) (ls : List (Nat × Int)) (k : Access)
    (drop : Bool) (f : State → State) (dropped : BitVec 64 → State) : State :=
  let os := ls.map (·.2)
  match os.min?, os.max? with
  | some lo, some top =>
    let hi := top + es - 1
    if lo < 0 ∨ 2 ^ 64 ≤ hi then s.trap 0x05 (s.x a) m.toNat
    else if (s.x a).toNat % es ≠ 0 ∨ stride % es ≠ 0 then s.trap 0x07 (s.x a) m.toNat
    else match checkHandle s.cur.sup (s.h m) lo.toNat (hi - lo + 1).toNat 1 k drop with
      | some 0x0E => dropped (BitVec.ofInt 64 lo)
      | some c => s.handleTrap c (BitVec.ofInt 64 lo) m
      | none => f s
  | _, _ => s.complete

/-- The bank uses of a strided access: 64 elements an access cycle, in order (R47). -/
def State.stridedUses (s : State) (base : Nat) (ls : List (Nat × Int)) : List (Nat × Nat) :=
  ls.filterMap fun l => match s.siteOf (agentCore s.focus) (canon (base + l.2.toNat)) with
    | .own b => some (1 + l.1 / 64, b)
    | _ => none

/-- The latency of a strided load (R177). -/
def stridedLatency (es : Nat) : Nat := (512 / es + 63) / 64 + 5

def execLdvs (d a b : BitVec 5) (m q : BitVec 3) (e : BitVec 2) (s : State) : Out :=
  let es := 2 ^ e.toNat
  let ls := s.strided a b q es
  .next (s.stridedChecked a (s.x b).toInt m es ls .load true (fun t =>
    let base := hBase (t.h m)
    (t.keepVector d).loadCut m (BitVec.ofInt 64 ((ls.map (·.2)).min?.getD 0)) false (fun k => .v d k) (stridedLatency es) (t.stridedUses base ls)
      (ls.map fun l => (canon (base + l.2.toNat), es, l.1 * es))) (fun o => s.dropFlow m o))

def execStvs (d a b : BitVec 5) (m q : BitVec 3) (e : BitVec 2) (s : State) : Out :=
  let es := 2 ^ e.toNat
  let ls := s.strided a b q es
  .next (s.stridedChecked a (s.x b).toInt m es ls .store true (fun t =>
    let base := hBase (t.h m)
    t.storeCut m (BitVec.ofInt 64 ((ls.map (·.2)).min?.getD 0)) (t.stridedUses base ls)
      (ls.map fun l => ((canon (base + l.2.toNat), es, l.1 * es), natToBytes es (laneOf (t.v d) (8 * es) l.1))))
    (fun o => s.handleTrap 0x0E o m))

/-! ### Handles (R265 to R268) -/

/-- A page fault's tinfo with the slot on a dense tile (R370). -/
def State.faultInfo (a : Agent) (t slot : Nat) : Nat := if isDense a then t + 256 * slot else t

/-- A virtual handle written with the page it was translated from (R159, R265). -/
def Ctx.setHandle (c : Ctx) (d : BitVec 3) (h : BitVec 128) (page : Nat) : Ctx :=
  { c.writeH d h with hva := setAt c.hva d.toNat page }

def execTrns (d : BitVec 3) (a : BitVec 5) (s : State) : Out :=
  let va := s.x a
  let key := s.curKey
  let u := agentCore s.focus
  .next (match s.translate u key s.cur.sup va with
    | .hit e lg =>
      let s1 := s.setCur { s.cur with hva := setAt s.cur.hva d.toNat (va.toNat / 2 ^ lg * 2 ^ lg) }
      (s1.setH 4 d (leafHandle e lg key)).complete
    | r =>
      let noWalk : Bool := va.extractLsb' 48 16 ≠ 0#16 || !(s.part key).ptroot.getLsbD 63
      match noWalk, r, s.focus with
      | true, .fault t, .thread _ _ => s.trap 0x08 va t
      | true, .fault t, .bank j _ =>
        s.complete.trapLate s.focus { cause := 0x08, tval := va, tinfo := BitVec.ofNat 64 (t + 256 * s.bslot) } s.cur.pc s.bslot (s.dp j).vcc
      | _, _, _ => (((s.setCur { s.cur with walkRevs := [] }).count u 0x0006 1).awaitStep 0x26).push (.translationWalkComplete s.focus d va s.revSeq))

/-- A walk of TRNS ends (R22, R265). A revocation that its core has applied since it began clears V of its result (R26). -/
def execTranslationWalkComplete (who : Agent) (d : BitVec 3) (va : BitVec 64) (_start : Nat) (s : State) : Out :=
  let key := s.key who
  let u := agentCore who
  let put (t : State) (e : BitVec 64) (lg : Nat) : State :=
    let h := leafHandle e lg key
    let hit := (t.ctx who).walkRevs.any fun r => matchesRev r h
    (t.setCtx who { (t.ctx who).setHandle d (if hit then hClear h else h) (va.toNat / 2 ^ lg * 2 ^ lg) with walkRevs := [] }).finish who 0x26
  .next (if s.waitsFor who 0x26 = false then s
    else match s.translate u key (s.ctx who).sup va with
      | .hit e lg => put s e lg
      | .walked e lg => put ((s.countWalk key va.toNat).transLearn u key va.toNat e lg) e lg
      | .fault t => (s.countWalk key va.toNat).failStep who 0x26 { cause := 0x08, tval := va, tinfo := BitVec.ofNat 64 t })

def execTrnsPhys (d : BitVec 3) (a : BitVec 5) (r : BitVec 3) (l : BitVec 6) (s : State) : Out :=
  let lg := l.toNat
  let p := (s.x a).toNat
  .next (if lg < 6 ∨ 48 < lg then s.illegal (wordOf (.trnsPhys d a r l)) 0x00
    else if p % 2 ^ lg ≠ 0 then s.trap 0x07 (s.x a) d.toNat
    else match spaceLimit (spaceOf p) with
      | none => s.trap 0x05 (s.x a) d.toNat
      | some lim =>
        if lim < offsetOf p + 2 ^ lg then s.trap 0x05 (s.x a) d.toNat
        else if spaceOf p = 4 ∧ allReserved (offsetOf p) (2 ^ lg) = true then s.trap 0x05 (s.x a) d.toNat
        else
          let s1 := s.setCur { s.cur with hva := dropAt s.cur.hva d.toNat }
          (s1.setH 4 d (mkHandle false false r.toNat true lg s.curKey p)).complete)

def execHinv (a b : BitVec 5) (c : BitVec 4) (s : State) : Out :=
  .next (match s.resolveScope s.focus c.toNat with
    | none => s.illegal (wordOf (.hinv a b c)) 0x03
    | some k =>
      if k = 0 ∨ 6 ≤ k then s.illegal (wordOf (.hinv a b c)) 0x03
      else if s.x b = 0#64 then s.complete
      else
        let lo := (s.x a).toNat
        (s.awaitStep 0x27).startRevocation {
          key := s.curKey
          lo := lo
          hi := min (lo + (s.x b).toNat - 1) (2 ^ 64 - 1)
          scope := k
          who := .agent s.focus } (agentCore s.focus) none)

def execHop (d : BitVec 5) (n o : BitVec 3) (s : State) : Out :=
  let h := s.h n
  .next ((s.setX 1 d (match o.toNat with
    | 0 => h.extractLsb' 0 64
    | 1 => BitVec.ofNat 64 (hLimit h)
    | _ => (h.extractLsb' 96 32).setWidth 64)).complete)

/-- The granules that DROP drops, from a virtual address on (R157): the state, the pages dropped, and where it stopped. -/
def State.dropGranules (s : State) (key va n : Nat) : State × List Nat × Option Nat :=
  match n with
  | 0 => (s, [], none)
  | k + 1 =>
    match (if va < 2 ^ 48 then s.walk key va else .stop 0 false) with
    | .leaf e 16 pa _ =>
      if pteO e then
        let s1 := s.writeNat (canon pa) 8 (e ||| (1#64 <<< 57)).toNat
        let (s2, ps, x) := s1.dropGranules key (va + 65536) k
        (s2, leafPage e :: ps, x)
      else (s, [], some va)
    | _ => (s, [], some va)

/-- The page runs that DROP revokes: one revocation over the span of the dropped pages of a run. -/
def pageRuns (ps : List Nat) : List (Nat × Nat) :=
  match ps with
  | [] => []
  | p :: rest =>
    match pageRuns rest with
    | (lo, hi) :: more => if lo = p + 65536 then (p, hi) :: more else (p, p + 65535) :: (lo, hi) :: more
    | [] => [(p, p + 65535)]

def execDrop (a b : BitVec 5) (s : State) : Out :=
  let va := (s.x a).toNat
  let n := (s.x b).toNat
  .next (if va % 65536 ≠ 0 then s.trap 0x07 0#64 0
    else if 65536 < n then s.trap 0x0A 0#64 3
    else if n = 0 then s.complete
    else
      let (s1, ps, stop) := s.dropGranules s.curKey va n
      match ps, stop with
      | [], some v => s.trap 0x0A (BitVec.ofNat 64 v) 5
      | _, _ =>
        let o : BitVec 64 × BitVec 3 := match stop with
          | some v => (BitVec.ofNat 64 v, 1#3)
          | none => (0#64, 0#3)
        let s2 := (s1.setCur { s1.cur with opnd := o }).awaitStep 0x29
        (pageRuns ps).foldl (fun x r => x.startRevocation {
          key := x.key s.focus
          lo := r.1
          hi := r.2
          scope := 4
          who := .agent s.focus } (agentCore s.focus) none) s2)

/-! ### Atomics and remote operations (R269 to R271) -/

/-- Release, then a request for a result, then acquire: AMO and CAS (R92, R269). -/
def State.atomic (s : State) (i : Instr) (m : BitVec 3) (a : BitVec 5) (o : BitVec 2) (n : Nat) (op : ReqOp) (data : List Byte) (k : Access)
    (d : Option Dest) (top : Nat) : State :=
  let ofs := s.x a
  match checkHandle s.cur.sup (s.h m) ofs.toNat n n k true with
  | some c => s.handleTrap c ofs m
  | none =>
    let pa := canon (hBase (s.h m) + ofs.toNat)
    if spaceOf pa = 6 then s.illegal (wordOf i) 0x02
    else s.afterRelease (releases o) (s.wideScope s.focus) fun t =>
      match d with
      | some dst => t.awaitRequest m ofs op pa n data dst (acquires o) (acquires o && t.wideScope t.focus)
      | none => (t.setCur { t.cur with opnd := (ofs, m) }).afterLines [(pa, n)] fun u => u.postVia top m ofs n 1 fun j x =>
          (x.leaveLine pa).sendRequest (x.requestOf op pa n data .none (some j) false)

/-- The width code of an atomic's result: sign-extended (R269). -/
def atomicWidth (z : BitVec 1) : BitVec 3 := if z = 0#1 then 2#3 else 3#3

def execAmo (d a b : BitVec 5) (m : BitVec 3) (o : BitVec 2) (z : BitVec 1) (f : BitVec 3) (s : State) : Out :=
  let n := 4 * 2 ^ z.toNat
  .next (s.atomic (.amo d a b m o z f) m a o n (.amo f (d ≠ 0#5)) (natToBytes n (s.x b).toNat) (if d = 0#5 then .acc else .amor)
    (if d = 0#5 then none else some (.x d (atomicWidth z))) 0x2A)

def execCas (d a b : BitVec 5) (m : BitVec 3) (o : BitVec 2) (z : BitVec 1) (s : State) : Out :=
  let n := 4 * 2 ^ z.toNat
  .next (s.atomic (.cas d a b m o z) m a o n (.cas ((s.x d).toNat % 2 ^ (8 * n))) (natToBytes n (s.x b).toNat) .amor
    (some (.x d (atomicWidth z))) 0x2B)

def execRst (d : BitVec 5) (h : BitVec 3) (a : BitVec 5) (w : BitVec 3) (o : BitVec 2) (i : BitVec 6) (s : State) : Out :=
  let n := widthBytes w
  let ofs := s.mOffset a i n
  .next (match checkHandle s.cur.sup (s.h h) ofs.toNat n n .store true with
    | some c => s.handleTrap c ofs h
    | none =>
      let pa := canon (hBase (s.h h) + ofs.toNat)
      s.afterRelease (releases o) (s.wideScope s.focus) fun t =>
        (t.setCur { t.cur with opnd := (ofs, h) }).afterLines [(pa, n)] fun u => u.postVia 0x2D h ofs n 1 fun j x => (x.leaveLine pa).sendRequest (x.requestOf .store pa n (natToBytes n (x.x d).toNat) .none (some j) false))

def execRld (d : BitVec 5) (h : BitVec 3) (a : BitVec 5) (w : BitVec 3) (o : BitVec 2) (i : BitVec 6) (s : State) : Out :=
  let n := widthBytes w
  let ofs := s.mOffset a i n
  .next (match checkHandle s.cur.sup (s.h h) ofs.toNat n n .load true with
    | some 0x0E => s.dropFlow h ofs
    | some c => s.handleTrap c ofs h
    | none =>
      s.awaitRequest h ofs .load (canon (hBase (s.h h) + ofs.toNat)) n [] (.x d w) (acquires o)
        (acquires o && s.wideScope s.focus))

/-- Bytes of lanes in a piece of a remote accumulate, with the mask of those that take part. -/
def pieceLanes (es lo n : Nat) (ls : List (Nat × Nat × Nat)) : List Byte × List Bool :=
  let at' (b : Nat) : Option Byte := ls.findSome? fun l =>
    if l.2.1 ≤ lo + b ∧ lo + b < l.2.1 + es then some (BitVec.ofNat 8 (l.2.2 / 2 ^ (8 * (lo + b - l.2.1)))) else none
  ((List.range n).map fun b => (at' b).getD 0#8, (List.range n).map fun b => (at' b).isSome)

/-- The bytes of an element of RADD's format (R270). -/
def raddBytes (t : BitVec 2) : Nat := if t = 0#2 then 4 else 2

/-- RADD's memory form: the checks of R24, in their order, over the span of its active lanes (R261, R270). -/
def execRadd (d a : BitVec 5) (m : BitVec 3) (t : BitVec 2) (q : BitVec 3) (s : State) : Out :=
  let es := raddBytes t
  let is := s.activeLanes q (8 * es)
  let x0 := (s.x a).toNat
  .next (match is.min?, is.max? with
    | some i0, some i1 =>
      let lo := x0 + i0 * es
      let n := (i1 - i0 + 1) * es
      match checkHandle s.cur.sup (s.h m) lo n es .acc true with
      | some c => s.handleTrap c (BitVec.ofNat 64 lo) m
      | none =>
        let base := hBase (s.h m)
        let lanes := is.map fun i => (i, x0 + i * es, laneOf (s.v d) (8 * es) i)
        let ps := (pieces base lo n).filter fun p => (pieceLanes es (lo + p.2.2) p.2.1 lanes).2.any id
        if spaceOf base = 6 then s.illegal (wordOf (.radd d a m t q)) 0x02
        else (s.setCur { s.cur with opnd := (s.x a, m) }).afterLines (ps.map fun p => (p.1, p.2.1)) fun x =>
          x.postVia 0x2C m (x.x a) (lo - x0 + n) ps.length fun j y => ps.foldl (fun z p =>
            let (bs, mk) := pieceLanes es (lo + p.2.2) p.2.1 lanes
            (z.leaveLine p.1).sendRequest { z.requestOf (.radd t) p.1 p.2.1 bs .none (some j) false with mask := mk }) y
    | _, _ => s.complete)

/-! ### FENCE (R98, R272) -/

def execFence (k : BitVec 8) (c : BitVec 4) (s : State) : Out :=
  .next (match s.resolveScope s.focus c.toNat with
    | none => s.illegal (wordOf (.fence k c)) 0x03
    | some sc =>
      let before := k.getLsbD 0 || k.getLsbD 1
      let after := k.getLsbD 2 || k.getLsbD 3
      let wide := decide (1 < sc)
      if (before && after) = false then s.complete
      else
        let (done, s1) := if k.getLsbD 1 then s.releaseFor s.focus wide (k.getLsbD 4) else s.releaseFor s.focus false false
        if done = false then s1.again
        else (s1.acquireFor s1.focus (wide && k.getLsbD 2)).complete)

/-! ### Milestone words (R273) -/

/-- A milestone operand checked (R106, R261): what follows gets its address. -/
def State.milestoneVia (s : State) (m : BitVec 3) (a : BitVec 5) (k : Access) (f : Nat → State) : State :=
  let ofs := s.x a
  match checkHandle s.cur.sup (s.h m) ofs.toNat 16 16 k true with
  | some 0x0E => if k = .load then s.dropFlow m ofs else s.handleTrap 0x0E ofs m
  | some c => s.handleTrap c ofs m
  | none =>
    let pa := hBase (s.h m) + ofs.toNat
    if milestoneSpace pa = false then s.handleTrap 0x06 ofs m
    else if s.pieceBad (agentCore s.focus) (pa, 16, 0) then s.trap 0x05 ofs m.toNat
    else f pa

/-- Whether a word lies in the agent's own tile memory. -/
def State.ownWord (s : State) (pa : Nat) : Bool :=
  match s.siteOf (agentCore s.focus) pa with
  | .own _ => true
  | _ => false

def execMsarm (a b : BitVec 5) (m : BitVec 3) (r : BitVec 1) (s : State) : Out :=
  let n := (s.x b).toNat
  .next (s.milestoneVia m a .store fun pa =>
    if 0xFFFFFFFFFF < n then s.trap 0x0B (s.x a) m.toNat
    else if s.ownWord pa then
      (match (s.milestone pa).arm n (r = 1#1) with
        | none => s.trap 0x0B (s.x a) m.toNat
        | some w => (s.setMilestone pa w).complete)
    else s.awaitRequest m (s.x a) (.msarm n (r = 1#1)) pa 16 [] (.x 0#5 3#3) false false)

def execMspost (a b : BitVec 5) (m : BitVec 3) (s : State) : Out :=
  let n := min (s.x b).toNat 0xFFFFFFFFFF
  .next (s.milestoneVia m a .store fun pa =>
    s.afterRelease true (s.wideScope s.focus) fun t =>
      (t.setCur { t.cur with opnd := (s.x a, m) }).postVia 0x32 m (s.x a) 16 1 fun j x => x.sendRequest (x.requestOf (.contribute n) pa 16 [] .none (some j) false))

/-- The first of the thread's batches that names a word and has a suspension or failure to report (R148, R273). -/
def State.wordReport (s : State) (pa : Nat) : Option Batch := s.reportable s.focus fun b => b.words.contains pa

/-- The generation of a word observed: an acquire (R100, R109). -/
def State.observe (s : State) (d : BitVec 5) (gen : Nat) : State :=
  ((s.setX 4 d (BitVec.ofNat 64 gen)).acquireFor s.focus true).complete

/-- A thread that has asked for a word's generation waits for one that reaches `g`. -/
def State.seek (s : State) (pa g : Nat) : State :=
  match s.cur.wait with
  | .replies _ => s.setCur { s.cur with want := some (pa, g) }
  | _ => s

def execMswait (d a b : BitVec 5) (m : BitVec 3) (s : State) : Out :=
  let g := (s.x b).toNat % 2 ^ 32
  .next (s.milestoneVia m a .load fun pa =>
    match s.wordReport pa with
    | some r => s.report r
    | none =>
      let t := s.resumeBatches s.focus fun r => r.words.contains pa
      if t.ownWord pa = false then
        -- the word's site checks the access and answers with the generation as it finds it (R14, R63, R109)
        (match t.focus with
          | .thread _ _ => (t.awaitRequest m (s.x a) .generation pa 16 [] (.x d 6#3) true true).seek pa g
          | .bank j _ =>
            let u := t.awaitRequest m (s.x a) .generation pa 16 [] (.x d 6#3) true true
            u.setDp j { u.dp j with lates := (u.dp j).lates.map fun l =>
              if l.slot = t.bslot ∧ l.dest = .x d 6#3 ∧ l.issued = (t.dp j).vcc then { l with want := some (pa, g) } else l })
      else if t.poisoned (canon pa) 16 then t.consumePoison t.focus
      else if reaches (t.milestone pa).gen g then t.observe d (t.milestone pa).gen
      else t.setCur { t.cur with wait := .sleepMilestone pa g })

def execMstest (d a : BitVec 5) (m : BitVec 3) (s : State) : Out :=
  .next (s.milestoneVia m a .load fun pa =>
    match s.wordReport pa with
    | some r => s.report r
    | none =>
      if s.ownWord pa then
        (if s.poisoned (canon pa) 16 then s.consumePoison s.focus else s.observe d (s.milestone pa).gen)
      else s.awaitRequest m (s.x a) .generation pa 16 [] (.x d 6#3) true true)

/-! ### Waypoints (R275, R361, R362) -/

def execWpb (d : BitVec 5) (s : State) : Out :=
  let c := s.cur
  .next (if c.wayOpen then s.illegal (wordOf (.wpb d)) 0x0A
    else
      let k : Checkpoint := {
        pc := c.pc + 4#48
        sup := c.sup
        x := c.x
        v := c.v
        k := c.k
        h := c.h
        loops := c.loops
        mflags := c.mflags
        ascope := c.ascope
        cbko := c.cbko
        src := c.src }
      (s.setCur ({ c with checkpoint := some k, wayOpen := true, committing := false, wayDest := d } : Ctx)).setX 1 d 0#64 |>.complete)

/-- Whether an operation of the agent that is to be pending has not been acknowledged as held by its site (R361). -/
def State.onTheWay (s : State) (a : Agent) : Bool := (s.ctx a).journal.any fun e => e.2.held && decide (e.2.atSite < e.2.parts)

def execWpc (s : State) : Out :=
  let c := s.cur
  .next (if c.wayOpen = false then s.illegal (wordOf .wpc) 0x0A
    else if c.journal.any (fun e => e.2.held) then
      (if s.onTheWay s.focus then s.again
       else
        let s0 := s.setCur { c with committing := true, wait := .completion 0x3A }
        let s1 := ({ s0 with homes := { s0.homes with commits := s0.homes.commits ++ [(s0.focus, s0.coreNo s0.focus, s0.coreKey s0.focus)] } }).push
          (.waypointCommitApply s.focus)
        s1.otherModules.foldl (fun x m => x.sendPacket (coreNumber m (.lc 0)) (x.coreNo s.focus) x.curKey 0x3A 0 0 0 0 (.commit s.focus)) s1)
    else s.afterRelease true (s.wideScope s.focus) fun t =>
      (t.setCur { t.cur with wayOpen := false, committing := false, checkpoint := none }).complete)

/-! ### Line locks (R44, R45, R276) -/

def maxLineLocks : Nat := 15

def execPfl (d : BitVec 5) (h : BitVec 3) (a : BitVec 5) (i : BitVec 6) (s : State) : Out :=
  let ofs := s.mOffset a i 64
  .next (match checkHandle s.cur.sup (s.h h) ofs.toNat 1 1 .load true with
    | some 0x0E => s.dropFlow h ofs
    | some c => s.handleTrap c ofs h
    | none =>
      let pa := canon (hBase (s.h h) + ofs.toNat)
      let line := pa / 64
      match s.focus with
      | .bank _ _ => s.complete
      | .thread c _ =>
        let u := CoreRef.lc c
        let bad (n : Nat) : State := ((s.count u 0x0005 1).setX 1 d (BitVec.ofNat 64 n)).complete
        let lockIt (t : State) : State := (t.setCur { t.cur with locks := t.cur.locks ++ [line] }).setX 1 d 0#64 |>.complete
        if cachedSpace (spaceOf pa) = false then bad 1
        else if maxLocks ≤ s.cur.locks.length then bad 3
        else match l1Find (s.lp c) line with
          | some l =>
            if l.lock < maxLineLocks then lockIt (s.setLp c (l1Put (s.lp c) { l with lock := l.lock + 1 })) else bad 2
          | none =>
            match s.makeRoom c line with
            | (none, _) => bad 4
            | (some w, t) =>
              let t1 := t.setLp c (l1Put (t.lp c) (L1Line.mk w line 0#64 0#64 0#16 1 0#512 true false))
              lockIt (t1.sendRequest (t1.requestOf (.fill 0 0) (line * 64) 64 [] .none none false)))

def execPlu (h : BitVec 3) (a : BitVec 5) (i : BitVec 6) (s : State) : Out :=
  let ofs := s.mOffset a i 64
  .next (match checkHandle s.cur.sup (s.h h) ofs.toNat 1 1 .load true with
    | some 0x0E => s.dropFlow h ofs
    | some c => s.handleTrap c ofs h
    | none =>
      let line := canon (hBase (s.h h) + ofs.toNat) / 64
      match s.focus with
      | .bank _ _ => s.complete
      | .thread c _ =>
        if s.cur.locks.contains line then
          let s1 := s.setCur { s.cur with locks := s.cur.locks.erase line }
          let p := s1.lp c
          (s1.setLp c { p with l1 := (p.l1.map fun l => if l.line = line then { l with lock := l.lock - 1 } else l).filter fun l =>
            l.valid ≠ 0#64 || l.lock ≠ 0 }).complete
        else s.complete)

/-- The fill of a PFL comes (R44): a line that its home marks no-allocate is discarded with its locks; one that has been invalidated or cleared since
stays allocated without it (R41, R42). -/
def execPflFillArrival (core line : Nat) (data : List Byte) (noAlloc : Bool) (s : State) : Out :=
  .next (match l1Find (s.lp core) line with
    | none => s
    | some l =>
      if noAlloc then s.dropLine core l
      else if data = [] ∨ l.filling = false then s.setLp core (l1Put (s.lp core) { l with filling := false })
      else s.setLp core (l1Put (s.lp core) { l with valid := BitVec.allOnes 64, data := l.merge data, filling := false, poison := l.poison && l.dirty ≠ 0#64 }))

end Sys2Proof.Machine
end

