-- ==== Sys2Proof/Machine/Vec.lean ====
section
/-! DEFINITION. Vector instructions (R297 to R315). -/

namespace Sys2Proof.Machine

/-- The latency of an arithmetic instruction of a type on a dense tile (R177, R301). -/
def arithLatency (t : BitVec 3) : Nat := if isFloatType t then 4 else 2

/-- A type code that the instruction does not take (R301, kind 0). -/
def State.typeTrap (s : State) (i : Instr) (t : BitVec 3) : State := s.vecType 0 t.toNat ((wordOf i).setWidth 64)

/-! ### Arithmetic (R303, R304) -/

/-- A two-operand instruction: `ints` on integer lanes, `floats` on floating values with the random bits of the lane. -/
def State.arith2 (s : State) (d a b : BitVec 5) (t q v : BitVec 3) (ints : Nat → Nat → Nat → Res) (floats : Nat → Nat → Nat → Nat → Res) : State :=
  let w := elemBits t
  let x (i : Nat) : Nat := laneOf (s.v a) w i
  let y (i : Nat) : Nat := laneOf (s.v b) w i
  let n := formatNo t
  s.lanewise (arithLatency t) d t q (modeOf t v) (nanFormats v.toNat n n n) fun i =>
    if isFloatType t then floats v.toNat (s.laneBits i) (x i) (y i) else ints w (x i) (y i)

/-- A floating operation of two operands, rounded once. -/
def float2 (t : BitVec 3) (op : Nat → Val → Val → Exact) (rm rnd x y : Nat) : Res :=
  let f := floatOf t
  (op rm (f.decode x) (f.decode y)).round f rm rnd

def execVadd (d a b : BitVec 5) (t q v : BitVec 3) (s : State) : Out :=
  .next (s.arith2 d a b t q v (fun w => satLane w v.toNat (· + ·)) (float2 t addVal))

def execVsub (d a b : BitVec 5) (t q v : BitVec 3) (s : State) : Out :=
  .next (s.arith2 d a b t q v (fun w => satLane w v.toNat (· - ·)) (float2 t fun rm x y => addVal rm x y.flip))

def execVmul (d a b : BitVec 5) (t q v : BitVec 3) (s : State) : Out :=
  .next (s.arith2 d a b t q v (fun w => mulLane w v.toNat) (float2 t fun _ x y => mulVal x y))

def execVdiv (d a b : BitVec 5) (t q v : BitVec 3) (s : State) : Out :=
  .next (s.arith2 d a b t q v
    (fun w x y => { code := (divRem w (v = 0#3) x y).1, flags := if (divRem w (v = 0#3) x y).2.2 then flagDZ else 0 })
    (float2 t fun _ x y => divVal x y))

/-- x * y + z on lanes of `w` bits: exact, then wrapped or saturated (R303). -/
def fmaLane (w v x y z : Nat) : Res :=
  match v with
  | 1 => { code := codeOf w (clamp (intLo true w) (intHi true w) (signedOf w x * signedOf w y + signedOf w z)).1 }
  | 2 => { code := codeOf w (clamp 0 (intHi false w) ((x * y + z : Nat) : Int)).1 }
  | _ => { code := (x * y + z) % 2 ^ w }

def execVfma (d a b : BitVec 5) (t q v : BitVec 3) (s : State) : Out :=
  let w := elemBits t
  let f := floatOf t
  let n := formatNo t
  .next (s.lanewise (arithLatency t) d t q (modeOf t v) (nanFormats v.toNat n n n) fun i =>
    let x := laneOf (s.v a) w i
    let y := laneOf (s.v b) w i
    let z := laneOf (s.v d) w i
    if isFloatType t then (fmaVal v.toNat (f.decode x) (f.decode y) (f.decode z)).round f v.toNat (s.laneBits i)
    else fmaLane w v.toNat x y z)

/-- The smaller or larger of two lanes. -/
def minMaxInt (w : Nat) (isMax signed : Bool) (x y : Nat) : Nat :=
  let less := if signed then decide (signedOf w x < signedOf w y) else decide (x < y)
  if less = isMax then y else x

def State.minMax (s : State) (isMax : Bool) (d a b : BitVec 5) (t q v : BitVec 3) : State :=
  s.arith2 d a b t q v (fun w x y => { code := minMaxInt w isMax (v = 0#3) x y })
    (fun _ _ x y => { code := minMaxFloat (floatOf t) isMax x y })

def execVmin (d a b : BitVec 5) (t q v : BitVec 3) (s : State) : Out := .next (s.minMax false d a b t q v)
def execVmax (d a b : BitVec 5) (t q v : BitVec 3) (s : State) : Out := .next (s.minMax true d a b t q v)

/-- VNEG of an integer lane (R303): 0 negates, 1 negates and saturates, 2 takes the absolute value, 3 saturates it. -/
def negLane (w v x : Nat) : Nat :=
  let i := signedOf w x
  match v with
  | 0 => codeOf w (-i)
  | 1 => codeOf w (clamp (intLo true w) (intHi true w) (-i)).1
  | 2 => codeOf w i.natAbs
  | _ => codeOf w (clamp (intLo true w) (intHi true w) i.natAbs).1

/-- A floating lane with its sign inverted; a NaN gives the default NaN (R304). -/
def negFloat (f : FloatFmt) (x : Nat) : Nat :=
  if (f.decode x).isNan then f.nanCode else if f.signBit ≤ x then x - f.signBit else x + f.signBit

def execVneg (d a : BitVec 5) (t q v : BitVec 3) (s : State) : Out :=
  let w := elemBits t
  .next (s.lanewise (arithLatency t) d t q 0 (nanFormats 0 (formatNo t) 0x1F (formatNo t)) fun i =>
    let x := laneOf (s.v a) w i
    { code := if isFloatType t then negFloat (floatOf t) x else negLane w v.toNat x })

/-- The scaling of VSCA, where a number beyond every format's range acts like any other beyond it. -/
def scaleBy (x : Val) (n : Int) : Val := scaleVal x (clamp (-1000) 1000 n).1

/-- The signed integer format of a type's width (R119, R304). -/
def widthFormat (t : BitVec 3) : Nat := if t = 4#3 then 2 else 1

def execVsca (d a b : BitVec 5) (t q v : BitVec 3) (s : State) : Out :=
  let w := elemBits t
  let f := floatOf t
  let n := formatNo t
  .next (if isFloatType t = false then s.typeTrap (.vsca d a b t q v) t
    else s.lanewise 4 d t q v.toNat (nanFormats v.toNat n (widthFormat t) n) fun i =>
      let x := f.decode (laneOf (s.v a) w i)
      let z := f.decode (laneOf (s.v d) w i)
      (addVal v.toNat z (scaleBy x (signedOf w (laneOf (s.v b) w i)))).round f v.toNat (s.laneBits i))

/-! ### Compares, selects, logic and shifts (R305 to R307) -/

/-- The predicate bits that a lane covers. -/
def lanePred (w i : Nat) : Nat := (2 ^ (w / 16) - 1) * 2 ^ (i * w / 16)

def execVcmp (d : BitVec 3) (a b : BitVec 5) (t q f : BitVec 3) (s : State) : Out :=
  let w := elemBits t
  .next (if t = 0#3 then s.typeTrap (.vcmp d a b t q f) t
    else
      let ls := s.activeLanes q w
      let holds (i : Nat) : Bool :=
        let x := laneOf (s.v a) w i
        let y := laneOf (s.v b) w i
        if isFloatType t then cmpFloat f.toNat ((floatOf t).decode x) ((floatOf t).decode y) else cmpInt w f.toNat x y
      let bits (js : List Nat) : BitVec 256 := BitVec.ofNat 256 (js.foldl (fun m i => m + lanePred w i) 0)
      (s.setK 2 d (bits (ls.filter holds)) (bits ls)).complete)

def execVsel (d a b : BitVec 5) (t q : BitVec 3) (s : State) : Out :=
  let w := elemBits t
  .next (s.lanewise 2 d t 0#3 0 0#64 fun i => { code := laneOf (if s.allows q w i then s.v a else s.v b) w i })

/-- A bitwise instruction. -/
def State.bitwise (s : State) (d a b : BitVec 5) (t q : BitVec 3) (op : BitVec 4096 → BitVec 4096 → BitVec 4096) : State :=
  s.lanewise 2 d t q 0 0#64 fun i => { code := laneOf (op (s.v a) (s.v b)) (elemBits t) i }

def execVand (d a b : BitVec 5) (t q : BitVec 3) (s : State) : Out := .next (s.bitwise d a b t q (· &&& ·))
def execVor (d a b : BitVec 5) (t q : BitVec 3) (s : State) : Out := .next (s.bitwise d a b t q (· ||| ·))
def execVxor (d a b : BitVec 5) (t q : BitVec 3) (s : State) : Out := .next (s.bitwise d a b t q (· ^^^ ·))

def execVshf (d a b : BitVec 5) (t q : BitVec 3) (f : BitVec 2) (s : State) : Out :=
  let w := elemBits t
  .next (if isFloatType t then s.typeTrap (.vshf d a b t q f) t
    else s.lanewise 2 d t q 0 0#64 fun i =>
      let n := laneOf (s.v b) w i % w
      let x := laneOf (s.v a) w i
      { code := if n = 0 then x else shiftBits w f.toNat n x })

/-! ### Conversions (R308, R309) -/

/-- Rounded to the lane count of a destination of `wd` bits, the counter moves on under the stochastic mode (R133). -/
def State.drawsFor (s : State) (rm wd : Nat) : State :=
  if rm = 4 then s.drawn (laneCount (vectorBytes s.focus) wd) else s

def execVcvt (d a : BitVec 5) (x y : BitVec 4) (q r : BitVec 3) (s : State) : Out :=
  .next (match cvtFmt x.toNat, cvtFmt y.toNat with
    | none, _ => s.vecType 1 x.toNat ((wordOf (.vcvt d a x y q r)).setWidth 64)
    | _, none => s.vecType 1 y.toNat ((wordOf (.vcvt d a x y q r)).setWidth 64)
    | some f, some g =>
      let wide := max f.width g.width
      let rs := (s.activeLanes q wide).map fun i =>
        (i, convert f g r.toNat (s.laneBits i) (laneOf (s.v a) f.width i))
      (s.drawsFor r.toNat g.width).vecDone 4 d g.width rs (nanFormats r.toNat y.toNat 0x1F x.toNat))

/-- The floating side of VPACK and VUNPK: its type code (R309). -/
def packType (c : BitVec 2) : BitVec 3 := BitVec.ofNat 3 (c.toNat + 4)

/-- Whether the floating side is a pair of registers (R309). -/
def packPair (a : Agent) (c : BitVec 2) : Bool := c = 0#2 && !isDense a

/-- The elements of the floating side (R309). -/
def packCount (a : Agent) (c : BitVec 2) : Nat := if isDense a then (if c = 0#2 then 128 else 256) else 32

/-- The register and lane of element `i` of the floating side. -/
def packPlace (a : Agent) (c : BitVec 2) (r : BitVec 5) (i : Nat) : BitVec 5 × Nat :=
  if packPair a c then (r + BitVec.ofNat 5 (i / 16), i % 16) else (r, i)

/-- The element codes packed `w` bits each. -/
def packBits (w : Nat) (cs : List Nat) : BitVec 4096 :=
  BitVec.ofNat 4096 (((List.range cs.length).map fun i => cs.getD i 0 % 2 ^ w * 2 ^ (w * i)).foldl (· + ·) 0)

/-- The conversion of the blocks of VPACK: scales, element codes, flags and the lane of the first produced NaN (R130, R309). -/
def packBlocks (p : PackFmt) (rm : Nat) (rnd : Nat → Nat) (vs : List Val) : Nat × List Nat × Nat × Option Nat :=
  match p with
  | .i4 =>
    let rs := (List.range vs.length).map fun i => toInt true 4 rm (rnd i) (vs.getD i .nan)
    (0, rs.map (·.code), rs.foldl (fun f r => f ||| r.flags) 0, none)
  | .mx _ emax => go emax
  | .mxi8 => go 0
where
  go (emax : Nat) : Nat × List Nat × Nat × Option Nat :=
    let bs := (List.range (vs.length / 32)).map fun j => (j, toMx p emax rm (fun i => rnd (32 * j + i)) ((vs.drop (32 * j)).take 32))
    (bs.foldl (fun n b => n + b.2.scale * 2 ^ (8 * b.1)) 0, bs.flatMap (fun b => b.2.elems),
      bs.foldl (fun f b => f ||| b.2.flags) 0, bs.findSome? fun b => b.2.nanAt.map (32 * b.1 + ·))

def execVpack (d a b : BitVec 5) (m : BitVec 3) (s1 : BitVec 2) (p : BitVec 3) (s : State) : Out :=
  let f := floatOf (packType s1)
  let pf := packFmt p.toNat
  let n := packCount s.focus s1
  .next (if packPair s.focus s1 && a.getLsbD 0 then s.vecType 2 a.toNat ((wordOf (.vpack d a b m s1 p)).setWidth 64)
    else
      let vs := (List.range n).map fun i =>
        let (r, l) := packPlace s.focus s1 a i
        f.decode (laneOf (s.v r) f.width l)
      let (scales, cs, flags, nan) := packBlocks pf m.toNat s.laneBits vs
      let t := if m = 4#3 then s.drawn n else s
      ((t.setV 4 d (packBits pf.width cs) (BitVec.ofNat 4096 (2 ^ (pf.width * n) - 1))).setX 4 b (BitVec.ofNat 64 scales)).vecFinish 4 flags nan
        (nanFormats m.toNat (0x0D + p.toNat) 0x1F (formatNo (packType s1))))

def execVunpk (d a b : BitVec 5) (m : BitVec 3) (s1 : BitVec 2) (p : BitVec 3) (s : State) : Out :=
  let f := floatOf (packType s1)
  let pf := packFmt p.toNat
  let n := packCount s.focus s1
  .next (if packPair s.focus s1 && d.getLsbD 0 then s.vecType 2 d.toNat ((wordOf (.vunpk d a b m s1 p)).setWidth 64)
    else
      let scale (i : Nat) : Nat := (s.x b).toNat / 2 ^ (8 * (i / 32)) % 256
      let rs := (List.range n).map fun i =>
        (i, roundVal f m.toNat (s.laneBits i) (unpackVal pf (scale i) (laneOf (s.v a) pf.width i)))
      let t := if m = 4#3 then s.drawn n else s
      let half (k : Nat) : List (Nat × Res) := (rs.filter fun r => r.1 / 16 = k).map fun r => (r.1 % 16, r.2)
      let t1 := if packPair s.focus s1 then
          (t.setV 4 d (lanesValue 32 (half 0)) (lanesMask 32 (half 0))).setV 4 (d + 1#5) (lanesValue 32 (half 1)) (lanesMask 32 (half 1))
        else t.setV 4 d (lanesValue f.width rs) (lanesMask f.width rs)
      t1.vecFinish 4 (lanesFlags rs) none 0#64)

/-! ### Reductions (R135, R310) -/

/-- The identity of a reduction code (R135, R242, R310). -/
def redIdentity (t : BitVec 3) (c : Nat) (signed : Bool) : Nat :=
  let w := elemBits t
  let f := floatOf t
  if isFloatType t then
    match c with
    | 0 => f.signBit
    | 1 => f.signBit + f.infCode
    | _ => f.infCode
  else match c with
    | 0 => 0
    | 1 => if signed then 2 ^ (w - 1) else 0
    | 2 => if signed then 2 ^ (w - 1) - 1 else 2 ^ w - 1
    | 4 => 2 ^ w - 1
    | _ => 0

/-- One node of the tree. -/
def redNode (t : BitVec 3) (c rm rnd : Nat) (signed : Bool) (x y : Nat) : Res :=
  let w := elemBits t
  let f := floatOf t
  if isFloatType t then
    match c with
    | 0 => (addVal rm (f.decode x) (f.decode y)).round f rm rnd
    | 1 => { code := minMaxFloat f true x y }
    | _ => { code := minMaxFloat f false x y }
  else match c with
    | 0 => { code := (x + y) % 2 ^ w }
    | 1 => { code := minMaxInt w true signed x y }
    | 2 => { code := minMaxInt w false signed x y }
    | 4 => { code := x &&& y }
    | _ => { code := x ||| y }

/-- The tree of R135: `k` levels left, `level` done, `base` nodes drawn so far. -/
def redTree (node : Nat → Nat → Nat → Res) (k level base : Nat) (xs : List Nat) (flags : Nat) (nan : Option Nat) : Res × Option Nat :=
  match k with
  | 0 => ({ code := xs.headD 0, flags := flags }, nan)
  | j + 1 =>
    let rs := (List.range (xs.length / 2)).map fun i => node (base + i) (xs.getD (2 * i) 0) (xs.getD (2 * i + 1) 0)
    let here := (rs.findIdx? fun r => r.nan).map fun i => i * 2 ^ (level + 1)
    let nan1 := match nan, here with
      | some a, some b => some (min a b)
      | some a, none => some a
      | none, h => h
    redTree node j (level + 1) (base + rs.length) (rs.map (·.code)) (rs.foldl (fun f r => f ||| r.flags) flags) nan1

def execVred (d a : BitVec 5) (c t q v : BitVec 3) (s : State) : Out :=
  let w := elemBits t
  let n := laneCount (vectorBytes s.focus) w
  let signed : Bool := v = 0#3
  let rm := modeOf t v
  let xs := (List.range n).map fun i => if s.act q w i then laneOf (s.v a) w i else redIdentity t c.toNat signed
  let (r, nan) := redTree (fun k => redNode t c.toNat rm (s.laneBits k) signed) (Nat.log2 n) 0 0 xs 0 none
  let s1 := if rm = 4 then s.drawn (n - 1) else s
  .next ((s1.setV 6 d (BitVec.ofNat 4096 r.code) (BitVec.ofNat 4096 (2 ^ w - 1))).vecFinish 6 r.flags nan
    (nanFormats rm (formatNo t) 0x1F (formatNo t)))

/-! ### Lane moves and integer sequences (R311) -/

def execVbcst (d a : BitVec 5) (t q : BitVec 3) (s : State) : Out :=
  .next (s.lanewise 2 d t q 0 0#64 fun _ => { code := (s.x a).toNat % 2 ^ elemBits t })

/-- A lane index at or beyond the register's lanes (R301, kind 3). -/
def State.laneTrap (s : State) (k : BitVec 64) : State := s.vecType 3 0 k

def execVmovxGet (d a b : BitVec 5) (t : BitVec 3) (z : BitVec 1) (s : State) : Out :=
  let w := elemBits t
  let k := (s.x b).toNat
  .next (if isFloatType t then s.typeTrap (.vmovxGet d a b t z) t
    else if laneCount (vectorBytes s.focus) w ≤ k then s.laneTrap (s.x b)
    else
      let x := laneOf (s.v a) w k
      (s.setX 2 d (if z = 0#1 then BitVec.ofInt 64 (signedOf w x) else BitVec.ofNat 64 x)).complete)

def execVmovxPut (d a b : BitVec 5) (t : BitVec 3) (s : State) : Out :=
  let w := elemBits t
  let k := (s.x b).toNat
  .next (if isFloatType t then s.typeTrap (.vmovxPut d a b t) t
    else if laneCount (vectorBytes s.focus) w ≤ k then s.laneTrap (s.x b)
    else s.vecDone 2 d w [(k, { code := (s.x a).toNat % 2 ^ w })] 0#64)

def execVperm (d a b : BitVec 5) (t q : BitVec 3) (s : State) : Out :=
  let w := elemBits t
  let n := laneCount (vectorBytes s.focus) w
  .next (s.lanewise 2 d t q 0 0#64 fun i => { code := laneOf (s.v a) w (laneOf (s.v b) w i % n) })

def execViota (d a b : BitVec 5) (t q : BitVec 3) (s : State) : Out :=
  .next (if isFloatType t then s.typeTrap (.viota d a b t q) t
    else s.lanewise 2 d t q 0 0#64 fun i => { code := ((s.x a).toNat + i * (s.x b).toNat) % 2 ^ elemBits t })

def execVcnt (d a : BitVec 5) (t q v : BitVec 3) (s : State) : Out :=
  let w := elemBits t
  .next (if isFloatType t then s.typeTrap (.vcnt d a t q v) t
    else s.lanewise 2 d t q 0 0#64 fun i => { code := bitCount w v.toNat (laneOf (s.v a) w i) })

/-! ### Transcendental functions (R312) -/

/-- A one-operand floating function, refused on integer types. -/
def State.function1 (s : State) (i : Instr) (d a : BitVec 5) (t q v : BitVec 3) (f : Nat → Nat → Res) : State :=
  if isFloatType t = false then s.typeTrap i t
  else s.lanewise 8 d t q v.toNat (nanFormats v.toNat (formatNo t) 0x1F (formatNo t)) fun k =>
    f (s.laneBits k) (laneOf (s.v a) (elemBits t) k)

def execVexp2 (d a : BitVec 5) (t q v : BitVec 3) (s : State) : Out :=
  .next (s.function1 (.vexp2 d a t q v) d a t q v fun _ x => funcRes 0 (floatOf t) x)

def execVlog2 (d a : BitVec 5) (t q v : BitVec 3) (s : State) : Out :=
  .next (s.function1 (.vlog2 d a t q v) d a t q v fun _ x => funcRes 1 (floatOf t) x)

def execVrcp (d a : BitVec 5) (t q v : BitVec 3) (s : State) : Out :=
  .next (s.function1 (.vrcp d a t q v) d a t q v fun _ x => funcRes 2 (floatOf t) x)

def execVrsq (d a : BitVec 5) (t q v : BitVec 3) (s : State) : Out :=
  .next (s.function1 (.vrsq d a t q v) d a t q v fun _ x => funcRes 3 (floatOf t) x)

def execVsqrt (d a : BitVec 5) (t q v : BitVec 3) (s : State) : Out :=
  .next (s.function1 (.vsqrt d a t q v) d a t q v fun rnd x => (sqrtVal ((floatOf t).decode x)).round (floatOf t) v.toNat rnd)

/-! ### The generator and predicate logic (R313, R314), and the vector length (R300) -/

def execVrng (d : BitVec 5) (t q : BitVec 3) (s : State) : Out :=
  let w := elemBits t
  let n := vectorBytes s.focus
  .next (if isFloatType t then s.typeTrap (.vrng d t q) t
    else
      let bits := (List.range (n / 8)).foldl (fun v j => v + (s.streamWord j).toNat * 2 ^ (64 * j)) 0
      (s.drawn (n / 2)).vecDone 2 d w ((s.activeLanes q w).map fun i => (i, { code := bits / 2 ^ (w * i) % 2 ^ w })) 0#64)

/-- The bits of a predicate register of the class (R164). -/
def predBits (a : Agent) : Nat := if isDense a then 256 else 32

def execVkop (d a b l : BitVec 3) (s : State) : Out :=
  let n := predBits s.focus
  .next (s.setK 2 d (BitVec.ofNat 256 (logicBits n l.toNat (s.k a).toNat (s.k b).toNat)) (BitVec.ofNat 256 (2 ^ n - 1))).complete

/-- vlen written: at once, or in flight on a dense tile. -/
def State.setVlen (s : State) (lat n : Nat) : State :=
  match s.focus with
  | .thread _ _ => s.setCur { s.cur with vlen := BitVec.ofNat 64 n }
  | .bank t b => s.fly t b .vlen lat (BitVec.ofNat 4096 n) (BitVec.ofNat 4096 (2 ^ 64 - 1))

def execVsetl (d a : BitVec 5) (t : BitVec 3) (s : State) : Out :=
  let es := elemBytes t
  let g := min (s.x a).toNat (vectorBytes s.focus / es)
  .next (((s.setVlen 2 (g * es)).setX 2 d (BitVec.ofNat 64 g)).complete)

end Sys2Proof.Machine
end

