-- ==== Sys2Proof/Machine/Mtx.lean ====
section
/-! DEFINITION. Matrix instructions: feeds, squaring, drain, scale-accumulate and the accumulation store (R205 to R218, R316 to
R327). An element read inside an earlier write window, or written inside an earlier read or write window, is one of the values
that R217 allows; which one is free. -/

namespace Sys2Proof.Machine

/-! ### Parts -/

def State.array (s : State) (j : Nat) : ArrayState := (s.dp j).array
def State.setArray (s : State) (j : Nat) (a : ArrayState) : State := s.setDp j { s.dp j with array := a }

/-- The tile of the bank in issue. -/
def State.tile (s : State) : Nat :=
  match s.focus with
  | .bank j _ => j
  | .thread _ _ => 0

/-- The virtual cycle in issue. -/
def State.now (s : State) : Nat := (s.dp s.tile).vcc

/-- `n` free choices used. -/
def State.useFree (s : State) (n : Nat) : State := { s with free := s.free + n }

/-- acfg as an operation that issues in virtual cycle `v` reads it (R318). -/
def ArrayState.cfg (a : ArrayState) (v : Nat) : BitVec 64 := if v < a.acfg.lo then a.acfg.old else a.acfg.new

/-- The parameters of a mode (R206): passes per cycle, alignment bit, step, lowest and highest K_pass. -/
def modeInfo (mode : Nat) : Nat × Nat × Nat × Nat × Nat :=
  match mode with
  | 0 => (1, 14, 16, 64, 256)
  | 1 => (2, 6, 32, 128, 512)
  | _ => (8, 4, 128, 512, 2048)

def modeP (mode : Nat) : Nat := (modeInfo mode).1

/-- Whether a format belongs to a mode (R206). -/
def modeFormat (mode f : Nat) : Bool :=
  match mode with
  | 0 => f = 0x09 || f = 0x0A
  | 1 => (decide (0x0B ≤ f) && decide (f ≤ 0x10)) || f = 0x00 || f = 0x12
  | _ => f = 0x11 || f = 0x13

/-- The bits of an element of a feed's format. -/
def feedBits (f : Nat) : Nat :=
  match f with
  | 0x09 => 16
  | 0x0A => 16
  | 0x0F => 6
  | 0x10 => 6
  | 0x11 => 4
  | 0x13 => 4
  | _ => 8

/-- An MX format (R119). -/
def isMx (f : Nat) : Bool := decide (0x0D ≤ f) && decide (f ≤ 0x12)

/-! ### Engines (R218, R317) -/

/-- An engine started for `n` cycles, or 0x09 while it is busy. -/
def State.startEngine (s : State) (e n : Nat) : Except State State :=
  let p := s.dp s.tile
  if p.vcc < getAt p.busy e 0 then .error (s.trap 0x09 0#64 (4096 + 2048 + 512 + e))
  else .ok (s.setDp s.tile { p with busy := setAt p.busy e (p.vcc + n) })

/-- The checks of R218 and R47, a busy engine before the banks, then the instruction's own checks, and its effect. -/
def State.matrix (s : State) (us : List (Nat × Nat)) (e n : Nat) (own : Option State) (k : State → State) : State :=
  match s.startEngine e n with
  | .error t => t
  | .ok s1 =>
    match s1.useBanks s.tile us with
    | .error _ => (match s.useBanks s.tile us with
      | .error t => t
      | .ok _ => s)
    | .ok s2 =>
      match own with
      | some t => t
      | none => k s2

/-! ### Feeds (R209 to R211, R319) -/

/-- The granules of a line, the lines of an access cycle, and the access cycles (R209). -/
def feedShape (k w : Nat) : Nat × Nat × Nat :=
  let g := (k * w + 511) / 512
  let m := 16 / g
  (g, m, (256 + m - 1) / m)

/-- An element of a feed: special, or a value with the integer formats whole (R210). -/
def feedVal (f c : Nat) : Val :=
  match f with
  | 0x00 => valOf (signedOf 8 c)
  | 0x13 => valOf (signedOf 4 c)
  | 0x12 => valOfInt (signedOf 8 c) (-6) false
  | 0x09 => fmtF16.decode c
  | 0x0A => fmtBf16.decode c
  | 0x0B => fmtE4m3.decode c
  | 0x0C => fmtE5m2.decode c
  | 0x0D => fmtE4m3.decode c
  | 0x0E => fmtE5m2.decode c
  | 0x0F => fmtE3m2.decode c
  | 0x10 => fmtE2m3.decode c
  | _ => fmtE2m1.decode c

/-- The element exponent of R123's table. -/
def feedEmax (f : Nat) : Int :=
  match f with
  | 0x0D => 8
  | 0x0E => 15
  | 0x0F => 4
  | 0x10 => 2
  | 0x11 => 2
  | _ => 0

def Val.special : Val → Bool
  | .num _ _ _ => false
  | _ => true

/-- rne_int of a value in units of 2^u (R210). -/
def laneInt (v : Val) (u : Int) : Int :=
  match v with
  | .num neg n e => roundInt 0 0 neg n (e - u)
  | _ => 0

/-- A line record (R211). -/
def lineRecord (sp z : Bool) (step : Nat) (uexp : Int) : Nat := bit sp * 2 ^ 31 + bit z * 2 ^ 30 + step % 2048 * 65536 + codeOf 16 uexp

/-- feed_line (R210): lanes and record of a line of element values, with its scale bytes. -/
def feedLine (f fbit : Nat) (vs : List Val) (xs : List Nat) : List Int × Nat :=
  let scaleOf (k : Nat) : Nat := xs.getD (k / 32) 0
  let bad (k : Nat) : Bool := (vs.getD k .nan).special || (isMx f && scaleOf k = 0xFF)
  match (List.range vs.length).find? bad with
  | some k => (vs.map fun _ => 0, lineRecord true false k 0)
  | none =>
    let (lanes, u) : List Int × Int :=
      if f = 0x00 ∨ f = 0x13 then (vs.map fun v => laneInt v 0, 0)
      else if isMx f then
        let u : Int := (xs.foldl max 0 : Nat) - 127 + feedEmax f - fbit
        ((List.range vs.length).map fun k => laneInt (scaleVal (vs.getD k .nan) ((scaleOf k : Int) - 127)) u, u)
      else match blockTop vs with
        | none => (vs.map fun _ => 0, 0)
        | some pe => (vs.map fun v => laneInt v (pe - fbit), pe - fbit)
    (lanes, lineRecord false (lanes.all (· = 0)) 0 u)

/-- What a window holds for an operation that reads element (i, k) in cycles after `v`, read number `n`. -/
def winPick (n i k : Nat) (open' : Bool) (old new : Int) : Int := if open' && !Config.arrayNew n i k then old else new

/-- The lines of a fill as an MSQ of cycle `v` reads them, step k in cycle v + 1 + k / p (R212, R217). -/
def readFill (w : Win (Option Fill)) (v n : Nat) : Option Fill :=
  match w.new with
  | none => none
  | some f =>
    if v + 1 ≤ w.hi then
      let old : List (List Int) := match w.old with
        | some g => g.lines
        | none => []
      some { f with lines := (List.range f.lines.length).map fun i =>
        (List.range f.kpass).map fun k => winPick n i k (decide (v + 1 + k / modeP f.mode ≤ w.hi)) ((old.getD i []).getD k 0) ((f.lines.getD i []).getD k 0) }
    else some f

/-- A fill's lines where each element is one of two, or as `pick` fixes it by its step: the first of two fills, or the second. -/
def mixFill (n : Nat) (pick : Nat → Option Bool) (a b : Fill) : Fill :=
  { a with lines := (List.range a.lines.length).map fun i =>
      (List.range a.kpass).map fun k =>
        let x := (a.lines.getD i []).getD k 0
        let y := (b.lines.getD i []).getD k 0
        match pick k with
        | none => winPick n i k true x y
        | some second => if second then y else x }

/-! ### Squaring (R212, R213) -/

def sqSum (x y : List Int) : Int := (List.zipWith (fun a b => (a + b) * (a + b)) x y).foldl (· + ·) 0
def sqSelf (x : List Int) : Int := x.foldl (fun t a => t + a * a) 0

/-- The sums per step over the lines of a fill. -/
def stepSums (ls : List (List Int)) : List Int := ls.foldl (fun acc l => if acc = [] then l else List.zipWith (· + ·) acc l) []

/-- The steps lo to hi - 1 of a line. -/
def stepsOf (lo hi : Nat) (l : List Int) : List Int := (l.drop lo).take (hi - lo)

/-- What the steps lo to hi - 1 add to a cleared bank. -/
def passBank (fa fb : Fill) (lo hi : Nat) : CellBank :=
  let rows := fa.lines.map (stepsOf lo hi)
  let cols := fb.lines.map (stepsOf lo hi)
  let sa := stepSums rows
  let sb := stepSums cols
  { cells := rows.map fun r => cols.map fun c => sqSum r c
    hr := rows.map sqSelf
    hc := cols.map sqSelf
    chk := sqSum sa sb
    hsa := sqSelf sa
    hsb := sqSelf sb
    fa := fa.fmt
    fb := fb.fmt }

def addInts (x y : List Int) : List Int := if x = [] then y else if y = [] then x else List.zipWith (· + ·) x y
def addRows (x y : List (List Int)) : List (List Int) := if x = [] then y else if y = [] then x else List.zipWith addInts x y

/-- A bank with a pass's further steps added. -/
def addBank (a b : CellBank) : CellBank :=
  { cells := addRows a.cells b.cells
    hr := addInts a.hr b.hr
    hc := addInts a.hc b.hc
    chk := a.chk + b.chk
    hsa := a.hsa + b.hsa
    hsb := a.hsb + b.hsb
    fa := b.fa
    fb := b.fb }

/-- Each number of a bank one of two: `n` is the read, and `rowOpen` tells the rows that are still open at it. -/
def mixBank (n : Nat) (rowOpen : Nat → Bool) (a b : CellBank) : CellBank :=
  { cells := (List.range (max a.cells.length b.cells.length)).map fun i =>
      (List.range 256).map fun k => winPick n i k (rowOpen i) ((a.cells.getD i []).getD k 0) ((b.cells.getD i []).getD k 0)
    hr := (List.range (max a.hr.length b.hr.length)).map fun i => winPick n i 256 (rowOpen i) (a.hr.getD i 0) (b.hr.getD i 0)
    hc := (List.range (max a.hc.length b.hc.length)).map fun i => winPick n i 257 true (a.hc.getD i 0) (b.hc.getD i 0)
    chk := winPick n 0 258 true a.chk b.chk
    hsa := winPick n 0 259 true a.hsa b.hsa
    hsb := winPick n 0 260 true a.hsb b.hsb
    fa := if Config.arrayNew n 0 261 then b.fa else a.fa
    fb := if Config.arrayNew n 0 262 then b.fb else a.fb }

/-- The bank that an MSQ leaves which goes on to step `hi`. -/
def MsqRun.result (m : MsqRun) (start : CellBank) (hi : Nat) : CellBank :=
  let pass := passBank m.fa m.fb m.first hi
  if m.first = 0 then addBank { CellBank.zero with fa := m.fa.fmt, fb := m.fb.fmt } pass else addBank start pass

def MsqRun.p (m : MsqRun) : Nat := modeP m.fa.mode
def MsqRun.cycles (m : MsqRun) : Nat := (m.fa.kpass - m.first) / m.p

/-! ### Drain plane and scale-accumulate (R214, R215) -/

/-- mhem. -/
def drainBank (b : CellBank) (c : Nat) : DrainPlane :=
  let rows := List.zipWith (fun r h => List.zipWith (fun x y => (x - h - y) / 2) r b.hc) b.cells b.hr
  { elems := rows
    plsum := rows.foldl (fun t r => r.foldl (· + ·) t) 0
    chkv := (b.chk - b.hsa - b.hsb) / 2
    fa := b.fa
    fb := b.fb
    src := c }

/-- A plane's elements where each is one of two. -/
def mixPlane (n : Nat) (a b : List (List Int)) : List (List Int) :=
  (List.range (max a.length b.length)).map fun i =>
    (List.range 256).map fun k => winPick n i k true ((a.getD i []).getD k 0) ((b.getD i []).getD k 0)

/-- One element of msa (R215): accumulated value, plane element, exponent. -/
def accumulate (x : Nat) (p e : Int) : Res :=
  if p = 0 then { code := x }
  else
    let v := fmtF32.decode x
    if v.isNan then { code := fmtF32.nanCode }
    else
      let r := (addVal 0 v (valOfInt p e false)).round fmtF32 0 0
      { r with flags := if r.flags / 4 % 2 = 1 then r.flags ||| flagAO else r.flags, nan := false }

/-- SP, Z, step and uexp of a record (R211). -/
def recSp (r : Nat) : Bool := r / 2 ^ 31 % 2 = 1
def recZ (r : Nat) : Bool := r / 2 ^ 30 % 2 = 1
def recStep (r : Nat) : Nat := r / 65536 % 2048
def recExp (r : Nat) : Int := signedOf 16 (r % 65536)

/-- The 256 records of a pair (R211). -/
def State.records (s : State) (r : BitVec 5) : List Nat :=
  (List.range 256).map fun l => laneOf (s.v (r + BitVec.ofNat 5 (l / 128))) 32 (l % 128)

/-! ### The accumulation store (R49, R322 to R324) -/

/-- The byte of element (i, k) of accumulator tile `t` within the tile's memory (R49). -/
def accByte (t i k : Nat) : Nat := 0x200000 + t * 0x40000 + i * 1024 + k * 4

/-- The address of accumulator tile `t` of dense tile `j`. -/
def State.accAddr (s : State) (j t : Nat) : Nat := windowAddr s.module (.dt j) (accByte t 0 0)

/-- The cells of an accumulator tile, by offset. -/
def State.accCells (s : State) (j t : Nat) : Mem :=
  (s.mem.filter fun c => decide (s.accAddr j t ≤ c.1) && decide (c.1 < s.accAddr j t + 0x40000)).map fun c => (c.1 - s.accAddr j t, c.2)

/-- The cells of an accumulator tile replaced. -/
def State.putAccCells (s : State) (j t : Nat) (m : Mem) : State :=
  let lo := s.accAddr j t
  let rest := s.mem.filter fun c => !(decide (lo ≤ c.1) && decide (c.1 < lo + 0x40000))
  { s with mem := m.foldl (fun x c => memSet x (lo + c.1) c.2) rest }

/-- The open windows over an element for an operation of cycle `v`. -/
def accOpen (ws : List AccWin) (v i k : Nat) : List AccWin :=
  ws.filter fun w => decide (v + 1 ≤ w.hi) && decide (w.r0 ≤ i) && decide (i < w.r1) && decide (w.c0 ≤ k) && decide (k < w.c1)

/-- The bits of an element among a tile's cells. -/
def cellsElem (m : Mem) (i k : Nat) : Nat := bytesToNat (memRead m (i * 1024 + k * 4) 4)

/-- Element (i, k) of an accumulator tile as an operation that reads it in cycle `v` + 1 finds it, read number `n` (R217). -/
def accElem (cells : Mem) (ws : List AccWin) (v n i k : Nat) : Nat :=
  (accOpen ws v i k).foldl (fun x w => if Config.arrayNew (n + w.lo) i k then x else cellsElem w.old i k) (cellsElem cells i k)

/-- The granules of an accumulator tile whose every byte lies among rows and columns that are overwritten lose their poison (R58). -/
def State.clearAcc (s : State) (j t : Nat) (w : AccWin) : State :=
  let g0 := s.accAddr j t / 64
  let inside (g : Nat) : Bool :=
    decide (g0 ≤ g) && decide (g < g0 + 4096) && (let i := (g - g0) / 16
      let k := (g - g0) % 16 * 16
      decide (w.r0 ≤ i) && decide (i < w.r1) && decide (w.c0 ≤ k) && decide (k + 16 ≤ w.c1))
  { s with poison := s.poison.filter fun g => !inside g }

/-- Elements of an accumulator tile written, in a window of rows and columns and cycles (R217, R326). -/
def State.setAcc (s : State) (j t : Nat) (w : AccWin) (es : List (Nat × Nat × Nat)) : State :=
  let v := (s.dp j).vcc
  let ws := (getAt (s.array j).acc t []).filter fun x => decide (v + 1 ≤ x.hi)
  let cells := es.foldl (fun m e =>
    let clash := (accOpen ws v e.1 e.2.1).any fun x => decide (w.lo ≤ x.hi)
    if clash && !Config.arrayNew (s.free + w.lo) e.1 e.2.1 then m
    else memWrite m (e.1 * 1024 + e.2.1 * 4) (natToBytes 4 e.2.2)) (s.accCells j t)
  let s1 := s.putAccCells j t cells
  (s1.setArray j { s1.array j with acc := setAt (s1.array j).acc t (ws ++ [{ w with old := s.accCells j t }]) }).useFree (w.hi + 1)

/-- The elements that msa changes, with the flags raised (R215): `x` are the values accumulated on. -/
def msaElems (plane : List (List Int)) (er ec : List Nat) (x : Nat → Nat → Nat) : List (Nat × Nat × Nat) × Nat :=
  let colSp := (List.range 256).filter fun j => recSp (ec.getD j 0)
  (List.range 256).foldl (fun (acc : List (Nat × Nat × Nat) × Nat) i =>
    let row := plane.getD i []
    let rs := er.getD i 0
    let js := if recSp rs then List.range 256 else if row = [] then colSp else List.range 256
    js.foldl (fun (a : List (Nat × Nat × Nat) × Nat) j =>
      let cs := ec.getD j 0
      if recSp rs || recSp cs then (a.1 ++ [(i, j, fmtF32.nanCode)], a.2)
      else if row.getD j 0 = 0 then a
      else
        let r := accumulate (x i j) (row.getD j 0) (recExp rs + recExp cs)
        (a.1 ++ [(i, j, r.code)], a.2 ||| r.flags)) acc) ([], 0)

/-- Where msa produces its first NaN (R139, R140): row, column, side and step. -/
def msaNan (er ec : List Nat) : Option (Nat × Nat × Nat × Nat) :=
  let col := (List.range 256).find? fun j => recSp (ec.getD j 0)
  let row := (List.range 256).find? fun i => recSp (er.getD i 0)
  match row, col with
  | none, none => none
  | some i, none => some (i, 0, 1, recStep (er.getD i 0))
  | r, some j =>
    if r = some 0 then some (0, 0, if j = 0 then 3 else 1, recStep (er.getD 0 0)) else some (0, j, 2, recStep (ec.getD j 0))

/-- A NaN trap of a matrix instruction, where one is due, after it completes (R139, R140): it is seen as its row is written, `delay` cycles after
issue. -/
def State.matrixNan (s : State) (lat flags tinfo tvec : Nat) (tfmt : BitVec 64) (delay : Nat) : State :=
  if s.nanArmed then
    ((s.raiseFlags lat (BitVec.ofNat 64 (flags + 0x8000))).complete).trapAfter {
      cause := 0x0F
      tval := s.cur.pc.setWidth 64
      tinfo := BitVec.ofNat 64 (tinfo + s.bslot)
      tfmt := tfmt
      tvec := BitVec.ofNat 64 tvec } delay
  else (s.raiseFlags lat (BitVec.ofNat 64 flags)).complete

/-! ### The instructions -/

/-- MCFG's checks (R318). -/
def cfgOk (x : BitVec 64) : Bool :=
  let mode := (x.extractLsb' 12 2).toNat
  let fa := (x.extractLsb' 14 5).toNat
  let fb := (x.extractLsb' 19 5).toNat
  let k := (x.extractLsb' 0 11).toNat + 1
  let (_, _, step, lo, hi) := modeInfo mode
  x.extractLsb' 24 40 = 0#40 && x.getLsbD 11 = false && mode ≠ 3 && (fa = 0x1F || modeFormat mode fa) && (fb = 0x1F || modeFormat mode fb) &&
    decide (lo ≤ k) && decide (k ≤ hi) && k % step = 0

def execMcfg (d a : BitVec 5) (s : State) : Out :=
  let x := s.x a
  let ar := s.array s.tile
  .next (if cfgOk x = false then s.trap 0x01 x (0x09 + 256 * s.bslot)
    else
      let old := ar.cfg s.now
      ((s.setArray s.tile { ar with acfg := ⟨old, x, s.now + 1, s.now + 1⟩ }).setX 1 d old).complete)

/-- Where a feed's fill stands in the array. -/
def fillsOf (a : ArrayState) (row : Bool) (n : Nat) : Win (Option Fill) :=
  getAt (if row then a.fa else a.fb) n ⟨none, none, 0, 0⟩

/-- An MSQ under way that reads buffer `n` while it is refilled in `acc` access cycles: a step that it reads before the refill writes is the old one,
one read after it the new one, and one read inside its window either (R217). -/
def State.refill (s : State) (j : Nat) (row : Bool) (n acc : Nat) (new : Fill) : State :=
  let a := s.array j
  let v := (s.dp j).vcc
  match a.msq with
  | some m =>
    if (if row then m.na else m.nb) = n ∧ v + 1 ≤ m.issue + m.cycles then
      let at' (k : Nat) : Nat := m.issue + 1 + (k - m.first) / m.p
      let pick (k : Nat) : Option Bool := if at' k < v + 1 then some false else if v + acc + 4 < at' k then some true else none
      let f := mixFill s.free pick (if row then m.fa else m.fb) new
      let m1 := if row then { m with fa := f } else { m with fb := f }
      let w := getAt a.bank m.c ⟨CellBank.zero, CellBank.zero, 0, 0⟩
      (s.setArray j { a with
        msq := some m1
        bank := setAt a.bank m.c { w with new := m1.result w.old m.fa.kpass } }).useFree 1
    else s
  | none => s

/-- MFDA and MFDB (R319). -/
def State.feed (s : State) (i : Instr) (row : Bool) (d a b : BitVec 5) (n : Nat) : State :=
  let j := s.tile
  let ar := s.array j
  let cfg := ar.cfg s.now
  let f := (if row then cfg.extractLsb' 14 5 else cfg.extractLsb' 19 5).toNat
  let mode := (cfg.extractLsb' 12 2).toNat
  let k := (cfg.extractLsb' 0 11).toNat + 1
  let w := feedBits f
  let (g, m, acc) := feedShape k w
  let e := if row then 0 else 1
  if f = 0x1F then s.matrix [] e 0 (some (s.illegal (wordOf i) 0x04)) id
  else
    let base := (s.x a).toNat
    let pitch := (s.xg a 1).toNat
    let sbase := (s.x b).toNat
    let spitch := (s.xg b 1).toNat
    let mx := isMx f
    let bytes := k * w / 8
    let uses := (List.range 256).flatMap fun l =>
      ((List.range g).map fun x => (1 + l / m, base + l * pitch + 64 * x)) ++ (if mx then [(1 + l / m, sbase + l * spitch)] else [])
    let odd (v r : Nat) : Option State := if v % 64 ≠ 0 then some (s.trap 0x07 (BitVec.ofNat 64 v) r) else none
    let own : Option State :=
      (odd base a.toNat <|> odd pitch (a.toNat + 1) <|> (if mx then odd sbase b.toNat <|> odd spitch (b.toNat + 1) else none)) <|>
      (if 0x200000 < base + 255 * pitch + bytes then some (s.trap 0x05 (s.x a) a.toNat)
       else if mx = true ∧ 0x200000 < sbase + 255 * spitch + 64 then some (s.trap 0x05 (s.x b) b.toNat)
       else if (List.range 256).any (fun l => s.poisoned (s.ownAddr s.focus (base + l * pitch)) bytes ||
          (mx && s.poisoned (s.ownAddr s.focus (sbase + l * spitch)) (k / 32))) then some (s.consumePoison s.focus)
       else none)
    s.matrix uses e acc own fun s1 =>
      let line (l : Nat) : List Int × Nat :=
        let v := s1.readNat (s1.ownAddr s1.focus (base + l * pitch)) bytes
        let xs := if mx then (s1.read (s1.ownAddr s1.focus (sbase + l * spitch)) (k / 32)).map (·.toNat) else []
        feedLine f (modeInfo mode).2.1 ((List.range k).map fun q => feedVal f (v / 2 ^ (w * q) % 2 ^ w)) xs
      let ls := (List.range 256).map line
      let new : Fill := { mode := mode, kpass := k, fmt := f, lines := ls.map (·.1) }
      let old := fillsOf ar row n
      let v := s1.now
      let both : Bool := decide (v + 1 ≤ old.hi)
      let free := mixFill s1.free (fun _ => none)
      -- what the buffer held, and where an earlier feed still writes it, what each element ends with (R217)
      let held := (match old.new, old.old with
        | some x, some o => some (if both then free x o else x)
        | x, _ => x)
      let last := (match old.new with
        | some x => if both then free new x else new
        | none => new)
      let win : Win (Option Fill) := ⟨held, some last, v + 1, v + acc + 4⟩
      let s2 := s1.refill j row n acc last
      let ar2 := s2.array j
      let s3 := s2.setArray j (if row then { ar2 with fa := setAt ar2.fa n win } else { ar2 with fb := setAt ar2.fb n win })
      let half (h : Nat) : BitVec 4096 :=
        BitVec.ofNat 4096 (((ls.drop (128 * h)).take 128).foldr (fun r acc => acc * 2 ^ 32 + r.2) 0)
      (((s3.useFree 1).setV (acc + 4) d (half 0) (BitVec.allOnes 4096)).setV (acc + 4) (d + 1#5) (half 1) (BitVec.allOnes 4096)).complete

def execMfda (d a b : BitVec 5) (n : BitVec 1) (s : State) : Out := .next (s.feed (.mfda d a b n) true d a b n.toNat)
def execMfdb (d a b : BitVec 5) (n : BitVec 1) (s : State) : Out := .next (s.feed (.mfdb d a b n) false d a b n.toNat)

/-- Accumulator elements of an MSA written again, when a plane that it reads changes under it (R217). -/
def State.redoMsa (s : State) (j : Nat) (old new : List (List Int)) : State :=
  let a := s.array j
  match a.msa with
  | none => s
  | some m =>
    if (s.dp j).vcc + 6 ≤ m.issue + 64 then
      let ws := getAt a.acc m.tile []
      match ws.find? (fun w => w.lo = m.issue + 10 && w.hi = m.issue + 73) with
      | none => s
      | some w =>
        let (es, fl) := msaElems (mixPlane s.free old new) m.er m.ec (cellsElem w.old)
        ((s.setAcc j m.tile w es).raiseFlags 74 (BitVec.ofNat 64 fl)).useFree 1
    else s

def execMsq (d a b : BitVec 1) (s : State) : Out :=
  let j := s.tile
  let ar := s.array j
  let v := s.now
  let fa := readFill (fillsOf ar true a.toNat) v s.free
  let fb := readFill (fillsOf ar false b.toNat) v (s.free + 1)
  let mismatch : State := s.illegal (wordOf (.msq d a b)) 0x05
  .next (match fa, fb with
    | some x, some y =>
      let mp := s.cur.mpos
      -- only the bundle that a drain has stopped resumes (R213)
      let first := if mp.getLsbD 63 ∧ (s.dp j).resuming = true then (mp.extractLsb' 0 12).toNat else 0
      let m : MsqRun := { pc := s.cur.pc, fa := x, fb := y, na := a.toNat, nb := b.toNat, c := d.toNat, issue := v, first := first, bank := agentSlot s.focus }
      s.matrix [] 2 m.cycles (if x.mode ≠ y.mode ∨ x.kpass ≠ y.kpass then some mismatch else none) fun s1 =>
        let w := getAt ar.bank d.toNat ⟨CellBank.zero, CellBank.zero, 0, 0⟩
        let both : Bool := decide (v + 1 ≤ w.hi)
        let start := if both then mixBank (s1.free + 2) (fun _ => true) w.old w.new else w.new
        let pass := m.result start x.kpass
        -- where an earlier MSQ still writes the bank, each number ends as one of the two writes (R217)
        let new := if both then mixBank (s1.free + 3) (fun _ => true) w.new pass else pass
        let s2 := ((s1.setArray j { s1.array j with
          bank := setAt ar.bank d.toNat ⟨start, new, v + 1, v + m.cycles + 6⟩
          msq := some m }).setCur { s1.cur with mpos := if ar.msq.isNone then s1.cur.mpos else 0#64 }).useFree 4
        -- an MHEM that still reads this bank has drained old or new cells
        let pl := ar.plane
        if pl.new.src = d.toNat ∧ v + 1 ≤ pl.hi - 5 then
          let np := drainBank (mixBank (s2.free + 3) (fun i => decide (v + 6 ≤ pl.lo + i / 4)) start new) d.toNat
          let s3 := s2.setArray j { s2.array j with plane := { pl with new := np } }
          ((s3.redoMsa j pl.new.elems np.elems).useFree 1).complete
        else s2.complete
    | _, _ => s.matrix [] 2 0 (some mismatch) id)

def execMhem (a : BitVec 1) (s : State) : Out :=
  let j := s.tile
  let ar := s.array j
  let v := s.now
  .next (s.matrix [] 3 64 none fun s1 =>
    let w := getAt ar.bank a.toNat ⟨CellBank.zero, CellBank.zero, 0, 0⟩
    -- rows 4c to 4c + 3 are read in cycle v + 1 + c (R214)
    let b := if v + 1 ≤ w.hi then mixBank s1.free (fun i => decide (v + 1 + i / 4 ≤ w.hi)) w.old w.new else w.new
    let new := drainBank b a.toNat
    let s2 := (s1.redoMsa j ar.plane.new.elems new.elems).useFree 1
    (s2.setArray j { s2.array j with plane := ⟨ar.plane.new, new, v + 6, v + 69⟩ }).complete)

def execMsa (d : BitVec 2) (a b : BitVec 5) (s : State) : Out :=
  let j := s.tile
  let ar := s.array j
  let v := s.now
  let er := s.records a
  let ec := s.records b
  let t := d.toNat
  .next (s.matrix [] 4 64 none fun s1 =>
    let pl := ar.plane
    let inside : Bool := decide (v + 63 < pl.hi)
    let plane := if inside then mixPlane s1.free pl.old.elems pl.new.elems else pl.new.elems
    let fm := if inside && !Config.arrayNew s1.free 0 261 then pl.old else pl.new
    let cells := s1.accCells j t
    let ws := getAt ar.acc t []
    let (es, fl) := msaElems plane er ec (fun i k => accElem cells ws (v + i / 4) (s1.free + 1) i k)
    let w : AccWin := { r0 := 0, r1 := 256, c0 := 0, c1 := 256, lo := v + 10, hi := v + 73, old := [] }
    let s2 := (s1.useFree (2 + v)).setAcc j t w es
    let s3 := s2.setArray j { s2.array j with msa := some (MsaRun.mk t v er ec) }
    match msaNan er ec with
    | none => (s3.raiseFlags 74 (BitVec.ofNat 64 fl)).complete
    | some (i, k, side, step) =>
      s3.matrixNan 74 fl (128 + t * 8) (side * 2 ^ 27 + step * 65536 + k * 256 + i) (nanFormats 0 0x08 fm.fb fm.fa) (10 + i / 4))

def execMchk (s : State) : Out :=
  let pl := (s.array s.tile).plane
  -- inside the latch window the old or the new latch, together (R327)
  let l := if s.now ≤ pl.hi && pl.hi ≠ 0 && !Config.arrayNew s.free 0 263 then pl.old else pl.new
  let s1 := s.useFree 1
  .next (if l.plsum = l.chkv then s1.complete
    else ((s1.countSector (s.tile / 2) 0x0109 1).complete).trapAfter {
      cause := 0x10
      tval := s.cur.pc.setWidth 64
      tinfo := BitVec.ofNat 64 l.src } 0)

def execMzero (d : BitVec 2) (s : State) : Out :=
  let j := s.tile
  let v := s.now
  let t := d.toNat
  .next (s.matrix [] 4 64 none fun s1 =>
    let w : AccWin := { r0 := 0, r1 := 256, c0 := 0, c1 := 256, lo := v + 1, hi := v + 64, old := s1.accCells j t }
    let ws := (getAt (s1.array j).acc t []).filter fun x => decide (v + 1 ≤ x.hi)
    if ws = [] then
      let s2 := s1.putAccCells j t []
      let g := s2.accAddr j t / 64
      let s3 := { s2 with poison := s2.poison.filter fun p => !(decide (g ≤ p) && decide (p < g + 4096)) }
      (s3.setArray j { s3.array j with acc := setAt (s3.array j).acc t [w] }).complete
    else
      ((s1.setAcc j t w ((List.range 65536).map fun e => (e / 256, e % 256, 0))).clearAcc j t w).complete)

/-- Row i, column k of a row-major pair in a list of numbers of `w` bits each. -/
def elemsBytes (w : Nat) (vs : List Nat) : List Byte := vs.flatMap fun v => natToBytes (w / 8) v

/-- The format of MST and MLD. -/
def storeFmt (f : BitVec 5) : FloatFmt :=
  match f.toNat with
  | 8 => fmtF32
  | 9 => fmtF16
  | 10 => fmtBf16
  | 11 => fmtE4m3
  | _ => fmtE5m2

/-- The operand checks and bank uses of MST and MLD (R323). -/
def State.accMove (s : State) (a b : BitVec 5) (eb : Nat) (poison : Bool) (k : State → State) : State :=
  let base := (s.x a).toNat
  let pitch := (s.x b).toNat
  let uses := (List.range 256).flatMap fun i => (List.range (256 * eb / 64)).map fun g => (4 + i / 4, base + i * pitch + 64 * g)
  let own : Option State :=
    if base % 64 ≠ 0 then some (s.trap 0x07 (s.x a) a.toNat)
    else if pitch % 64 ≠ 0 then some (s.trap 0x07 (s.x b) b.toNat)
    else if 0x200000 < base + 255 * pitch + 256 * eb then some (s.trap 0x05 (s.x a) a.toNat)
    else if poison then some (s.consumePoison s.focus)
    else none
  s.matrix uses 4 64 own k

def execMst (d : BitVec 2) (a b : BitVec 5) (r : BitVec 3) (f : BitVec 5) (s : State) : Out :=
  let j := s.tile
  let v := s.now
  let t := d.toNat
  let fm := storeFmt f
  let eb := fm.width / 8
  .next (s.accMove a b eb (s.poisoned (s.accAddr j t) 0x40000) fun s1 =>
    let cells := s1.accCells j t
    let ws := getAt (s1.array j).acc t []
    let row (i : Nat) : List Res := (List.range 256).map fun k =>
      roundVal fm r.toNat (s1.laneBits (256 * i + k)) (fmtF32.decode (accElem cells ws (v + i / 4) s1.free i k))
    let out := (List.range 256).map fun i => (i, row i)
    let s2 := out.foldl (fun x e => x.write (x.ownAddr x.focus ((s.x a).toNat + e.1 * (s.x b).toNat)) (elemsBytes fm.width (e.2.map (·.code)))) s1
    let s3 := (if r = 4#3 then s2.drawn 65536 else s2).useFree (v + 74)
    let fl := out.foldl (fun g e => e.2.foldl (fun h x => h ||| x.flags) g) 0
    match out.findSome? (fun e => (e.2.findIdx? fun x => x.nan).map fun k => (e.1, k)) with
    | none => (s3.raiseFlags 68 (BitVec.ofNat 64 fl)).complete
    | some (i, k) => s3.matrixNan 68 fl 0 k (nanFormats r.toNat f.toNat 0x1F 0x08) (4 + i / 4))

def execMld (d : BitVec 2) (a b : BitVec 5) (f : BitVec 5) (s : State) : Out :=
  let j := s.tile
  let v := s.now
  let fm := storeFmt f
  let eb := fm.width / 8
  let rowAddr (i : Nat) : Nat := s.ownAddr s.focus ((s.x a).toNat + i * (s.x b).toNat)
  .next (s.accMove a b eb ((List.range 256).any fun i => s.poisoned (rowAddr i) (256 * eb)) fun s1 =>
    let es := (List.range 256).flatMap fun i =>
      let bs := s1.read (rowAddr i) (256 * eb)
      (List.range 256).map fun k =>
        (i, k, (roundVal fmtF32 0 0 (fm.decode (bytesToNat ((bs.drop (k * eb)).take eb)))).code)
    let w : AccWin := { r0 := 0, r1 := 256, c0 := 0, c1 := 256, lo := v + 4, hi := v + 67, old := [] }
    ((s1.setAcc j d.toNat w es).clearAcc j d.toNat w).complete)

def execMswap (d a : BitVec 2) (s : State) : Out :=
  let j := s.tile
  let v := s.now
  .next (s.matrix [] 4 1 none fun s1 =>
    if d = a then s1.complete
    else
      let x := s1.accCells j d.toNat
      let y := s1.accCells j a.toNat
      let w (m : Mem) : AccWin := { r0 := 0, r1 := 256, c0 := 0, c1 := 256, lo := v + 1, hi := v + 1, old := m }
      let gd := s1.accAddr j d.toNat / 64
      let ga := s1.accAddr j a.toNat / 64
      -- poison goes with its granule (R58)
      let moved (g : Nat) : Nat := if gd ≤ g ∧ g < gd + 4096 then g - gd + ga else if ga ≤ g ∧ g < ga + 4096 then g - ga + gd else g
      let s2 := { (s1.putAccCells j d.toNat y).putAccCells j a.toNat x with poison := s1.poison.map moved }
      let ar := s2.array j
      (s2.setArray j { ar with acc := setAt (setAt ar.acc d.toNat (getAt ar.acc a.toNat [] ++ [w x])) a.toNat (getAt ar.acc d.toNat [] ++ [w y]) }).complete)

def execMspec (d a : BitVec 5) (z : BitVec 1) (s : State) : Out :=
  let rs := s.records a
  let hits := (List.range 256).filter fun l => if z = 1#1 then recZ (rs.getD l 0) else recSp (rs.getD l 0)
  .next (s.setX 2 d (BitVec.ofNat 64 (hits.length + (hits.head?.getD 0x100) * 65536))).complete

/-- The row operand of MRDV and MWRV (R324). -/
def State.halfRow (s : State) (b : BitVec 5) (k : Nat → State → State) : State :=
  s.matrix [] 4 1 (if 256 ≤ (s.x b).toNat then some (s.laneTrap (s.x b)) else none) (k (s.x b).toNat)

def execMrdv (d : BitVec 5) (a : BitVec 2) (b : BitVec 5) (h : BitVec 1) (s : State) : Out :=
  let j := s.tile
  let v := s.now
  .next (s.halfRow b fun i s1 =>
    let cells := s1.accCells j a.toNat
    let ws := getAt (s1.array j).acc a.toNat []
    let rs := (List.range 128).map fun l => (l, ({ code := accElem cells ws v s1.free i (128 * h.toNat + l) } : Res))
    ((s1.useFree (v + 74)).setV 4 d (lanesValue 32 rs) (lanesMask 32 rs)).complete)

def execMwrv (d : BitVec 2) (a b : BitVec 5) (p h : BitVec 1) (s : State) : Out :=
  let j := s.tile
  let v := s.now
  .next (s.halfRow b fun i s1 =>
    let cells := s1.accCells j d.toNat
    let ws := getAt (s1.array j).acc d.toNat []
    let rs := (List.range 128).map fun l =>
      let y := laneOf (s1.v a) 32 l
      if p = 1#1 then
        (l, (addVal 0 (fmtF32.decode (accElem cells ws v s1.free i (128 * h.toNat + l))) (fmtF32.decode y)).round fmtF32 0 0)
      else (l, ({ code := y } : Res))
    let w : AccWin := { r0 := i, r1 := i + 1, c0 := 128 * h.toNat, c1 := 128 * h.toNat + 128, lo := v + 1, hi := v + 4, old := [] }
    let s0 := (s1.useFree (v + 74)).setAcc j d.toNat w (rs.map fun r => (i, 128 * h.toNat + r.1, r.2.code))
    -- a row that is added to carries its poison on (R58)
    let s2 := if p = 1#1 then s0 else s0.clearAcc j d.toNat w
    match lanesNan rs with
    | none => (s2.raiseFlags 4 (BitVec.ofNat 64 (lanesFlags rs))).complete
    | some l => s2.matrixNan 4 (lanesFlags rs) 0 l (nanFormats 0 0x08 0x08 0x08) 1)

/-! ### What a drain does to the array (R213, R217) -/

/-- An MSQ in flight stops at its next interruptible step, as a drain of the tile reaches it, or runs to its end (R213): the bundle
to be issued again, where it has stopped. -/
def State.stopMsq (s : State) (j : Nat) : Option (BitVec 48) × State :=
  let a := s.array j
  match a.msq with
  | none => (none, s)
  | some m =>
    let entered := (s.dp j).vcc - 1 - m.issue
    let steps := m.first + (entered + 15) / 16 * 16 * m.p
    let ag := Agent.bank j m.bank
    if m.fa.kpass ≤ steps then (none, (s.setArray j { a with msq := none }).setCtx ag { s.ctx ag with mpos := 0#64 })
    else
      let w := getAt a.bank m.c ⟨CellBank.zero, CellBank.zero, 0, 0⟩
      let part := m.result w.old steps
      let s1 := s.setArray j { a with
        bank := setAt a.bank m.c ⟨part, part, 0, 0⟩
        msq := none }
      let p := s1.dp j
      let s2 := s1.setDp j { p with busy := setAt p.busy 2 p.vcc }
      (some m.pc, s2.setCtx ag { s2.ctx ag with mpos := BitVec.ofNat 64 (2 ^ 63 + steps) })

/-- An MSQ that has ended clears mpos of its bank (R213). -/
def State.endMsq (s : State) (j : Nat) : State :=
  let a := s.array j
  match a.msq with
  | some m =>
    if m.issue + m.cycles + 6 ≤ (s.dp j).vcc then
      let ag := Agent.bank j m.bank
      (s.setArray j { a with msq := none }).setCtx ag { s.ctx ag with mpos := 0#64 }
    else s
  | none => s

end Sys2Proof.Machine
end

