-- ==== Sys2Proof/Machine/Homes.lean ====
section
/-! DEFINITION. What the sites do with a request that reaches them: access counters, ranges and mappings, host lines, waypoint
holds, the operation itself, and the replies and acknowledgements that come back (R29, R31, R53, R58 to R70, R81, R86, R103, R104,
R107, R359, R411). -/

namespace Sys2Proof.Machine

/-! ### Ranges (R59 to R69) -/

/-- The token of a range (R60). -/
def rangeToken (m : Nat) (g : Range) : BitVec 64 :=
  BitVec.ofNat 64 (m * 2 ^ 52 + g.kind % 4 * 2 ^ 50 + g.home % 512 * 2 ^ 41 + g.entry % 4096 * 2 ^ 29 + g.tag % 65536)

/-- The rights that a request needs (R24, R63). -/
def rangeAllows (g : Range) (op : ReqOp) : Bool :=
  let r := g.rights.getLsbD 2
  let w := g.rights.getLsbD 1
  let a := g.rights.getLsbD 0
  match op with
  | .load => r
  | .fill _ _ => r
  | .generation => r
  | .store => w
  | .writeBack _ => w
  | .contribute _ => w
  | .msarm _ _ => w
  | .amo _ wants => if wants then r && w && a else w && a
  | .cas _ => r && w && a
  | .radd _ => w && a

/-- How a range refuses a request of a key, where it does (R63, R70). -/
def rangeRefusal (g : Range) (key : Nat) (op : ReqOp) (pa : Nat) : Option Refused :=
  if g.key ≠ key then some ⟨0x0D, 0x04, pa⟩
  else if g.lost then some ⟨0x0D, 0x0A, pa⟩
  else if rangeAllows g op = false then some ⟨0x0D, 0x05, pa⟩
  else none

/-- The bytes that a request touches, as offsets from its address: for a fill, those that its load wants. -/
def touched (r : Request) : List Nat :=
  match r.op with
  | .fill lo n => ((List.range n).filter fun i => r.mask.getD (lo + i) true).map (· + lo - r.pa % 64)
  | _ => (List.range r.len).filter fun i => r.mask.getD i true

/-- The address that byte offsets of a request count from, on the owned alias: a fill and a write-back move their line. -/
def reqBase (r : Request) : Nat :=
  match r.op with
  | .fill _ _ => canon r.pa
  | .writeBack _ => canon (r.pa / 64 * 64)
  | _ => canon r.pa

/-- What an access of the host carries for a key: it has none (R410). -/
def hostKey : Nat := 65536

/-- The refusal of one byte by the ranges that cover it. A host access is never checked (R74, R410). -/
def State.byteRefusal (s : State) (r : Request) (a : Nat) : Option Refused :=
  if r.key = hostKey then none
  else s.homes.ranges.findSome? fun g => if g.covers a then rangeRefusal g r.key r.op (r.named.getD r.pa) else none

/-! ### The operation (R242, R269, R270) -/

/-- The word that an atomic leaves (R242). -/
def amoResult (fn : BitVec 3) (w old x : Nat) : Nat :=
  match fn.toNat with
  | 0 => x
  | 1 => (old + x) % 2 ^ w
  | 2 => old &&& x
  | 3 => old ||| x
  | 4 => if signedOf w x < signedOf w old then x else old
  | 5 => if signedOf w old < signedOf w x then x else old
  | 6 => min old x
  | _ => max old x

/-- The format of RADD's code (R270). -/
def raddFmt (t : BitVec 2) : FloatFmt :=
  match t.toNat with
  | 0 => fmtF32
  | 1 => fmtF16
  | _ => fmtBf16

/-- Whether the bytes that a reply would carry are poisoned where they lie. -/
def State.poisonVia (s : State) (a : Nat) (is : List Nat) : Bool := is.any fun i => s.poisoned (s.byteSite (a + i)) 1

/-- Whether a request's line touches a range (R39, R63). -/
def State.rangeLine (s : State) (a : Nat) : Bool :=
  s.homes.ranges.any fun g => decide (g.lo < a / 64 * 64 + 64) && decide (a / 64 * 64 < g.lo + g.len)

/-- The first byte that a request moves and their number: a fill and a write-back move their line. -/
def reqSpan (r : Request) : Nat × Nat :=
  match r.op with
  | .fill _ _ => (canon r.pa / 64 * 64, 64)
  | _ => (reqBase r, r.len)

/-- The bytes of a load, with those that have been read already (R64, R68). -/
def mergeRead (r : Request) (bs : List Byte) : List Byte :=
  if r.data = [] then bs else bs.zipIdx.map fun b => if r.mask.getD b.2 true then b.1 else r.data.getD b.2 b.1

/-- What follows an operation performed: its answer, or its way to the next mapper that holds some of its bytes (R64, R68). -/
def State.answerOrGo (s : State) (r : Request) (data : List Byte) (poison noAlloc : Bool) : State :=
  match (if poison then [] else r.hops) with
  | [] => s.answerRequest r data poison noAlloc
  | (w, m) :: rest => s.sendRequest { r with
      pa := w + (canon r.pa - (reqSpan r).1)
      data := match r.op with
        | .load => data
        | .fill _ _ => data
        | _ => r.data
      mask := m
      hops := rest }

/-- A request performed: the bytes that `ok` allows of it, its reply or its acknowledgement (R63, R64, R104). A reply of a line that is poisoned
is marked no-allocate too, so that each use of it meets the poison (DESIGN CHOICE, log 97: R39 names lines that touch a range). -/
def State.performReq (s : State) (r : Request) (ok : Nat → Bool) : State :=
  let a := reqBase r
  let bytes (x : State) : List Byte := x.readVia a r.len
  let old := bytesToNat (bytes s)
  let w := 8 * r.len
  let x := bytesToNat r.data
  let put (v : Nat) : State := s.writeVia a (((List.range r.len).zip (natToBytes r.len v)).filter fun b => ok b.1)
  -- the bytes that a store or a write-back brings, poisoned where they are (R58)
  let stored : State :=
    let bs := ((List.range r.len).zip r.data).filter fun b => r.mask.getD b.1 true && ok b.1
    let s1 := s.writeVia a bs
    if r.poison then bs.foldl (fun x b => x.addPoison (x.byteSite (a + b.1)) 1) s1 else s1
  match r.op with
  | .load => s.answerOrGo r (mergeRead r (bytes s)) (s.poisonVia a (touched r)) false
  | .fill lo n =>
    let line := a / 64 * 64
    let data := mergeRead r (s.readVia line 64)
    let p := s.poisonVia line (((List.range n).map (· + lo)).filter fun i => r.mask.getD i true)
    s.answerOrGo r data (p || (n = 0 && s.poisonVia line (List.range 64))) (s.rangeLine a || s.poisonVia line (List.range 64))
  | .store => stored.answerOrGo r [] false false
  | .writeBack _ => stored.answerOrGo r [] false false
  | .amo fn _ => (put (amoResult fn w old x)).answerRequest r (natToBytes r.len old) (s.poisonVia a (List.range r.len)) false
  | .cas e => (if old = e then put x else s).answerRequest r (natToBytes r.len old) (s.poisonVia a (List.range r.len)) false
  | .radd t =>
    let f := raddFmt t
    let es := raddBytes t
    let s1 := (List.range (r.len / es)).foldl (fun y i =>
      if r.mask.getD (i * es) false && ok (i * es) then
        let u := f.decode (bytesToNat (y.readVia (a + i * es) es))
        let v := f.decode (bytesToNat ((r.data.drop (i * es)).take es))
        let z := ((addVal 0 u v).round f 0 0).code
        y.writeVia (a + i * es) ((List.range es).zip (natToBytes es z))
      else y) s
    s1.answerOrGo r [] false false
  | .contribute n => (s.contribute r.pa n).answerRequest r [] false false
  | .msarm n ra =>
    (match (s.milestone r.pa).arm n ra with
      | none => s.refuseRequest r ⟨0x0B, 0, 0⟩
      | some m => (s.setMilestone r.pa m).answerRequest r [] false false)
  | .generation => s.answerRequest r (natToBytes 4 (s.milestone r.pa).gen) (s.poisonVia (canon r.pa) (List.range 16)) false

/-! ### Host lines and the host's copies (R53, R410, R411) -/

/-- A request put by until the host answers for its line. -/
def State.putBy (s : State) (line : Nat) (r : Request) : State :=
  { s with homes := { s.homes with heldWrites := s.homes.heldWrites ++ [(line, r)] } }

/-- Whether an operation writes. -/
def opWrites : ReqOp → Bool
  | .load => false
  | .fill _ _ => false
  | .generation => false
  | _ => true

/-- The set of an L2 slice that a line lies in (R12, R52): pair, slice and index. -/
def l2Set (pa : Nat) : Nat × Nat × Nat := (homePair pa, bitsOf (canon pa) 6 6, bitsOf (canon pa) 14 7)

/-- A CXL.cache request to the host (R411). -/
def State.askHost (s : State) (line : Nat) (k : CacheReq) : State :=
  if s.boot.cacheReqs.contains (line, k) then s else { s with boot := { s.boot with cacheReqs := s.boot.cacheReqs ++ [(line, k)] } }

/-- A line's bytes on their way back to the host: its way is given up (R53, R411). -/
def State.dropHostLine (s : State) (line : Nat) : State :=
  match s.homes.l2.find? (fun l => l.line = line) with
  | none => s
  | some l =>
    let s1 := if l.dirty then s.askHost line .writeBack else s
    { s1 with homes := { s1.homes with l2 := s1.homes.l2.filter fun x => x.line ≠ line } }

/-- What a write or read of bytes in one line needs of the host first: a CXL.cache grant for a line of host memory, the answer to a
back-invalidate for a line of HBM that the host may hold. `none`: it may go on, in the state given. -/
def State.hostReady (s : State) (pa : Nat) (writes : Bool) : Option Nat × State :=
  let line := canon pa / 64
  if spaceOf pa = 5 then
    match s.homes.l2.find? (fun l => l.line = line) with
    | some l =>
      if writes && !l.own then (some line, s.askHost line .own)
      else if writes && !l.dirty then
        (none, { s with homes := { s.homes with l2 := s.homes.l2.map fun x => if x.line = line then { x with dirty := true } else x } })
      else (none, s)
    | none => (some line, s.askHost line (if writes then .own else .read))
  else if writes && spaceOf pa ≤ 1 && s.homes.hostLines.contains line then
    (some line, if s.boot.backInvalidates.contains line then s
      else { s with boot := { s.boot with backInvalidates := s.boot.backInvalidates ++ [line] } })
  else (none, s)

/-- Whether every line of `n` bytes may be written now; where the host must answer first, it has been asked. -/
def State.linesReady (s : State) (pa n : Nat) : Bool × State :=
  ((List.range ((pa + n + 63) / 64 - pa / 64)).map fun i => (pa / 64 + i) * 64).foldl (fun acc l =>
    match acc.2.hostReady l true with
    | (none, x) => (acc.1, x)
    | (some _, x) => (false, x)) (true, s)

/-! ### A request at its home (R53, R64, R68, R69, R103) -/

/-- The range whose mapper must perform a request, where some byte of it is mapped. -/
def State.mappedRange (s : State) (r : Request) : Option Range :=
  s.homes.ranges.find? fun g => g.mapper.isSome && !g.lost && (touched r).any fun i => g.covers (reqBase r + i)

/-- The range whose RDONE holds a request back. -/
def State.drainingRange (s : State) (r : Request) : Option Range :=
  s.homes.ranges.find? fun g => g.draining && (touched r).any fun i => g.covers (reqBase r + i)

/-- The first refusal of a request's bytes, and the bytes that are not refused (R63, R64). -/
def State.checkRanges (s : State) (r : Request) : Option Refused × (Nat → Bool) :=
  let a := reqBase r
  ((touched r).findSome? fun i => s.byteRefusal r (a + i), fun i => (s.byteRefusal r (a + i)).isNone)

/-! A range that a core of another module maps: its bytes lie there (R68, R116). -/

/-- The window of the mapper of a range, from the scratchpad byte where the range begins, if the mapper is a core of another module. -/
def State.awayMapper (s : State) (g : Range) : Option (Nat × CoreRef × Nat) :=
  match g.mapper with
  | some (core, ofs, _) =>
    if g.lost || moduleOfNumber core = s.module then none else (coreOfNumber core).map fun u => (moduleOfNumber core, u, ofs)
  | none => none

/-- The range mapped on another module that a byte lies in. -/
def State.awayRange (s : State) (a : Nat) : Option Range := s.homes.ranges.find? fun g => g.covers a && (s.awayMapper g).isSome

/-- Where byte `a` of a range stands in its mapper's window. A mapping keeps addresses modulo 64 (R67), so this holds of every byte of a line that
the range touches. -/
def State.awayAddr (s : State) (g : Range) (a : Nat) : Nat :=
  match s.awayMapper g with
  | some (m, u, ofs) => windowAddr m u (ofs + a - g.lo)
  | none => a

/-- The tile windows of other modules where bytes of a request lie, with the mask of the bytes of each. -/
def State.hopsOf (s : State) (r : Request) (ok : Nat → Bool) : List (Nat × List Bool) :=
  let (b, n) := reqSpan r
  let is := ((touched r).filter ok).map (· + reqBase r - b)
  let gs := (is.filterMap fun i => s.awayRange (b + i)).eraseDups
  gs.map fun g => (s.awayAddr g b, (List.range n).map fun i => is.contains i && s.awayRange (b + i) = some g)

/-- A request performed and answering nobody. -/
def reqQuiet (r : Request) : Request := { r with who := .host, jent := none, acq := false, dest := .none }

/-- A request with bytes in mappings on other modules (R64, R68): its other bytes are performed here, and it goes on to the mappers, the last
of which answers. An atomic of which only a part is mapped goes whole to the mapper (DESIGN CHOICE, log 99). -/
def State.serveAway (s : State) (r : Request) (ok : Nat → Bool) : Option State :=
  match s.hopsOf r ok with
  | [] => none
  | (w, m) :: rest =>
    let (b, n) := reqSpan r
    let bits (i : Nat) : Bool := m.getD i false || rest.any fun h => h.2.getD i false
    let go (x : State) (q : Request) : State := x.sendRequest { q with pa := w + (canon r.pa - b), orig := some (r.orig.getD r.pa), hops := rest }
    let s := if r.orig.isNone then s.countSector (homePair r.pa % 512 / 16) 0x0106 1 else s
    let here (x : State) : State := x.performReq { reqQuiet r with mask := (List.range n).map fun i => r.mask.getD i true && !bits i } ok
    some (match r.op with
      | .load => if s.poisonVia b ((touched r).filter fun i => !bits i) then s.answerRequest r [] true true
        else go s { r with data := mergeRead r (s.readVia b n), mask := m }
      | .fill _ _ => if s.poisonVia b (((touched r).map (· + reqBase r - b)).filter fun i => !bits i) then s.answerRequest r [] true true
        else go s { r with data := mergeRead r (s.readVia b n), mask := m }
      | .store => go (here s) { r with mask := m }
      | .writeBack _ => go (here s) { r with mask := m }
      | .radd _ => go (here s) { r with mask := m }
      | _ => go s r)

/-- A request performed in part and refused (R63). -/
def State.performRefused (s : State) (r : Request) (x : Refused) (ok : Nat → Bool) : State :=
  let part : State := (s.serveAway (reqQuiet r) ok).getD (s.performReq (reqQuiet r) ok)
  let s1 := match r.op with
    | .store => part
    | .writeBack _ => part
    | .radd _ => part
    | _ => s
  s1.refuseRequest r x

/-- A request that passes its home: forwarded where a byte is mapped, else performed. -/
def State.serve (s : State) (r : Request) : State :=
  match s.serveAway r fun _ => true with
  | some x => x
  | none =>
    match (s.mappedRange r).bind fun g => (g.mapper.bind fun m => coreOfNumber m.1).map fun u => (g, u) with
    | some (g, .lc i) => (s.countSector (homePair r.pa % 512 / 16) 0x0106 1).push (.forwardedOperation i (rangeToken s.module g).toNat r)
    | _ => s.performReq r fun _ => true

/-- What becomes of a request some of whose bytes a draining range holds back (R64, R69): its bytes outside that range are performed now, and
the rest is the request that waits. An atomic waits whole. -/
def State.splitHeld (s : State) (g : Range) (r : Request) : Request × State :=
  let (b, n) := reqSpan r
  let inside (i : Nat) : Bool := g.covers (b + i)
  let is := (touched r).map (· + reqBase r - b)
  let out := is.filter fun i => !inside i
  let maskOf (f : Nat → Bool) : List Bool := (List.range n).map fun i => is.contains i && f i
  if out = [] ∨ (s.hostReady r.pa (opWrites r.op)).1.isSome then (r, s)
  else
    let other := { r with mask := maskOf fun i => !inside i }
    let (x, ok) := s.checkRanges other
    match r.op with
    | .load | .fill _ _ => if x.isSome then (r, s) else ({ r with data := mergeRead r (s.readVia b n), mask := maskOf inside }, s)
    | .store | .writeBack _ | .radd _ =>
      let s1 := (s.serveAway (reqQuiet other) ok).getD (s.performReq (reqQuiet other) ok)
      let rest := { r with mask := maskOf inside }
      (match x with
        | some f => (reqQuiet rest, s1.refuseRequest r f)
        | none => (rest, s1))
    | _ => (r, s)

/-- A request at its home, its arrival counted already; `f` serves it where nothing holds it up. -/
def State.atHomeBy (f : State → Request → State) (s : State) (r : Request) : State :=
  match s.drainingRange r with
  | some g =>
    let (q, s1) := s.splitHeld g r
    { s1 with homes := { s1.homes with ranges := s1.homes.ranges.map fun x =>
        if x.kind = g.kind ∧ x.home = g.home ∧ x.entry = g.entry then { x with held := x.held ++ [q] } else x } }
  | none =>
    if spaceOf r.pa = 5 ∧ s.boot.cxlUp = false then s.refuseRequest r ⟨0x15, 1, coreNumber s.module (.lc (homeCore r.pa))⟩
    -- requests for one line keep their order (R91, R104)
    else if r.key ≠ hostKey ∧ s.homes.heldWrites.any (fun w => w.1 = canon r.pa / 64) = true then s.putBy (canon r.pa / 64) r
    else match (if r.key = hostKey then (none, s) else s.hostReady r.pa (opWrites r.op)) with
    | (some line, s1) => s1.putBy line r
    | (none, s1) =>
      match s1.checkRanges r with
      | (some x, ok) => s1.performRefused r x ok
      | (none, _) => f s1 r

def State.atHome (s : State) (r : Request) : State := s.atHomeBy State.serve r

/-- A request that is performed where it lies within the step in which its home serves it (R103). -/
def State.serveNow (s : State) (r : Request) : State := (s.serveAway r fun _ => true).getD (s.performReq r fun _ => true)

/-- A part of a pending operation is acknowledged as held by its site (R361). -/
def State.noteHeld (s : State) (a : Agent) (j : Nat) : State :=
  let c := s.ctx a
  match findAt c.journal j with
  | some e => s.setCtx a { c with journal := setAt c.journal j { e with atSite := e.atSite + 1 } }
  | none => s

/-- A pending operation held at its site until its commit, and acknowledged as held (R103, R275, R361). -/
def State.holdPending (s : State) (who : Who) (j : Nat) (b : Payload) : State :=
  match who with
  | .agent a =>
    let s1 := { s with homes := { s.homes with pending := s.homes.pending ++ [Pending.mk a j b] } }
    if moduleOfNumber (payloadCore b) = s.module then s1.noteHeld a j
    else s1.sendPacket (payloadCore b) (coreNumber s.module (.lc 0)) (payloadKey b) 0 0 j 0 0 (.done who 0x3B [j])
  | _ => s

/-- A journal refusal of a request that is to be pending. -/
def State.arrive (s : State) (r : Request) : State :=
  match r.jent, r.held with
  | some j, true =>
    (match (s.checkRanges r).1 with
      | some x => s.refuseRequest r x
      | none => s.holdPending r.who j (.req r))
  | _, _ => s.atHome r

/-! ### The L2 (R52, R53) -/

/-- Whether a step that is due writes a line back. -/
def writesLine (line : Nat) (i : Instr) : Bool :=
  match i with
  | .homeRequest r => (match r.op with
    | .writeBack _ => canon r.pa / 64 = line
    | _ => false)
  | _ => false

/-- The dirty bytes of a line gathered from every L1, and from the write-backs on their way (R53). -/
def State.gatherLine (s : State) (line : Nat) : State :=
  let s1 := s.lcs.foldl (fun x e => match (x.lp e.1).l1.find? (fun l => canon (l.line * 64) / 64 = line && l.dirty ≠ 0#64) with
    | some l => x.evict e.1 l
    | none => x) s
  (s1.agenda.filter (writesLine line)).foldl (fun x i => match i with
    | .homeRequest r => x.atHome r
    | _ => x) { s1 with agenda := s1.agenda.filter fun i => !writesLine line i }

/-- A line takes a way of its set (R52, R53): a line given up is written back first. Which one it is, is not said: a free number tells (log 6). -/
def State.placeLine (s : State) (line : Nat) (own : Bool) : State :=
  let others := s.homes.l2.filter fun x => x.line ≠ line
  let same := others.filter fun x => l2Set (x.line * 64) = l2Set (line * 64)
  let s1 := { s with homes := { s.homes with l2 := others } }
  let (k, s2) := if same.length < 16 then (none, s1) else
    let (n, x) := s1.freeNat
    (same[n % same.length]?, x)
  let s3 := match k with
    | some v => (if spaceOf (v.line * 64) = 5 then s2.gatherLine v.line else s2).dropHostLine v.line
    | none => s2
  { s3 with homes := { s3.homes with l2 := s3.homes.l2 ++ [{ line := line, own := own, dirty := false }] } }

/-- A request served by a slice hits the L2 or misses it (R52, R429); a missing line of HBM or bulk memory takes a way, one of host memory once the
host has answered. -/
def State.countL2 (s : State) (pa : Nat) : State :=
  let sec := homePair pa % 512 / 16
  let line := (if spaceOf pa ≤ 1 then canon pa else pa) / 64
  if regionOf pa = none then s
  else if s.homes.l2.any (fun l => l.line = line) then s.countSector sec 0x0101 1
  else (if spaceOf pa = 5 then s else s.placeLine line true).countSector sec 0x0102 1

def execHomeRequest (r : Request) (s : State) : Out :=
  .next (if spaceOf r.pa = 6 then
      (match r.op with
        | .store => (s.pushAll (s.controlWrites r.key (offsetOf r.pa) r.data)).answerRequest r [] false false
        | _ => (s.controlReadEffect (offsetOf r.pa)).answerRequest r (s.controlRead r.key (offsetOf r.pa) r.len) false false)
    else ((s.countAccess r.pa).countL2 r.pa).arrive r)

def execForwardedOperation (core token : Nat) (r : Request) (s : State) : Out :=
  .next (match s.homes.ranges.find? (fun g => (rangeToken s.module g).toNat = token) with
    | none => s.atHome r
    | some g =>
      match s.checkRanges r with
      | (some x, ok) => s.performRefused r x ok
      | (none, _) =>
        if g.mapper.any (fun m => m.1 = coreNumber s.module (.lc core)) then s.performReq r fun _ => true else s.atHome r)

/-! ### Tile windows from other cores (R14, R46, R49) -/

/-- Whether a core's active plane holds a task of a key (R14). -/
def State.holdsKey (s : State) (u : CoreRef) (key : Nat) : Bool :=
  match u with
  | .lc i => !(s.lc i).fenced && (s.lp i).tasks.any fun e => e.2.valid && e.2.key = key
  | .dt j => !(s.dt j).fenced && (s.dp j).banks.any fun e => e.2.task.key = key

/-- Whether a reply goes to the scratchpad. -/
def toArea (d : Dest) : Bool := match d with
  | .area _ _ _ => true
  | _ => false

/-- The checks of R14, in their order; LRECV reads scratchpads alone (R295). R14 gives the detail "outside scratchpad" of 0x05 no number, and the
layout of 0x05 no place for one: it is 0 (DESIGN CHOICE, log 97). -/
def State.windowRefusal (s : State) (r : Request) : Option Refused :=
  let tv := match r.dest with
    | .area _ _ _ => coreNumber s.module ((windowCore (offsetOf r.pa)).getD (.lc 0))
    | _ => 0
  match windowCore (offsetOf r.pa) with
  | none => some ⟨0x05, 0, tv⟩
  | some u =>
    let own : Bool := coreNumber s.module u = r.core && r.who ≠ .host
    if own = false ∧ s.holdsKey u r.key = false then some ⟨0x15, 0, tv⟩
    -- a home has forwarded it to the bytes of a mapping
    else if r.orig.isSome then none
    else if s.ownOk u (offsetOf r.pa % 0x400000) r.len = false then some ⟨0x05, 0, tv⟩
    else if toArea r.dest = true ∧ isTile u = true ∧ 0x200000 < offsetOf r.pa % 0x400000 + r.len then some ⟨0x05, 0, tv⟩
    else none

/-- An access whose bytes lie where a matrix instruction is writing an accumulator tile reads or leaves each element old or new,
whole (R49, R327): the element `i` of the request shows its old bytes. -/
def State.accOld (s : State) (r : Request) (i : Nat) : Option Byte :=
  match windowCore (offsetOf r.pa) with
  | some (.dt j) =>
    let b := offsetOf r.pa % 0x400000 + i
    if b < 0x200000 then none
    else
      let t := (b - 0x200000) / 0x40000
      let row := (b - 0x200000) % 0x40000 / 1024
      let col := (b - 0x200000) % 1024 / 4
      ((getAt (s.dp j).array.acc t []).find? fun w =>
        decide ((s.dp j).vcc ≤ w.hi) && decide (w.r0 ≤ row) && decide (row < w.r1) && decide (w.c0 ≤ col) && decide (col < w.c1) &&
        !Config.arrayNew (s.free + w.lo) row col).map fun w => memGet w.old (b - 0x200000 - t * 0x40000)
  | _ => none

/-- Bytes of a window read or written by another agent. -/
def State.windowRead (s : State) (r : Request) : List Byte × State :=
  ((s.read r.pa r.len).zipIdx.map fun b => (s.accOld r b.2).getD b.1, { s with free := s.free + 1 })

def State.windowWrite (s : State) (r : Request) : State :=
  let w := ((List.range r.len).zip r.data).filter fun b => r.mask.getD b.1 true && (s.accOld r b.1).isNone
  let s1 := if r.mask = [] ∧ w.length = r.len then s.writeWatched r.pa r.data
    else w.foldl (fun x b => x.writeWatched (r.pa + b.1) [b.2]) s
  let s2 := if r.poison then s1.addPoison r.pa r.len else s1
  { s2 with free := s2.free + 1 }

/-- An access that reaches a window's port (R14). -/
def State.windowAccess (s : State) (r : Request) : State :=
  match s.windowRefusal r with
  | some x => s.refuseRequest r x
  | none =>
    match r.jent, r.held with
    | some j, true => s.holdPending r.who j (.req r)
    | _, _ =>
      match (if r.orig.isSome then .generation else r.op : ReqOp) with
      | .load => ((s.windowRead r).2).answerRequest r (s.windowRead r).1 (s.poisoned r.pa r.len) false
      | .store => (s.windowWrite r).answerRequest r [] false false
      | _ => s.performReq r fun _ => true

def execTileWindowAccess (r : Request) (s : State) : Out := .next (s.windowAccess r)

/-! ### Store buffer, contributions -/

def execStoreBufferDrain (core : Nat) (s : State) : Out := .next (s.drainOne core)

def execMilestoneContribution (pa n : Nat) (s : State) : Out := .next (s.contribute pa n)

/-! ### Replies to lookup threads (R39, R40, R100, R162) -/

/-- The trap of a refused reply at its instruction (R24, R63, R289, R295). -/
def replyTrap (o : BitVec 64 × BitVec 3) (d : Dest) (x : Refused) : TrapInfo :=
  let area : Bool := match d with
    | .area _ _ _ => true
    | .count _ => true
    | _ => false
  if area then { cause := x.cause, tval := BitVec.ofNat 64 x.tval, tinfo := BitVec.ofNat 64 x.detail }
  else if x.cause = 0x0D ∨ x.cause = 0x14 ∨ x.cause = 0x17 then { cause := x.cause, tval := BitVec.ofNat 64 x.tval, tinfo := BitVec.ofNat 64 x.detail }
  else if x.cause = 0x15 then { cause := x.cause, tval := BitVec.ofNat 64 x.tval, tinfo := BitVec.ofNat 64 x.detail }
  else { cause := x.cause, tval := o.1, tinfo := BitVec.ofNat 64 o.2.toNat }

/-- A trap at an instruction that has partly loaded its destination: what it held comes back (R350). -/
def State.restoreUndo (s : State) (a : Agent) : State :=
  let c := s.ctx a
  match c.undo with
  | some (d, v) => s.setCtx a { c.writeV d v with undo := none }
  | none => s

/-- The inbox offset that marks the load of a migrating RLD: its refusal goes with the context (R271). -/
def migrateMark : Nat := 2 ^ 64

/-- Whether a reply brings bytes that the instruction reads before it goes on. -/
def isInbox (d : Dest) : Bool := match d with
  | .inbox _ => true
  | _ => false

/-- An MSWAIT that has seen a generation short of its own sleeps (R109): the word's site tells its core of a change, and one on another module is asked
to (R202). -/
def State.waitOn (s : State) (a : Agent) (pa g seen : Nat) : State :=
  let c := s.ctx a
  let s1 := s.setCtx a { c with want := none, wait := .sleepMilestone pa g }
  if moduleOf pa = s.module then s1
  else s1.sendPacket (coreNumber (moduleOf pa) (.lc (homeCore pa))) (s.coreNo a) (s.key a) 0x4F 0 0 0 0 (.command a 0x4F [pa, seen, s.coreNo a])

/-- One awaited reply has been written; the last completes the instruction, or takes the trap that an earlier one gave. -/
def State.replied (s : State) (a : Agent) (d : Dest) : State :=
  let c := s.ctx a
  match c.wait with
  | .replies n =>
    if 1 < n then s.setCtx a { c with wait := .replies (n - 1) }
    else match c.failed with
      | some x =>
        if d = .inbox migrateMark then s.setCtx a { c with wait := .again, inbox := some [] }
        else ((s.setCtx a { c with failed := none, wait := .none }).restoreUndo a).takeTrap a (replyTrap c.opnd d x) c.pc
      | none =>
        if isInbox d then s.setCtx a { c with wait := .again }
        else
          let s1 := s.deliverLast a d
          s1.setCtx a (({ s1.ctx a with wait := .none, undo := none, tally := 0, want := none } : Ctx).advance 4#48)
  | _ => s

/-- A refused reply (R289): the other replies of the instruction are called off, and the trap waits for those that still come. -/
def State.replyRefused (s : State) (a : Agent) (d : Dest) (x : Refused) : State :=
  let (gone, s1) := s.callOff a
  let c := s1.ctx a
  match c.wait with
  | .replies n =>
    (s1.setCtx a { c with failed := some (c.failed.getD x), wait := .replies (n - min gone (n - 1)) }).replied a d
  | _ => s1

/-- The fill that a reply brings to a thread, as it stands. -/
def LPlane.miss (p : LPlane) (t line : Nat) : Option Miss := p.misses.find? fun m => m.slot = t && m.line = line

/-- The fill has come. -/
def LPlane.unmiss (p : LPlane) (t line : Nat) : LPlane :=
  match p.miss t line with
  | some m => { p with misses := p.misses.erase m }
  | none => p

/-- A fill of thread `t` comes: the bytes that its load wants, of the store buffer, of dirty bytes and else of the reply, and the line in the L1. A
no-allocate reply has the line written back and dropped (R40); a fill that is no longer fresh leaves the L1 as it is. -/
def State.fillLine (s : State) (c t line : Nat) (data : List Byte) (lo n : Nat) (noAlloc : Bool) : List Byte × State :=
  let fresh := ((s.lp c).miss t line).any (·.fresh)
  let s0 := s.setLp c ((s.lp c).unmiss t line)
  let old := l1Find (s0.lp c) line
  let d := match old with
    | some l => l.merge data
    | none => putBytes 0#512 0 data
  let out := (List.range n).map fun i => match coreByte (s0.lp c) true (line * 64 + lo + i) with
    | some b => b
    | none => d.extractLsb' (8 * (lo + i)) 8
  (out, match old with
    | some l =>
      if noAlloc then s0.dropLine c l
      else if fresh then s0.setLp c (l1Put (s0.lp c) { l with
          valid := BitVec.allOnes 64, data := d, filling := false, poison := l.poison && l.dirty ≠ 0#64 })
      else s0
    | none =>
      if noAlloc || !fresh then s0
      else match s0.makeRoom c line with
        | (some w, s1) => s1.setLp c (l1Put (s1.lp c) (L1Line.mk w line (BitVec.allOnes 64) 0#64 0#16 0 d false false))
        | (none, s1) => s1)

/-- The load of a fill asked again: the L1 has written back bytes that it wants since, and the fill may be older than those (R91). -/
def State.askAgain (s : State) (c t line : Nat) (r : Reply) : State :=
  let a := Agent.thread c t
  let s1 := s.setLp c { (s.lp c).unmiss t line with misses := ((s.lp c).unmiss t line).misses ++ [Miss.mk t line true 0#64] }
  s1.sendRequest {
    who := .agent a
    core := s.coreNo a
    key := s.key a
    op := .fill r.lo r.n
    pa := line * 64 + r.lo
    len := r.n
    dest := r.dest
    acq := r.acq
    named := some (hBase ((s.ctx a).readH (s.ctx a).opnd.2) + (s.ctx a).opnd.1.toNat) }

/-- Whether a fill may be older than bytes that it wants. -/
def State.overtaken (s : State) (c t : Nat) (r : Reply) : Bool :=
  match r.line.bind fun l => (s.lp c).miss t l with
  | some m => m.own &&& byteMask r.lo r.n ≠ 0#64
  | none => false

/-- Bytes that reach the scratchpad keep their poison (R58, R285). -/
def State.landPoison (s : State) (a : Agent) (d : Dest) (n : Nat) (p : Bool) : State :=
  match d, p with
  | .area ofs _ _, true => s.addPoison (s.ownAddr a ofs) n
  | _, _ => s

/-- The failure that a refused beat gives its batch (R14, R15, R148, R156, R407). -/
def copyDetail (x : Refused) : Nat := if x.cause = 0x15 then (if x.detail = 1 then 0x02 else 0x06) else 0x08

/-- Another module's answer to a beat of a copy command: the engine goes on with the beat (R143). A destination core that does not accept a
slab's bytes leaves the command running (R146). -/
def State.copyReply (s : State) (unit cmd : Nat) (r : Reply) : State :=
  let s1 := s.mapCopy unit cmd fun (c : CopyCmd) =>
    if c.busy = false then c
    else match r.refused, r.data with
      | some x, _ => if c.top = 0xA4 ∧ c.got ≠ [] ∧ copyDetail x ≠ 0x02 then { c with busy := false, fault := some (0x06, 0), puts := 2 } else { c with busy := false, fault := some (copyDetail x, 0), stop := true }
      | none, [] => { c with busy := false, puts := c.puts + 1 }
      | none, bs => { c with busy := false, got := c.got ++ [(bs, r.poison)] }
  -- a late beat is refused to its thread as well (R389)
  let s2 := match r.refused, (s.copies unit).find? (fun (c : CopyCmd) => c.id = cmd) with
    | some x, some c =>
      if x.cause = 0x17 ∧ (s.ctx c.who).holder ≠ 0 ∧ holderOwner (s.ctx c.who).holder = c.owner then s1.push (.refusalArrival c.who 32 x false) else s1
    | _, _ => s1
  s2.push (.copyBeat unit)

/-- A refusal record of a journal entry, or of a store that has left its thread, which has none (R63, R358). -/
def refusalOf (c : Ctx) (j : Nat) (x : Refused) : RefusalRec :=
  match findAt c.journal j with
  | some e => {
    jent := j, cause := x.cause, detail := x.detail, tval := x.tval, merged := 0, mixed := false, addr := e.addr, top := e.top,
    handle := e.handle, ofs := e.ofs }
  | none => {
    jent := j, cause := x.cause, detail := x.detail, tval := x.tval, merged := 0, mixed := false, addr := 0#48, top := 0#8,
    handle := 0#3, ofs := 0#64 }

/-- A sleeper that a refusal wakes issues again after the handler (R359). -/
def Ctx.wakeForRefusal (c : Ctx) : Ctx :=
  match c.wait with
  | .sleepMilestone _ _ => { c with wait := .again }
  | .sleepTask => { c with wait := .again }
  | _ => c

/-- A refusal queued for a context (R359); number 32 stands for a store that has no journal entry. -/
def Ctx.queueRefusal (c : Ctx) (j : Nat) (x : Refused) : Ctx :=
  let r := refusalOf c j x
  ({ c with refusals := if j < maxJournal then mergeRefusal c.refusals r else c.refusals ++ [r] } : Ctx).wakeForRefusal

/-- The answer to a line written back (R41, R63): a refusal goes to every thread that the line's writer mask names and that is still there; with
none left, one fault record is posted. A thread's save waits for its write-backs (R112), so no thread named is a saved one. -/
def State.lineAnswered (s : State) (c : Nat) (r : Reply) : State :=
  match (s.lp c).wb.find? fun w => r.line = some w.1 with
  | none => s
  | some w =>
    let s1 := s.setLp c { s.lp c with wb := (s.lp c).wb.erase w }
    match r.refused with
    | none => s1
    | some x =>
      match (writersOf c w.2).filter fun a => (s1.slot c (agentSlot a)).isSome with
      | [] => s1.postFault { cause := x.cause, tinfo := x.detail, tval := x.tval, core := coreNumber s1.module (.lc c), key := r.lo }
      | live => live.foldl (fun y a => y.setCtx a ((y.ctx a).queueRefusal 32 x)) s1

/-- A reply to an instruction that its thread has left: it is discarded, and the last of them lets the thread enter rotation, or its slot be granted
(R362, R371). -/
def State.strayReply (s : State) (c t : Nat) : State :=
  let n := (s.lp c).stray t - 1
  let s1 := s.setLp c { s.lp c with strays := if n = 0 then dropAt (s.lp c).strays t else setAt (s.lp c).strays t n }
  let a := Agent.thread c t
  if n ≠ 0 then s1
  else if (s1.slot c t).isNone then s1.push (.slotGrant c)
  else if (s1.ctx a).wait = .strays then s1.setCtx a { s1.ctx a with wait := .none }
  else s1

def execReplyWritten (r : Reply) (s : State) : Out :=
  .next (match r.who with
    | .l1 c => s.lineAnswered c r
    | .agent (.thread c t) =>
      let a := Agent.thread c t
      let cx := s.ctx a
      if r.dest ≠ .none ∧ (s.lp c).stray t ≠ 0 then s.strayReply c t
      else match r.dest with
      | .code line =>
        -- a missing line of instructions has come: the thread fetches again (R226)
        if cx.wait ≠ .code line then s
        else
          let s1 := s.setCtx a { cx with wait := .none }
          (match r.refused with
            | some x => s1.takeTrap a { cause := x.cause } cx.pc
            | none => if r.poison then s1.consumePoison a else s1.deliver a r.dest r.data)
      | .none =>
        let c1 := { cx with wbacks := cx.wbacks - 1 }
        s.setCtx a (match r.refused with
          | some x => c1.queueRefusal 32 x
          | none => c1)
      | d =>
        let waits : Bool := match cx.wait with
          | .replies _ => true
          | _ => false
        if waits = false then s
        else match r.refused with
          | some x => s.replyRefused a d x
          | none =>
            if r.poison && !toArea d then s.consumePoison a
            else if s.overtaken c t r then s.askAgain c t (r.line.getD 0) r
            else
              let (bs, s1) := match r.line with
                | some l => s.fillLine c t l r.data r.lo r.n r.noAlloc
                | none => (r.data, s)
              match cx.want with
              | some (pa, g) =>
                if reaches (bytesToNat bs) g then ((s1.deliver a d bs).acquireFor a true).replied a d else s1.waitOn a pa g (bytesToNat bs)
              | none =>
                let s2 := (s1.deliver a d bs).landPoison a d bs.length r.poison
                (s2.acquireFor a r.acq).replied a d
    | .copy unit cmd => s.copyReply unit cmd r
    | .host => (match r.dest with
      | .inbox _ => { s with boot := { s.boot with hostReads := s.boot.hostReads ++ [(r.data, r.poison || r.refused.isSome)] } }
      -- a completion record has been written at its site (R412)
      | .area _ _ p => if r.refused.isNone then s.raisePort p else s
      | _ => s)
    | _ => s)

/-! ### Late replies to dense tiles (R51, R100, R180, R364) -/

/-- The access of a tile that a reply answers. -/
def findLate (ls : List Late) (b : Nat) (d : Dest) : Option Late := ls.find? fun l => l.bank = b && l.dest = d && l.dest ≠ .none

def isCode (d : Dest) : Bool := match d with
  | .code _ => true
  | _ => false

/-- A refused fetch of a dense tile: a trap of the bundle that it was to bring, which has not issued (R226). -/
def State.trapFetch (s : State) (j b : Nat) (pc : BitVec 48) (cause : Nat) : State :=
  let p := s.dp j
  (s.setDp j { p with traps := p.traps ++ [{
    bank := b
    slot := 0
    cause := ⟨cause, 0, 0⟩
    tinfo := 0
    tfmt := 0
    tvec := 0
    pc := pc
    atIssue := true
    replay := false
    async := false
    arrived := false
    vcc := p.vcc
    batch := none }] }).push (.trapDrain j)

def execLateReplyArrival (r : Reply) (s : State) : Out :=
  .next (match r.who with
    | .agent (.bank j b) =>
      let a := Agent.bank j b
      match findLate (s.dp j).lates b r.dest with
      | none => s
      | some l =>
        let p := s.dp j
        let s1 := s.setDp j { p with lates := p.lates.erase l }
        match r.refused with
        | some x => if isCode r.dest then s1.trapFetch j b l.pc x.cause else s1.trapLate a (replyTrap l.opnd r.dest x) l.pc l.slot l.issued
        | none =>
          if r.poison then s1.consumePoison a
          else if l.want.any (fun w => !reaches (bytesToNat r.data) w.2) then
            -- MSWAIT's generation has not come: the word asks again (R109)
            s1.setDp j { s1.dp j with again := (s1.dp j).again ++ [⟨l.pc, l.slot, l.loops⟩] }
          else
            let s2 := s1.deliver a r.dest r.data
            let q := s2.dp j
            -- the word goes on alone once the last of its bytes has come
            if isInbox r.dest && !(q.lates.any fun e => e.bank = b && e.slot = l.slot && isInbox e.dest) then
              s2.setDp j { q with again := q.again ++ [⟨l.pc, l.slot, l.loops⟩] }
            else s2
    | _ => s)

/-! ### Journal answers (R104, R275, R358, R359, R361) -/

/-- A WPC whose last pending operation is answered goes on (R275). -/
def State.commitDone (s : State) (a : Agent) : State :=
  let c := s.ctx a
  if c.committing && c.wait = .completion 0x3A && !(c.journal.any fun e => e.2.held) then s.setCtx a { c with wait := .again } else s

def execJournalAck (who : Agent) (jent : Nat) (s : State) : Out := .next ((s.retirePart who jent).commitDone who)

def execRefusalArrival (who : Agent) (jent : Nat) (r : Refused) (last : Bool) (s : State) : Out :=
  let c := s.ctx who
  let held : Bool := match findAt c.journal jent with
    | some e => e.held && c.wayOpen
    | none => false
  .next (if held && !c.committing then s.rollback who r.cause
    else
      let s1 := s.setCtx who (c.queueRefusal jent r)
      ((if last then s1.retirePart who jent else s1).commitDone who))

end Sys2Proof.Machine
end

