-- ==== Sys2Proof/Machine/Tables.lean ====
section
/-! DEFINITION. Embedding tables at their homes: descriptors, installation, gathers with their waits and merging, step-tagged
accumulates, row write-backs and buffer zeroing (R75 to R86, R117). -/

namespace Sys2Proof.Machine

/-! ### Descriptors (R75 to R77) -/

/-- The fields of a table descriptor. -/
structure Desc where
  key : Nat
  valid : Bool
  low : Nat
  tid : Nat
  rowBytes : Nat
  fmt : Nat
  hashed : Bool
  smode : Nat
  sbound : Nat
  rows : Nat
  mod0 : Nat
  nmod : Nat
  pair0 : Nat
  npair : Nat
  rofs : Nat
  gofs : Nat
  mofs : Nat
  hseed : Nat
  deriving DecidableEq, Repr

def descOf (d : BitVec 512) : Desc :=
  let f (hi lo : Nat) : Nat := bitsOf d.toNat hi lo
  { key := f 511 496
    valid := f 495 495 = 1
    low := f 494 492 + f 295 0
    tid := f 491 480
    rowBytes := (f 479 473 + 1) * 32
    fmt := f 472 471
    hashed := f 470 470 = 1
    smode := f 469 468
    sbound := f 467 464
    rows := f 463 424
    mod0 := f 423 412
    nmod := f 411 400
    pair0 := f 399 391
    npair := f 390 382
    rofs := f 381 364 * 4096
    gofs := f 363 346 * 4096
    mofs := f 345 328 * 4096
    hseed := f 327 296 }

/-- The bytes of an element of the table's format (R75). -/
def Desc.elemBytes (d : Desc) : Nat :=
  match d.fmt with
  | 0 => 4
  | 3 => 1
  | _ => 2

/-- E: the elements of a row (R76). -/
def Desc.elems (d : Desc) : Nat := d.rowBytes / d.elemBytes

/-- The table's element format (R75), and its number under R119. -/
def Desc.float (d : Desc) : FloatFmt :=
  match d.fmt with
  | 0 => fmtF32
  | 1 => fmtF16
  | 2 => fmtBf16
  | _ => fmtE4m3

def Desc.fmtNo (d : Desc) : Nat := 8 + d.fmt

/-- H (R76). -/
def Desc.homes (d : Desc) : Nat := (d.nmod + 1) * (d.npair + 1)

/-- hash32 (R286). -/
def hash32 (seed q : Nat) : Nat :=
  let m := 2 ^ 64
  let x0 := (seed % 2 ^ 32 * 2 ^ 32) ^^^ (q % m)
  let x1 := (x0 ^^^ (x0 / 2 ^ 33)) * 0xFF51AFD7ED558CCD % m
  let x2 := (x1 ^^^ (x1 / 2 ^ 33)) * 0xC4CEB9FE1A85EC53 % m
  (x2 ^^^ (x2 / 2 ^ 33)) % 2 ^ 32

/-- The home of a row (R76). -/
def Desc.home (d : Desc) (w : Nat) : Nat :=
  if d.hashed then (w + hash32 d.hseed (w / d.homes)) % d.homes else w % d.homes

/-- The pair of a home, numbered module x 512 + pair (R76). -/
def Desc.pairOf (d : Desc) (h : Nat) : Nat := (d.mod0 + h / (d.npair + 1)) * 512 + d.pair0 + h % (d.npair + 1)

/-- Local indices that a home may hold. -/
def Desc.locals (d : Desc) : Nat := (d.rows + d.homes - 1) / d.homes

/-- The three areas of a home: offset in its pseudo-channel and bytes of a local index (R76). -/
def Desc.areas (d : Desc) : List (Nat × Nat) := [(d.rofs, d.rowBytes), (d.gofs, 8 * d.elems), (d.mofs, 16)]

/-- Whether two areas share a byte. -/
def areasMeet (n : Nat) (a b : Nat × Nat) : Bool := decide (a.1 < b.1 + n * b.2) && decide (b.1 < a.1 + n * a.2)

/-- The conditions of R77 that involve no home. -/
def Desc.ok (d : Desc) (key : Nat) : Bool :=
  let n := d.locals
  d.valid && d.key = key && d.low = 0 && decide (d.smode < 3) && (if d.smode = 1 then d.sbound ≠ 0 else d.sbound = 0)
    && d.rows ≠ 0 && decide (d.mod0 + d.nmod ≤ 4095) && decide (d.pair0 + d.npair ≤ 511)
    && d.areas.all (fun a => decide (a.1 + n * a.2 ≤ 0x30000000))
    && !(areasMeet n (d.rofs, d.rowBytes) (d.gofs, 8 * d.elems) || areasMeet n (d.rofs, d.rowBytes) (d.mofs, 16)
      || areasMeet n (d.gofs, 8 * d.elems) (d.mofs, 16))

/-- The address of a pair's pseudo-channel. -/
def pairBase (m pair : Nat) : Nat := m * 2 ^ 52 + pair % 512 * 0x30000000

/-- Where a home keeps a row, a gradient buffer and the metadata of a row (R76). -/
def Desc.rowAt (d : Desc) (m pair w : Nat) : Nat := pairBase m pair + d.rofs + w / d.homes * d.rowBytes
def Desc.gradAt (d : Desc) (m pair w p : Nat) : Nat := pairBase m pair + d.gofs + w / d.homes * (8 * d.elems) + p * (4 * d.elems)
def Desc.metaAt (d : Desc) (m pair w : Nat) : Nat := pairBase m pair + d.mofs + w / d.homes * 16

/-! ### Installing and removing (R77, R282) -/

/-- The table of a key and id that a pair of this module holds. -/
def State.tableAt (s : State) (pair key tid : Nat) : Option Desc :=
  (s.homes.tables.find? fun t => t.1 = pair % 512 && (descOf t.2).key = key && (descOf t.2).tid = tid).map fun t => descOf t.2

/-- Bytes of a home zeroed. -/
def State.zeroArea (s : State) (lo n : Nat) : State :=
  { s with
    mem := s.mem.filter fun (c : Host.Cell) => decide (c.1 < lo) || decide (lo + n ≤ c.1)
    poison := s.poison.filter fun g => !(decide (lo ≤ g * 64) && decide (g * 64 + 64 ≤ lo + n)) }

/-- The metadata of a fresh row: a = 0xFFFF, b0 = 0, b1 = 1, counts 0. -/
def freshMeta : List Byte := natToBytes 16 0x0000000000000000000000010000FFFF

/-- A descriptor installed at one pair. -/
def State.installPair (s : State) (d : BitVec 512) (pair : Nat) : Option Refused × State :=
  let x := descOf d
  match s.homes.tables.find? (fun t => t.1 = pair && (descOf t.2).key = x.key && (descOf t.2).tid = x.tid) with
  | some t => if t.2 = d then (none, s) else (some ⟨0x0D, 0x07, pair⟩, s)
  | none =>
    if maxTables ≤ (s.homes.tables.filter fun t => t.1 = pair).length then (some ⟨0x0D, 0x08, pair⟩, s)
    else
      let b := pairBase s.module pair
      let s1 := s.zeroArea (b + x.gofs) (x.locals * (8 * x.elems))
      let s2 := (List.range x.locals).foldl (fun y q => y.write (b + x.mofs + q * 16) freshMeta) s1
      (none, { s2 with homes := { s2.homes with tables := s2.homes.tables ++ [(pair, d)] } })

/-- The pairs of a module that are homes of a table. -/
def Desc.pairsOn (d : Desc) (m : Nat) : List Nat :=
  if d.mod0 ≤ m ∧ m ≤ d.mod0 + d.nmod then (List.range (d.npair + 1)).map (· + d.pair0) else []

/-- A descriptor installed at this module's homes: the first refusal. -/
def State.installHere (s : State) (d : BitVec 512) : Option Refused × State :=
  ((descOf d).pairsOn s.module).foldl (fun acc p =>
    let (r, s1) := acc.2.installPair d p
    ((acc.1.orElse fun _ => r), s1)) (none, s)

/-! ### Gathers (R79, R83, R84, R289, R290) -/

/-- x >= y of R78. -/
def stepReaches (x y : Nat) : Bool := decide ((x + 65536 - y % 65536) % 65536 < 2 ^ 15)

/-- A field of a row's metadata. -/
def State.metaField (s : State) (d : Desc) (pair w i : Nat) : Nat := bytesToNat (s.readVia (d.metaAt s.module pair w + 2 * i) 2)

/-- Bytes of a home written. -/
def State.homeWrite (s : State) (pa : Nat) (bs : List Byte) : State := s.writeVia pa ((List.range bs.length).zip bs)

def State.setMeta (s : State) (d : Desc) (pair w i v : Nat) : State := s.homeWrite (d.metaAt s.module pair w + 2 * i) (natToBytes 2 v)

/-- Whether a row is fresh enough for a gather (R79). -/
def State.fresh (s : State) (d : Desc) (g : Gather) : Bool :=
  d.smode = 2 || stepReaches (s.metaField d g.pair g.row 0) ((g.step + 131072 - 1 - d.sbound) % 65536)

/-- A request for a row's bytes, as the range rules see it (R63). -/
def homeAccess (who : Agent) (core key : Nat) (op : ReqOp) (pa len : Nat) : Request where
  who := .agent who
  core := core
  key := key
  op := op
  pa := pa
  len := len

/-- What a home answers to one gather. -/
inductive GatherAnswer where
  | row (data : List Byte) (poison : Bool) (val : Option Nat)
  | refused (x : Refused)
  | returned
  deriving DecidableEq, Repr

/-- A gather on its way to its home, or back (R79). -/
def State.sendGather (s : State) (g : Gather) (home : Bool) : State :=
  let m := if home then g.pair / 512 else moduleOfNumber g.core
  s.sendTo (if home then coreNumber m (.lc (g.pair % 512)) else g.core) (if home then g.core else coreNumber s.module (.lc (g.pair % 512)))
    g.key (if g.peek then 0x52 else 0x41) 0 0 (if home then .homeGather g else .gatherResend { g with since := s.cycle }) (.gather g)

/-- One requester answered. -/
def State.answerOne (s : State) (x : GatherAnswer) (g : Gather) : State :=
  match x with
  | .row bs p v => s.sendReply g.core g.key { who := .agent g.who, dest := .area g.area g.d (v.getD g.count), data := bs, poison := p, row := some g.row }
  | .refused r => s.sendReply g.core g.key { who := .agent g.who, dest := .area g.area g.d 0, refused := some r }
  | .returned => s.sendGather { g with tries := g.tries + 1, merge := none } false

/-- A gather answered, with every request that its merge entry joined (R84). -/
def State.answerGather (s : State) (g : Gather) (x : GatherAnswer) : State :=
  match g.merge with
  | none => s.answerOne x g
  | some i =>
    let joined := (s.homes.merges.filter fun (e : MergeEntry) => e.id = i).flatMap fun (e : MergeEntry) => e.joined
    let s1 := { s with homes := { s.homes with merges := s.homes.merges.filter fun (e : MergeEntry) => e.id ≠ i } }
    (g :: joined).foldl (fun y h => y.answerOne x h) s1

/-- A gather that passes its merge point: joined to an entry, or the gather that goes on (R83). -/
def State.mergeGather (s : State) (g : Gather) : Option Gather × State :=
  if g.peek || s.regs.rcontrol.getLsbD 32 then (some g, s)
  else
    let same (e : MergeEntry) : Bool :=
      e.first.pair = g.pair && e.first.key = g.key && e.first.tid = g.tid && e.first.row = g.row && e.first.step = g.step
        && !e.closed && decide (e.joined.length + 1 < 16)
    match s.homes.merges.find? same with
    | some e =>
      let (go, s1) := s.freeBool
      if go then
        let s2 := s1.countSector (g.pair % 512 / 16) 0x0103 1
        (none, { s2 with homes := { s2.homes with
          merges := s2.homes.merges.map fun (f : MergeEntry) => if f.id = e.id then { f with joined := f.joined ++ [g] } else f } })
      else (some g, s1)
    | none =>
      if s.homes.merges.length < 256 then
        let h := { g with merge := some s.homes.nextMerge }
        (some h, { s with homes := { s.homes with
          merges := s.homes.merges ++ [{ id := s.homes.nextMerge, first := h, joined := [], closed := false, born := s.cycle }]
          nextMerge := s.homes.nextMerge + 1 } })
      else (some g, s)

/-- The answer that a home can give a gather now; none where it must wait. -/
def State.gatherAnswer (s : State) (g : Gather) : Option GatherAnswer :=
  match s.tableAt g.pair g.key g.tid with
  | none => some (.refused ⟨0x0D, 0x09, g.row⟩)
  | some d =>
    let pa := d.rowAt s.module g.pair g.row
    match (s.checkRanges (homeAccess g.who g.core g.key .load pa d.rowBytes)).1 with
    | some x => some (.refused x)
    | none =>
      let a := s.metaField d g.pair g.row 0
      if s.fresh d g then
        some (.row (s.readVia pa d.rowBytes) (s.poisonVia pa (List.range d.rowBytes)) (if g.peek then some a else none))
      else if g.peek then some (.row [] false (some (0x10000 + a)))
      else none

/-- A table operation that a slice serves counts for its region (R29). -/
def State.countTable (s : State) (pair key tid : Nat) (f : Desc → Nat) : State :=
  match s.tableAt pair key tid with
  | some d => s.countAccess (f d)
  | none => s

def execHomeGather (g : Gather) (s : State) : Out :=
  .next (match s.mergeGather g with
    | (none, s1) => s1
    | (some g1, s0) =>
      let s1 := s0.countTable g.pair g.key g.tid fun d => d.rowAt s.module g.pair g.row
      match s1.gatherAnswer g1 with
      | some x => s1.answerGather g1 x
      | none =>
        if maxWaitList ≤ (s1.homes.waiting.filter fun w => w.1 = g.pair % 512).length then s1.answerGather g1 .returned
        else
          let s2 := s1.countSector (g.pair % 512 / 16) 0x0104 1
          { s2 with homes := { s2.homes with waiting := s2.homes.waiting ++ [(g.pair % 512, { g1 with since := s2.cycle })] } })

/-- The cycle in which a gather that has been returned is sent again: 64 memory cycles after its first return, twice as many after each further
one, up to 4,096 (R79). -/
def resendAt (g : Gather) : Nat := g.since + memoryCycles (64 * 2 ^ min (g.tries - 1) 6)

def execGatherResend (g : Gather) (s : State) : Out :=
  -- returned at a gang stop, it is sent again once its key is back (R383, R387)
  .next (if s.gang.suspended.contains g.key || decide (s.cycle < resendAt g) then s.push (.gatherResend g)
    else s.sendGather { g with since := 0 } true)

/-- The waiting gathers that a test picks, in arrival order, answered where their home now can (R79). -/
def State.reevaluate (s : State) (f : Nat × Gather → Bool) : State :=
  (s.homes.waiting.filter f).foldl (fun x w =>
    match x.gatherAnswer w.2 with
    | none => x
    | some y => ({ x with homes := { x.homes with waiting := x.homes.waiting.erase w } }).answerGather w.2 y) s

/-- A waiting gather refused. -/
def State.refuseWaiting (s : State) (f : Nat × Gather → Bool) (x : Gather → Refused) : State :=
  (s.homes.waiting.filter f).foldl (fun y w =>
    ({ y with homes := { y.homes with waiting := y.homes.waiting.erase w } }).answerGather w.2 (.refused (x w.2))) s

/-- A gather that has waited beyond `reduce_control`'s limit for its entry's steps is refused (R85); limit 0 is no limit. -/
def State.gatherTimedOut (s : State) (pair index : Nat) : State :=
  if s.regs.rcontrol.extractLsb' 0 32 = 0#32 then s
    else match (s.homes.waiting.filter fun w => w.1 = pair)[index]? with
      | none => s
      | some w => s.refuseWaiting (fun v => v = w) fun g => ⟨0x14, 0x03, g.row⟩

def execGatherWaitTimeout (pair index : Nat) (s : State) : Out := .next (s.gatherTimedOut pair index)

/-- A merge entry that takes no more requests (R83). -/
def State.closeMerge (s : State) (id : Nat) : State :=
  { s with homes := { s.homes with
    merges := s.homes.merges.map fun (e : MergeEntry) => if e.id = id then { e with closed := true } else e } }

def execMergeWindowExpiry (id : Nat) (s : State) : Out :=
  .next (s.closeMerge id)

/-- A table removed from this module's homes (R282): at how many it was installed. -/
def State.removeHere (s : State) (d : Desc) : Nat × State :=
  let pairs := d.pairsOn s.module
  let mine (t : Nat × BitVec 512) : Bool := pairs.contains t.1 && (descOf t.2).key = d.key && (descOf t.2).tid = d.tid
  let n := (s.homes.tables.filter mine).length
  let s1 := { s with homes := { s.homes with tables := s.homes.tables.filter fun t => !mine t } }
  (n, s1.refuseWaiting (fun w => pairs.contains w.1 && w.2.key = d.key && w.2.tid = d.tid) fun g => ⟨0x0D, 0x09, g.row⟩)

/-! ### Accumulates (R81, R270, R275, R291) -/

/-- The checks of an accumulate that do not depend on the moment of applying (R270). -/
def State.accumChecked (s : State) (a : Accum) : Except Refused Desc :=
  match s.tableAt a.pair a.key a.tid with
  | none => .error ⟨0x0D, 0x09, a.row⟩
  | some d =>
    if a.fmt ≠ 8 ∧ a.fmt ≠ d.fmtNo then .error ⟨0x0D, 0x07, a.row⟩
    else if d.rows ≤ a.row ∨ d.elems < a.e0 + a.vals.length then .error ⟨0x13, 0x25, a.row⟩
    else
      let p := a.step8 % 2
      match (s.checkRanges (homeAccess a.who a.core a.key (.radd 0#2) (d.gradAt s.module a.pair a.row p + 4 * a.e0) (4 * a.vals.length))).1 with
      | some x => .error { x with tval := a.row }
      | none => .ok d

/-- An accumulate applied under its step (R81). -/
def State.applyAccum (s : State) (d : Desc) (a : Accum) : Option Refused × State :=
  let p := a.step8 % 2
  let dlt := (a.step8 % 256 + 256 - s.metaField d a.pair a.row (1 + p) % 256) % 256
  if dlt = 0 then
    let g := d.gradAt s.module a.pair a.row p
    let s1 := a.vals.zipIdx.foldl (fun (x : State) (v : Option (BitVec 32) × Nat) =>
      match v.1 with
      | none => x
      | some y =>
        let at' := g + 4 * (a.e0 + v.2)
        let sum := (addVal 0 (fmtF32.decode (bytesToNat (x.readVia at' 4))) (fmtF32.decode y.toNat)).round fmtF32 0 0
        x.homeWrite at' (natToBytes 4 sum.code)) s
    let s2 := if a.poison then s1.addPoison (g + 4 * a.e0) (4 * a.vals.length) else s1
    (none, s2.setMeta d a.pair a.row (3 + p) (min (s.metaField d a.pair a.row (3 + p) + 1) 0xFFFF))
  else (some ⟨0x14, if 128 ≤ dlt then 0x01 else 0x02, a.row⟩, s.countSector (a.pair % 512 / 16) 0x0105 1)

/-- The answer to an accumulate's journal entry. -/
def State.answerAccum (s : State) (a : Accum) (x : Option Refused) : State :=
  match a.jent with
  | some j => s.sendAck a.core a.key a.who j x true
  | none => s

/-- An accumulate applied or refused at its home, whether it arrives or its commit does. -/
def State.accumulate (s : State) (a : Accum) : State :=
  match s.accumChecked a with
  | .error x => s.answerAccum a (some x)
  | .ok d =>
    match s.linesReady (d.gradAt s.module a.pair a.row (a.step8 % 2) + 4 * a.e0) (4 * a.vals.length) with
    | (false, s1) => s1.push (.homeAccumulate { a with held := false })
    | (true, s1) =>
      let (x, s2) := s1.applyAccum d a
      s2.answerAccum a x

def execHomeAccumulate (a : Accum) (s : State) : Out :=
  let s1 := s.countTable a.pair a.key a.tid fun d => d.gradAt s.module a.pair a.row (a.step8 % 2)
  .next (match a.held, a.jent with
    | true, some j =>
      (match s.accumChecked a with
        | .error x => s1.answerAccum a (some x)
        | .ok _ => s1.holdPending (.agent a.who) j (.accum a))
    | _, _ => s1.accumulate a)

/-! ### Row write-backs and zeroing (R82, R292, R293) -/

def execHomeRowWriteback (w : RowWrite) (s : State) : Out :=
  let reply (x : State) (n : Nat) (r : Option Refused) : State :=
    x.sendReply w.core w.key { who := .agent w.who, dest := .count w.d, data := natToBytes 1 n, refused := r, row := some w.row }
  .next (match s.tableAt w.pair w.key w.tid with
    | none => reply s 0 (some ⟨0x0D, 0x09, w.row⟩)
    | some d =>
      let pa := d.rowAt s.module w.pair w.row
      let a := s.metaField d w.pair w.row 0
      match (s.checkRanges (homeAccess w.who w.core w.key .store pa w.data.length)).1 with
      | some x => reply (s.countAccess pa) 0 (some x)
      | none =>
        let s := s.countAccess pa
        if stepReaches w.step a = false ∨ w.step = a then reply s 1 none
        else match s.linesReady pa w.data.length with
          | (false, s1) => s1.push (.homeRowWriteback w)
          | (true, s1) =>
            let s2 := s1.homeWrite pa w.data
            let s3 := (if w.poison then s2.addPoison pa w.data.length else s2).setMeta d w.pair w.row 0 w.step
            reply (s3.reevaluate fun v => v.1 = w.pair % 512 && v.2.row = w.row && v.2.key = w.key && v.2.tid = w.tid) 0 none)

def execHomeZero (z : RowZero) (s : State) : Out :=
  let reply (x : State) (n : Nat) (r : Option Refused) : State :=
    x.sendReply z.core z.key { who := .agent z.who, dest := .area 0 z.d n, refused := r, row := some z.row }
  .next (match s.tableAt z.pair z.key z.tid with
    | none => reply s 0 (some ⟨0x0D, 0x09, z.row⟩)
    | some d =>
      let p := z.k % 2
      let g := d.gradAt s.module z.pair z.row p
      match (s.checkRanges (homeAccess z.who z.core z.key .store g (4 * d.elems))).1 with
      | some x => reply (s.countAccess g) 0 (some x)
      | none =>
        let s := s.countAccess g
        if s.metaField d z.pair z.row (1 + p) ≠ z.k then reply s 1 none
        else if s.metaField d z.pair z.row (3 + p) ≠ z.c then reply s 2 none
        else match s.linesReady g (4 * d.elems) with
          | (false, s1) => s1.push (.homeZero z)
          | (true, s1) =>
            let s2 := s1.homeWrite g (List.replicate (4 * d.elems) 0#8)
            reply ((s2.setMeta d z.pair z.row (3 + p) 0).setMeta d z.pair z.row (1 + p) ((z.k + 2) % 65536)) 0 none)

end Sys2Proof.Machine
end

