-- ==== Sys2Proof/Machine/Ranges.lean ====
section
/-! DEFINITION. Range registration, mapping, publish and subscribe, and the commands that a home serves, for this module and for
others (R59 to R73, R274, R282), with the commit of a waypoint's pending operations (R103, R275). -/

namespace Sys2Proof.Machine

/-! ### Registering and removing (R59 to R62, R66) -/

/-- The extent that a range of a space must lie within (R59); none: not rangeable. -/
def rangeExtent (sp : Nat) : Option Nat :=
  match sp with
  | 0 => some 0x30000000
  | 1 => some 0x1000
  | 2 => some 0x1000
  | 3 => some 0x1000000
  | 5 => some 0x200000
  | _ => none

/-- The kind, number and entries of the home of an address (R59, R60). -/
def rangeHome (lo : Nat) : Nat × Nat × Nat :=
  match spaceOf lo with
  | 3 => (1, bitsOf (offsetOf lo) 28 24, 1024)
  | 5 => (2, 0, 4096)
  | _ => (0, homePair lo, 256)

/-- Where an entry's tag is kept. -/
def tagIndex (kind home entry : Nat) : Nat := (kind * 512 + home) * 4096 + entry

def State.setRanges (s : State) (gs : List Range) : State := { s with homes := { s.homes with ranges := gs } }

/-- The live range that a token names for a key (R60). -/
def State.rangeOf (s : State) (key tok : Nat) : Option Range :=
  s.homes.ranges.find? fun g => (rangeToken s.module g).toNat = tok && g.key = key

/-- A range changed, found by its token. -/
def State.mapRange (s : State) (tok : Nat) (f : Range → Range) : State :=
  s.setRanges (s.homes.ranges.map fun g => if (rangeToken s.module g).toNat = tok then f g else g)

/-- A refusal of a home command: cause, tval, tinfo. -/
def no (cause tval tinfo : Nat) : List Nat := [1, cause, tval, tinfo]

/-- RBIND at its home: checks 4 and 5 of R62, and the entry. `named` is the address that the instruction names (R61). -/
def State.bindRange (s : State) (key lo len rights named : Nat) : Option Nat × List Nat × State :=
  let writable : Bool := rights % 4 ≠ 0
  match s.homes.ranges.find? (fun g => overlaps lo (lo + len - 1) g.lo (g.lo + g.len - 1) && (writable || g.rights.extractLsb' 0 2 ≠ 0#2)) with
  | some g => (none, no 0x0C (if g.key = key then g.lo else 0) (bit (g.rights.extractLsb' 0 2 ≠ 0#2)), s)
  | none =>
    let (kind, home, cap) := rangeHome lo
    let used := (s.homes.ranges.filter fun (g : Range) => g.kind = kind && g.home = home).map fun (g : Range) => g.entry
    match (List.range cap).find? (fun e => !used.contains e) with
    | none => (none, no 0x0D named 0x03, s)
    | some e =>
      let g : Range := {
        kind := kind
        home := home
        entry := e
        key := key
        lo := lo
        len := len
        rights := BitVec.ofNat 3 rights
        tag := getAt s.homes.tags (tagIndex kind home e) 0
        mapper := none
        lost := false
        version := 0
        draining := false
        held := [] }
      (some (rangeToken s.module g).toNat, [], s.setRanges (s.homes.ranges ++ [g]))

/-- A range removed, with its subscriptions; the entry's tag rises (R66). -/
def State.removeRange (s : State) (g : Range) : State :=
  let s1 := s.setRanges (s.homes.ranges.filter (· ≠ g))
  let ix := tagIndex g.kind g.home g.entry
  { s1 with homes := { s1.homes with
    tags := setAt s1.homes.tags ix ((getAt s1.homes.tags ix 0 + 1) % 65536)
    subs := s1.homes.subs.filter fun (u : Subscriber) => u.token ≠ rangeToken s.module g } }

/-- Whether a range shares a byte with an area of an installed table (R67). -/
def State.overTable (s : State) (g : Range) : Bool :=
  s.homes.tables.any fun t =>
    let d := descOf t.2
    d.areas.any fun a => d.locals * a.2 ≠ 0 &&
      overlaps g.lo (g.lo + g.len - 1) (pairBase s.module t.1 + a.1) (pairBase s.module t.1 + a.1 + d.locals * a.2 - 1)

/-- RMAP at its home (R67): the refusals in order, then the mapper's record and the bytes with their poison. -/
def State.mapHere (s : State) (core key tok ofs space mapped : Nat) : List Nat × State :=
  match s.rangeOf key tok with
  | none => (no 0x0D tok 0x04, s)
  | some g =>
    if g.kind = 2 then (no 0x0D tok 0x02, s)
    else if ofs % 64 ≠ g.lo % 64 ∨ space < ofs + g.len then (no 0x05 ofs 0, s)
    else if maxMappings ≤ mapped then (no 0x0D tok 0x03, s)
    else if g.mapper.isSome ∨ s.overTable g = true then (no 0x0D tok 0x06, s)
    else if g.rights.getLsbD 2 = false then (no 0x0D tok 0x05, s)
    else if g.lost then (no 0x0D tok 0x0A, s)
    else
      let bs := s.read g.lo g.len
      ([3, tok, ofs, bit (s.poisoned g.lo g.len), bit (g.rights.extractLsb' 0 2 ≠ 0#2), g.lo] ++ bs.map (·.toNat), s.mapRange tok fun x => { x with mapper := some (core, ofs, key) })

/-! ### Subscriptions and announcements (R71 to R73) -/

/-- LSTN at the producer's home. -/
def State.subscribe (s : State) (key tok module pa ms : Nat) : Option (List Nat) × Nat × State :=
  match s.rangeOf key tok with
  | none => (some (no 0x0D tok 0x04), 0, s)
  | some g =>
    let t := rangeToken s.module g
    let others := s.homes.subs.filter fun (u : Subscriber) => !(u.token = t && u.module = module)
    let here := others.filter fun (u : Subscriber) => u.token.extractLsb' 41 11 = t.extractLsb' 41 11
    if s.admits module key = false then (some (no 0x15 0 0), 0, s)
    else if maxSubscribers ≤ here.length then (some (no 0x0D tok 0x03), 0, s)
    else (none, g.len, { s with homes := { s.homes with
      subs := others ++ [{ token := t, module := module, key := key, pa := pa, msPa := ms }] } })

def State.unsubscribe (s : State) (tok module : Nat) : State :=
  { s with homes := { s.homes with
    subs := s.homes.subs.filter fun (u : Subscriber) => !(u.token.toNat = tok && u.module = module) } }

/-- A CPMC is told of a failure, as its detail and value, and of the last answer (R73, R148). -/
def State.copyServed (s : State) (core key unit cmd : Nat) (bad : Option (Nat × Nat)) (last : Bool) : State :=
  if moduleOfNumber core = s.module then
    let s1 := match bad with
      | some m => s.mapCopy unit cmd fun (c : CopyCmd) => { c with fault := some (c.fault.getD m) }
      | none => s
    if last then (s1.mapCopy unit cmd fun (c : CopyCmd) => { c with busy := false, puts := 1 }).push (.copyBeat unit) else s1
  else if bad = none ∧ last = false then s
  else s.sendPacket core (coreNumber s.module (.lc 0)) key 0 0 0 0 0
    (.done (.copy unit cmd) 0xA5 ((match bad with
      | some m => [m.1, m.2]
      | none => [0, 0]) ++ [bit last]))

/-- Whether an announcement of a range is still being delivered. -/
def State.delivering (s : State) (tok : Nat) : Bool := s.homes.announced.any fun n => n.token.toNat = tok

/-- The RFREEs of a range complete once its deliveries have been answered (R66). -/
def State.freesDone (s : State) (tok : Nat) : State :=
  if s.delivering tok then s
  else
    let mine := s.homes.frees.filter fun f => f.token = tok
    mine.foldl (fun x f =>
      if moduleOfNumber f.core = x.module then x.wake f.who 0x34
      else x.sendPacket f.core (coreNumber x.module (.lc 0)) f.key 0 0 0 0 0 (.done (.agent f.who) 0x34 [0]))
      { s with homes := { s.homes with frees := s.homes.frees.filter fun f => f.token ≠ tok } }

/-- One delivery of an announcement is answered; a failed one ends its subscription and refuses the entry (R73). -/
def State.announceAnswer (s : State) (w : Who) (jent tok module : Nat) (ok : Bool) : State :=
  match s.homes.announced.find? (fun (n : Announce) => n.who = w && n.jent = jent && n.token.toNat = tok) with
  | none => if ok then s else s.unsubscribe tok module
  | some n =>
    let s1 := if ok then s else s.unsubscribe tok module
    let s2 := match w, ok with
      | .agent a, false => s1.sendAck n.core n.key a jent (some ⟨0x13, 0, module⟩) false
      | _, _ => s1
    let rest := s2.homes.announced.map fun (x : Announce) => if x = n then { x with left := x.left - 1 } else x
    let s3 := ({ s2 with homes := { s2.homes with announced := rest.filter fun (x : Announce) => x.left ≠ 0 } }).freesDone tok
    match w with
    | .agent a => if n.left ≤ 1 then s3.sendAck n.core n.key a jent none true else s3
    | .copy unit cmd => s3.copyServed n.core n.key unit cmd (if ok then none else some (0x07, module)) (decide (n.left ≤ 1))
    | _ => s3

/-- The bytes of a range multicast to its subscribers (R72). -/
def State.multicast (s : State) (w : Who) (core key jent : Nat) (g : Range) (ofs : Nat) (bs : List Byte) (poison : Bool) : State :=
  let t := rangeToken s.module g
  let subs := s.homes.subs.filter fun (u : Subscriber) => u.token = t
  let s1 := { s.mapRange t.toNat (fun x => { x with version := x.version + 1#32 }) with homes := { (s.mapRange t.toNat (fun x => { x with version := x.version + 1#32 })).homes with
    announced := if subs = [] then s.homes.announced
      else s.homes.announced ++ [{ who := w, core := core, key := key, jent := jent, token := t, left := subs.length }] } }
  let s2 := subs.foldl (fun (x : State) (u : Subscriber) =>
    let d : Delivery := {
      who := w
      key := u.key
      module := s.module
      pa := u.pa + ofs
      data := bs
      msPa := u.msPa
      jent := some jent
      token := t.toNat
      ok := true
      poison := poison
      version := (g.version + 1#32).toNat }
    if u.module = s.module then x.push (.subscriberDelivery d)
    else if x.admits u.module key then
      x.sendPacket (coreNumber u.module (.lc (homeCore u.pa))) core key 0x38 0 0 d.pa ((bs.length + 63) / 64) (.delivery d)
    else x.announceAnswer w jent t.toNat u.module false) s1
  match w, subs with
  | .agent a, [] => s2.sendAck core key a jent none true
  | .copy unit cmd, [] => s2.copyServed core key unit cmd none true
  | _, _ => s2

/-- Who announces, as operands of a message. -/
def whoArgs (w : Who) : List Nat :=
  match w with
  | .agent (.thread c t) => [0, c, t]
  | .agent (.bank j b) => [1, j, b]
  | .copy u c => [2, u, c]
  | _ => [3, 0, 0]

def whoOf (k a b : Nat) : Who :=
  match k with
  | 0 => .agent (.thread a b)
  | 1 => .agent (.bank a b)
  | 2 => .copy a b
  | _ => .host

/-- The message that asks the mapper of a range, on another module, for announced bytes: byte `ofs` of the scratchpad of core `core` (R72). -/
def readRows : Nat := 0xF0

/-- ANNC, or a CPMC, at its home (R72, R145). -/
def State.announce (s : State) (w : Who) (core key tok ofs len jent : Nat) : State :=
  let refuse (c d v : Nat) : State := match w with
    | .agent a => s.sendAck core key a jent (some ⟨c, d, v⟩) true
    | .copy unit cmd => s.copyServed core key unit cmd (some (0x08, 0)) true
    | _ => s
  match s.rangeOf key tok with
  | none => refuse 0x0D 0x04 tok
  | some g =>
    if len = 0 ∨ g.len < ofs + len then refuse 0x0D 0x01 tok
    else if g.lost then refuse 0x0D 0x0A tok
    else if g.rights.getLsbD 2 = false then refuse 0x0D 0x05 tok
    else if g.draining then
      { s with homes := { s.homes with heldAnnounces := s.homes.heldAnnounces ++
        [{ token := BitVec.ofNat 64 tok, who := w, core := core, key := key, jent := jent, ofs := ofs, len := len, after := g.held.length }] } }
    else match s.awayMapper g with
    | some (m, u, at') => s.sendPacket (coreNumber m u) (coreNumber s.module (.lc 0)) key 0 0 0 0 0
        (.command (.thread 0 0) readRows ([coreNumber m u, at' + ofs, len, tok, ofs, core, jent] ++ whoArgs w ++ [key]))
    | none => s.multicast w core key jent g ofs (s.readVia (g.lo + ofs) len) (s.poisonVia (g.lo + ofs) (List.range len))

/-- The announced bytes come from their mapper on another module: they are multicast (R72). -/
def State.rowsRead (s : State) (key tok ofs core jent : Nat) (w : Who) (bs : List Byte) (poison : Bool) : State :=
  match s.homes.ranges.find? (fun g => (rangeToken s.module g).toNat = tok) with
  | some g => s.multicast w core key jent g ofs bs poison
  | none => match w with
    | .agent a => s.sendAck core key a jent (some ⟨0x0D, 0x04, tok⟩) true
    | .copy unit cmd => s.copyServed core key unit cmd (some (0x08, 0)) true
    | _ => s

/-- ANNC's arrival: under an open waypoint it is checked and held (R275). -/
def State.announceArrives (s : State) (a : Agent) (core key tok ofs len jent : Nat) (held : Bool) : State :=
  if held then
    match s.rangeOf key tok with
    | none => s.sendAck core key a jent (some ⟨0x0D, 0x04, tok⟩) true
    | some g =>
      if len = 0 ∨ g.len < ofs + len then s.sendAck core key a jent (some ⟨0x0D, 0x01, tok⟩) true
      else if g.lost then s.sendAck core key a jent (some ⟨0x0D, 0x0A, tok⟩) true
      else if g.rights.getLsbD 2 = false then s.sendAck core key a jent (some ⟨0x0D, 0x05, tok⟩) true
      else s.holdPending (.agent a) jent (.command a 0x38 [core, key, tok, ofs, len])
  else s.announce (.agent a) core key tok ofs len jent

/-- Whether an earlier announcement of the same range has not landed at this subscriber yet (R73). -/
def earlierDelivery (d : Delivery) (i : Instr) : Bool :=
  match i with
  | .subscriberDelivery e => e.token = d.token && e.module = d.module && e.msPa = d.msPa && decide (e.version < d.version)
  | _ => false

def execSubscriberDelivery (d : Delivery) (s : State) : Out :=
  let n := d.data.length
  let answer (x : State) (ok : Bool) : State :=
    if d.module = s.module then x.announceAnswer d.who (d.jent.getD 0) d.token s.module ok
    else x.sendPacket (coreNumber d.module (.lc 0)) (coreNumber s.module (.lc 0)) d.key 0 0 0 0 0
      (.done d.who 0x38 [d.jent.getD 0, d.token, s.module, bit ok])
  let r : Request := { who := d.who, core := coreNumber s.module (.lc 0), key := d.key, op := .store, pa := d.pa, len := n }
  let shut (pa : Nat) : Bool := spaceOf pa = 4 && (match windowCore (offsetOf pa) with
    | some u => !s.holdsKey u d.key
    | none => true)
  .next (if s.agenda.any (earlierDelivery d) then s.push (.subscriberDelivery d)
    else if shut d.pa || shut d.msPa || (s.checkRanges r).1.isSome then answer s false
    else match s.linesReady (canon d.pa) n with
      | (false, s1) => s1.push (.subscriberDelivery d)
      | (true, s1) =>
        let s2 := s1.homeWrite (canon d.pa) d.data
        let s3 := if d.poison then s2.addPoison (canon d.pa) n else s2
        answer (s3.contribute d.msPa n) true)

/-! ### The end of a mapping (R69, R70) -/

/-- The home takes the rows back and releases what it held, in arrival order (R69). -/
def State.rdoneHome (s : State) (tok : Nat) (bs : List Byte) (poison : Bool) : State :=
  match s.homes.ranges.find? (fun g => (rangeToken s.module g).toNat = tok) with
  | none => s
  | some g =>
    let s1 := s.mapRange tok fun x => { x with mapper := none, draining := false, held := [] }
    let s2 := if g.lost ∨ bs = [] then s1 else if poison then (s1.write g.lo bs).addPoison g.lo bs.length else s1.write g.lo bs
    let waiting := s2.homes.heldAnnounces.filter fun (n : HeldAnnounce) => n.token.toNat = tok
    let s3 := { s2 with homes := { s2.homes with heldAnnounces := s2.homes.heldAnnounces.filter fun (n : HeldAnnounce) => n.token.toNat ≠ tok } }
    let tell (x : State) (k : Nat) : State := (waiting.filter fun (n : HeldAnnounce) => n.after = k).foldl
      (fun (y : State) (n : HeldAnnounce) => y.announce n.who n.core n.key tok n.ofs n.len n.jent) x
    tell (g.held.zipIdx.foldl (fun x r => (tell x r.2).atHome r.1) s3) g.held.length

/-- The mapping's bytes in its core's scratchpad. -/
def State.mappedBytes (s : State) (core ofs len : Nat) : List Byte × Bool :=
  let pa := windowAddr s.module (.lc core) ofs
  (s.read pa len, s.poisoned pa len)

def State.dropMapping (s : State) (core tok : Nat) : State :=
  s.setLp core { s.lp core with mappings := (s.lp core).mappings.filter fun (m : Mapping) => m.token.toNat ≠ tok }

/-- RDONE at its home: from now on requests are held, and the end marker follows those already forwarded (R69). -/
def State.rdoneStart (s : State) (core key tok : Nat) (who : Option Agent) : List Nat × State :=
  match s.rangeOf key tok with
  | none => (no 0x0D tok 0x04, s)
  | some g =>
    match g.mapper with
    | none => (no 0x0D tok 0x06, s)
    | some (c, _, _) =>
      if c ≠ core ∨ g.draining = true then (no 0x0D tok 0x06, s)
      else
        let s1 := s.mapRange tok fun x => { x with draining := true }
        if moduleOfNumber core = s.module then
          (match coreOfNumber core with
            | some (.lc i) => ([], s1.push (.rdoneEndMarker i tok who))
            | _ => ([], s1))
        else ([4, tok, bit (g.rights.extractLsb' 0 2 ≠ 0#2), g.len], s1)

/-- The core ends the mappings that a test picks, in the order they were made (R70): each as RDONE does, its home here or on another module, which
answers with the end marker. A mapping that its home does not know any more goes at once. -/
def State.endMappings (s : State) (core : Nat) (f : Mapping → Bool) : State :=
  ((s.lp core).mappings.filter fun m => f m && !m.ending).foldl (fun (x : State) (m : Mapping) =>
    let tok := m.token.toNat
    let me := coreNumber x.module (.lc core)
    let marked : State := x.setLp core { x.lp core with mappings := (x.lp core).mappings.map fun n => if n = m then { n with ending := true } else n }
    if tok / 2 ^ 52 = x.module then
      (match x.homes.ranges.find? (fun g => (rangeToken x.module g).toNat = tok && g.mapper.any fun q => q.1 = me) with
        | some g => (marked.rdoneStart me g.key tok none).2
        | none => x.dropMapping core tok)
    else marked.sendPacket (coreNumber (tok / 2 ^ 52) (.lc 0)) me (x.lp core).key 0x36 0 0 0 0 (.command (.thread core 0) 0x36 [tok, 5])) s

/-! ### Tables of several modules (R282) -/

/-- The LTAB of an agent, told of one module's part. -/
def State.tableAnswer (s : State) (a : Agent) (n : Nat) (added : List Nat) (x : Option Refused) : State :=
  match s.homes.tableRuns.find? (fun (r : TableRun) => r.who = a) with
  | none => s
  | some r =>
    let q : TableRun := { r with left := r.left - 1, total := r.total + n, added := r.added ++ added, failed := if r.rm then none else r.failed.orElse fun _ => x }
    let put (l : List TableRun) : State := { s with homes := { s.homes with tableRuns := l } }
    let others := s.homes.tableRuns.filter fun (t : TableRun) => t.who ≠ a
    if q.left ≠ 0 then put (others ++ [q])
    else
      let s1 := put others
      match q.failed with
      | none => (s1.setCtx a ((s1.ctx a).writeX q.d (BitVec.ofNat 64 q.total))).finish a 0x40
      | some f =>
        -- removed again from every home that accepted it
        let d := descOf q.desc
        let here := (q.added.filter fun p => p / 512 = s1.module).map (· % 512)
        let s2 := { s1 with homes := { s1.homes with tables := s1.homes.tables.filter fun t => !(here.contains t.1 && t.2 = q.desc) } }
        let mods := ((q.added.map (· / 512)).filter (· ≠ s1.module)).eraseDups
        let s3 := mods.foldl (fun x m => x.sendPacket (coreNumber m (.lc 0)) (x.coreNo a) d.key 0x40 0 0 0 0
          (.command a 0x40 ([3, q.desc.toNat] ++ (q.added.filter fun p => p / 512 = m).map (· % 512)))) s2
        s3.failStep a 0x40 { cause := f.cause, tval := BitVec.ofNat 64 f.tval, tinfo := BitVec.ofNat 64 f.detail }

/-- The pairs of this module that an installation has added. -/
def State.addedPairs (before after : State) (d : BitVec 512) : List Nat :=
  (((after.homes.tables.filter fun t => t.2 = d && !before.homes.tables.contains t).map (·.1)).map (· + 512 * before.module))

/-- One module's part of LTAB: homes reached, pairs added, refusal. -/
def State.tableHere (s : State) (rm : Bool) (d : BitVec 512) : Nat × List Nat × Option Refused × State :=
  if rm then
    let (n, s1) := s.removeHere (descOf d)
    (n, [], none, s1)
  else
    let (x, s1) := s.installHere d
    (((descOf d).pairsOn s.module).length, s.addedPairs s1 d, x, s1)

/-! ### Scrubbing (R348) -/

/-- Whether a granule, by its number on the owned alias, lies in `n` bytes from `pa`. -/
def granuleIn (pa n g : Nat) : Bool :=
  if spaceOf pa = 1 then (List.range (n / 64)).any fun i => canon (pa + 64 * i) / 64 = g
  else decide (pa ≤ g * 64) && decide (g * 64 < pa + n)

/-- The poisoned granules of a region zeroed, and their number. A corrected error changes no byte. -/
def State.scrub (s : State) (pa n : Nat) : Nat × State :=
  let gs := s.poison.filter (granuleIn pa n)
  (gs.length, gs.foldl (fun x g => x.write (g * 64) (List.replicate 64 0#8)) s)

/-! ### Commands to homes -/

/-- A command served by this module's homes: the answer, where it is ready at once. -/
def State.homeCommand (s : State) (a : Agent) (core key top : Nat) (args : List Nat) : List Nat × State :=
  match top, args with
  | 0x33, [lo, len, rights, d, named] =>
    (match s.bindRange key lo len rights named with
      | (some tok, _, s1) => ([0, tok, d], s1)
      | (none, r, s1) => (r, s1))
  | 0x34, [tok] =>
    (match s.rangeOf key tok with
      | none => (no 0x0D tok 0x04, s)
      | some g =>
        if g.mapper.isSome then (no 0x0D tok 0x06, s)
        -- no delivery is made any more; one under way completes first (R66)
        else if s.delivering tok then
          ([], let s1 := s.removeRange g
            { s1 with homes := { s1.homes with frees := s1.homes.frees ++ [{ who := a, core := core, key := key, token := tok }] } })
        else ([0], s.removeRange g))
  | 0x35, [tok, ofs, space, mapped] => s.mapHere core key tok ofs space mapped
  | 0x36, [tok] => s.rdoneStart core key tok (some a)
  | 0x36, [tok, 5] =>
    -- a launch's end on another module ends its mapping (R70)
    (match s.rdoneStart core key tok none with
      | ([4, _, back, n], s1) => ([8, tok, back, n], s1)
      | (_, s1) => ([9, tok], s1))
  | 0x36, [tok, 3] => ([], s.loseMapper tok)
  | 0x36, tok :: 1 :: p :: bs => ([0], s.rdoneHome tok (bs.map (BitVec.ofNat 8 ·)) (p = 1))
  | 0x36, tok :: 2 :: p :: bs => ([], s.rdoneHome tok (bs.map (BitVec.ofNat 8 ·)) (p = 1))
  | 0x37, [tok, module, _] => ([], s.unsubscribe tok module)
  | 0x37, tok :: module :: pa :: ms :: rest =>
    (match s.subscribe key tok module pa ms with
      | (some r, _, s1) => (r, s1)
      | (none, n, s1) => ([2, n, tok, pa, ms] ++ rest, s1))
  | 0x37, [tok, module] =>
    (match s.rangeOf key tok with
      | none => (no 0x0D tok 0x04, s)
      | some _ => ([0], s.unsubscribe tok module))
  | 0xF0, [n, at', len, tok, ofs, c, jent, k, u, v, ck] =>
    (match coreOfNumber n with
      | some w =>
        let pa := windowAddr s.module w at'
        ([7, tok, ofs, c, jent, k, u, v, ck, bit (s.poisoned pa len)] ++ (s.read pa len).map (·.toNat), s)
      | none => ([], s))
  | 0x38, [tok, ofs, len, jent, held] => ([], s.announceArrives a core key tok ofs len jent (held = 1))
  | 0xA5, [tok, ofs, len, unit, cmd] => ([], s.announce (.copy unit cmd) core key tok ofs len 0)
  | 0x40, [op, d] =>
    let (n, added, x, s1) := s.tableHere (op = 2) (BitVec.ofNat 512 d)
    ((match x with
      | some f => [6, f.cause, f.detail, f.tval]
      | none => [5, n]) ++ added, s1)
  | 0x40, 3 :: d :: pairs =>
    ([], { s with homes := { s.homes with tables := s.homes.tables.filter fun t => !(pairs.contains t.1 && t.2 = BitVec.ofNat 512 d) } })
  | 0xD8, [pa, n, d] =>
    let (k, s1) := s.scrub pa n
    ([0, k, d], s1)
  | _, _ => ([0], s)

/-- The local checks of LSTN, once the home has given the range's length (R71, R274). -/
def State.listenChecks (s : State) (a : Agent) (n : Nat) (o1 o2 m q : Nat) (h1 h2 : BitVec 128) : Option TrapInfo :=
  let sup := (s.ctx a).sup
  let bad (c o r : Nat) : TrapInfo := { cause := c, tval := BitVec.ofNat 64 o, tinfo := BitVec.ofNat 64 (if c = 0x03 then 0 else r) }
  match checkHandle sup h1 o1 n 1 .store true with
  | some c => some (bad c o1 m)
  | none =>
    match checkHandle sup h2 o2 16 16 .store true with
    | some c => some (bad c o2 q)
    | none => if milestoneSpace (hBase h2 + o2) then none else some (bad 0x06 o2 q)

/-- The end marker of a home on another module: the rows of a mapping go back to it, where they do (R69). -/
def State.rowsBack (s : State) (c tok op : Nat) (back : Bool) (len : Nat) : State :=
  match (s.lp c).mappings.find? (fun (m : Mapping) => m.token.toNat = tok) with
  | none => s
  | some m =>
    let (bs, p) := s.mappedBytes c m.ofs len
    (s.dropMapping c tok).sendPacket (coreNumber (tok / 2 ^ 52) (.lc 0)) (coreNumber s.module (.lc c)) (s.lp c).key 0x36 0 0 0 0
      (.command (.thread c 0) 0x36 ([tok, op, bit p] ++ (if back then bs.map (·.toNat) else [])))

/-- What a home's answer does at the core that asked (R274). -/
def State.commandAnswer (s : State) (a : Agent) (top : Nat) (res : List Nat) : State :=
  match res with
  | 5 :: n :: added => s.tableAnswer a n added none
  | 6 :: c :: d :: v :: added => s.tableAnswer a 0 added (some ⟨c, d, v⟩)
  | 7 :: tok :: ofs :: c :: jent :: k :: u :: v :: key :: p :: bs => s.rowsRead key tok ofs c jent (whoOf k u v) (bs.map (BitVec.ofNat 8 ·)) (p = 1)
  | [8, tok, back, n] =>
    -- the end marker of a home on another module, for a launch that has ended
    (match a with
      | .thread c _ => s.rowsBack c tok 2 (back = 1) n
      | .bank _ _ => s)
  | [9, tok] => (match a with
    | .thread c _ => s.dropMapping c tok
    | .bank _ _ => s)
  | _ =>
    if s.waitsFor a top = false then s
    else match res with
      | 1 :: c :: v :: t :: _ => s.failStep a top { cause := c, tval := BitVec.ofNat 64 v, tinfo := BitVec.ofNat 64 t }
      | 0 :: v :: d :: _ => (s.setCtx a ((s.ctx a).writeX (BitVec.ofNat 5 d) (BitVec.ofNat 64 v))).finish a top
      | 0 :: _ => s.finish a top
      | 2 :: n :: tok :: _ :: _ :: o1 :: o2 :: m :: q :: h1 :: h2 :: _ =>
        (match s.listenChecks a n o1 o2 m q (BitVec.ofNat 128 h1) (BitVec.ofNat 128 h2) with
          | none => s.finish a top
          | some t =>
            let m0 := tok / 2 ^ 52
            let s1 := if m0 = s.module then s.unsubscribe tok s.module
              else s.sendPacket (coreNumber m0 (.lc 0)) (s.coreNo a) (s.key a) 0x37 0 0 0 0 (.command a 0x37 [tok, s.module, 0])
            s1.failStep a top t)
      | 3 :: tok :: ofs :: p :: back :: lo :: bs =>
        (match a with
          | .thread c _ =>
            let pl := s.lp c
            let s1 := s.setLp c { pl with mappings := pl.mappings ++ [{ token := BitVec.ofNat 64 tok, ofs := ofs, tag := (s.task a).tag, len := bs.length, back := back = 1, lo := lo }] }
            let pa := windowAddr s.module (.lc c) ofs
            let s2 := s1.write pa (bs.map (BitVec.ofNat 8 ·))
            (if p = 1 then s2.addPoison pa bs.length else s2).finish a top
          | .bank _ _ => s)
      | [4, tok, back, len] =>
        -- the end marker of a home on another module
        (match a with
          | .thread c t =>
            (match (s.lp c).mappings.find? (fun (m : Mapping) => m.token.toNat = tok) with
              | none => s
              | some m =>
                let (bs, p) := s.mappedBytes c m.ofs len
                (s.dropMapping c tok).sendPacket (coreNumber (tok / 2 ^ 52) (.lc 0)) (s.coreNo a) (s.key a) 0x36 0 0 0 0
                  (.command (.thread c t) 0x36 ([tok, 1, bit p] ++ (if back = 1 then bs.map (·.toNat) else []))))
          | .bank _ _ => s)
      | _ => s

/-! The range commands of one home are served one at a time (R62): while it ends a mapping, the others wait. -/

/-- The kind and number of the home that a range command is for. -/
def commandHome (top : Nat) (args : List Nat) : Option (Nat × Nat) :=
  match top, args with
  | 0x33, lo :: _ => some ((rangeHome lo).1, (rangeHome lo).2.1)
  | 0x34, tok :: _ => some (bitsOf tok 51 50, bitsOf tok 49 41)
  | 0x35, tok :: _ => some (bitsOf tok 51 50, bitsOf tok 49 41)
  | 0x36, [tok] => some (bitsOf tok 51 50, bitsOf tok 49 41)
  | 0x36, [tok, 5] => some (bitsOf tok 51 50, bitsOf tok 49 41)
  | _, _ => none

/-- Whether a home is ending a mapping, or has commands waiting already. -/
def State.homeBusy (s : State) (h : Nat × Nat) : Bool :=
  s.homes.ranges.any (fun g => g.draining && g.kind = h.1 && g.home = h.2) || s.homes.commands.any fun c => commandHome c.top c.args = some h

/-- A command at its home: served, or made to wait. -/
def State.serveCommand (s : State) (a : Agent) (core key top : Nat) (args : List Nat) : List Nat × State :=
  if (commandHome top args).any s.homeBusy then
    ([], { s with homes := { s.homes with commands := s.homes.commands ++ [{ who := a, core := core, key := key, top := top, args := args }] } })
  else s.homeCommand a core key top args

/-- The commands that have waited, served in the order of their arrival as far as they go now. -/
def State.serveWaiting (s : State) : State :=
  s.homes.commands.foldl (fun x c =>
    let (res, y) := x.serveCommand c.who c.core c.key c.top c.args
    if res = [] then y
    else if moduleOfNumber c.core = y.module then y.commandAnswer c.who c.top res
    else y.sendPacket c.core (coreNumber y.module (.lc 0)) c.key 0 0 0 0 0 (.done (.agent c.who) c.top res))
    { s with homes := { s.homes with commands := [] } }

def execRdoneEndMarker (core token : Nat) (who : Option Agent) (s : State) : Out :=
  let ended (x : State) : State := match who with
    | some a => x.wake a 0x36
    | none => x
  .next (match s.homes.ranges.find? (fun g => (rangeToken s.module g).toNat = token) with
    | none => ended (s.dropMapping core token)
    | some g =>
      match g.mapper with
      | none => (ended ((s.dropMapping core token).rdoneHome token [] false)).serveWaiting
      | some (_, ofs, _) =>
        let (bs, p) := s.mappedBytes core ofs g.len
        let back : Bool := g.rights.extractLsb' 0 2 ≠ 0#2
        match (if back then s.linesReady g.lo g.len else (true, s)) with
        | (false, s1) => s1.push (.rdoneEndMarker core token who)
        | (true, s1) => ended ((s1.dropMapping core token).rdoneHome token (if back then bs else []) p).serveWaiting)

/-- A command of the instruction in issue to the homes of module `m` (R15, R53). -/
def State.sendCommand (s : State) (m top : Nat) (args : List Nat) : State :=
  let a := s.focus
  if m = s.module then
    let (r, s1) := (s.awaitStep top).serveCommand a (s.coreNo a) s.curKey top args
    s1.commandAnswer a top r
  else if s.admits m s.curKey then
    (s.awaitStep top).sendPacket (coreNumber m (.lc 0)) (s.coreNo a) s.curKey top 0 0 0 0 (.command a top args)
  else s.trap 0x15 0#64 0

/-! ### The instructions (R274) -/

/-- R24 with each right that RBIND asks for (R62, check 1). -/
def checkEach (sup : Bool) (h : BitVec 128) (o n : Nat) (r w x : Bool) : Option Nat :=
  match checkHandle sup (h ||| (7#128 <<< 120)) o n 1 .load false with
  | some c => some c
  | none =>
    if (r && !hR h) || (w && !hW h) || (x && !hA h) then some 0x06
    else if hD h then some 0x0E else none

def execRbind (d a b : BitVec 5) (m : BitVec 3) (r w x : BitVec 1) (s : State) : Out :=
  let o := s.x a
  let n := (s.x b).toNat
  let pa := hBase (s.h m) + o.toNat
  let rights := r.toNat * 4 + w.toNat * 2 + x.toNat
  .next (match checkEach s.cur.sup (s.h m) o.toNat n (r = 1#1) (w = 1#1) (x = 1#1) with
    | some c => s.handleTrap c o m
    | none =>
      let bad (detail : Nat) : State := s.trap 0x0D (BitVec.ofNat 64 pa) detail
      match rangeExtent (spaceOf pa) with
      | none => if n = 0 ∨ rights = 0 then bad 0x01 else bad 0x02
      | some e =>
        if n = 0 ∨ e < n ∨ rights = 0 then bad 0x01
        else if offsetOf pa / e ≠ (offsetOf pa + n - 1) / e then bad 0x02
        else s.sendCommand (moduleOf pa) 0x33 [canon pa, n, rights, d.toNat, pa])

def execRfree (a : BitVec 5) (s : State) : Out := .next (s.sendCommand ((s.x a).toNat / 2 ^ 52) 0x34 [(s.x a).toNat])

def execRmap (a b : BitVec 5) (s : State) : Out :=
  .next (match s.focus with
    | .bank _ _ => s.illegal (wordOf (.rmap a b)) 0x01
    | .thread c _ => s.sendCommand ((s.x a).toNat / 2 ^ 52) 0x35
        [(s.x a).toNat, (s.x b).toNat, (s.lp c).banks * 0x4000, (s.lp c).mappings.length])

def execRdone (a : BitVec 5) (s : State) : Out := .next (s.sendCommand ((s.x a).toNat / 2 ^ 52) 0x36 [(s.x a).toNat])

def execLstn (d a b : BitVec 5) (m q : BitVec 3) (s : State) : Out :=
  let tok := (s.x d).toNat
  .next (s.sendCommand (tok / 2 ^ 52) 0x37 [tok, s.module, (hBase (s.h m) + (s.x a).toNat) % 2 ^ 64, (hBase (s.h q) + (s.x b).toNat) % 2 ^ 64,
    (s.x a).toNat, (s.x b).toNat, m.toNat, q.toNat, (s.h m).toNat, (s.h q).toNat])

def execLstnCancel (d : BitVec 5) (s : State) : Out :=
  .next (s.sendCommand ((s.x d).toNat / 2 ^ 52) 0x37 [(s.x d).toNat, s.module])

def execAnnc (d a b : BitVec 5) (s : State) : Out :=
  let tok := (s.x d).toNat
  let m := tok / 2 ^ 52
  .next (s.afterRelease true true fun t => t.post 0x38 0#3 (t.x a) 1 fun j x =>
    let held : Bool := x.cur.wayOpen
    let args := [tok, (x.x a).toNat, (x.x b).toNat, j, bit held]
    if m = x.module then (x.homeCommand x.focus (x.coreNo x.focus) x.curKey 0x38 args).2
    else if x.admits m x.curKey then
      x.sendPacket (coreNumber m (.lc 0)) (x.coreNo x.focus) x.curKey 0x38 0 j 0 0 (.command x.focus 0x38 args)
    else x.sendAck (x.coreNo x.focus) x.curKey x.focus j (some ⟨0x15, 0, 0⟩) true)

end Sys2Proof.Machine
end

