-- ==== Sys2Proof/Machine/Lkp.lean ====
section
/-! DEFINITION. Lookup-engine instructions (R278 to R296), and the arrival of an LSEND's segments. -/

namespace Sys2Proof.Machine

/-! ### Lists, areas and their checks (R278 to R280) -/

def listCount (w : BitVec 64) : Nat := (w.extractLsb' 32 20).toNat
def listWidth (w : BitVec 64) : Nat := if w.getLsbD 63 then 8 else 4
def listOfs (w : BitVec 64) : Nat := (w.extractLsb' 0 19).toNat

/-- A list word of R278. -/
def listWord (wide : Bool) (n ofs : Nat) : BitVec 64 := BitVec.ofNat 64 (bit wide * 2 ^ 63 + n % 2 ^ 20 * 2 ^ 32 + ofs % 2 ^ 19)

/-- A run of bytes of the scratchpad: offset, bytes, alignment, the register that names it, and whether it is an output. -/
structure Span where
  ofs : Nat
  size : Nat
  align : Nat
  reg : Nat
  out : Bool
  deriving DecidableEq, Repr

/-- The n-th register of a group (R280). -/
def grp (r : BitVec 5) (n : Nat) : BitVec 5 := r + BitVec.ofNat 5 n

/-- The span of the list that a register names. -/
def State.listSpan (s : State) (r : BitVec 5) : Span :=
  let w := s.x r
  { ofs := listOfs w, size := listCount w * listWidth w, align := listWidth w, reg := r.toNat, out := false }

/-- The bytes of the launch's scratchpad (R33). -/
def State.padBytes (s : State) : Nat :=
  match s.focus with
  | .thread c _ => (s.lp c).banks * 0x4000
  | .bank _ _ => 0x200000

/-- Whether an output and another span share a byte. -/
def spansMeet (a b : Span) : Bool :=
  (a.out || b.out) && a.size ≠ 0 && b.size ≠ 0 && decide (a.ofs < b.ofs + b.size) && decide (b.ofs < a.ofs + a.size)

/-- The first output of a local instruction that overlaps another output or an input. -/
def firstMeeting (ss : List Span) : Option Span :=
  match ss with
  | [] => none
  | a :: rest =>
    match rest.find? (spansMeet a) with
    | some b => some (if b.out then b else a)
    | none => firstMeeting rest

/-- A trap of R280: cause, tval, tinfo. -/
abbrev Failing := Option (Nat × Nat × Nat)

/-- Checks 1 to 4 of R280, in their order: `lists` with whether each is a segment list, `areas`, and whether outputs may not overlap. -/
def State.lkpFails (s : State) (tbl : Bool) (lists : List (BitVec 5 × Bool)) (areas : List Span) (loc : Bool) (free : List Nat) : Failing :=
  let spans := lists.map (fun l => s.listSpan l.1) ++ areas
  let badWord (l : BitVec 5 × Bool) : Bool :=
    (s.x l.1).extractLsb' 52 11 ≠ 0#11 || (s.x l.1).extractLsb' 19 13 ≠ 0#13 || (l.2 && !(s.x l.1).getLsbD 63)
  if tbl && s.cur.table.isNone then some (0x0D, 0, 0x09)
  else match lists.find? badWord with
    | some l => some (0x05, (s.x l.1).toNat, l.1.toNat)
    | none =>
      match spans.find? (fun p => p.ofs % p.align ≠ 0) with
      | some p => some (0x07, p.ofs, p.reg)
      | none =>
        match spans.find? (fun p => decide (s.padBytes < p.ofs + p.size)) with
        | some p => some (0x05, p.ofs, p.reg)
        | none =>
          if loc then (firstMeeting (spans.filter fun p => !free.contains p.reg)).map fun p => (0x05, p.ofs, p.reg) else none

/-- An area that an offset register names. -/
def State.areaSpan (s : State) (r : BitVec 5) (size align : Nat) (out : Bool) : Span :=
  { ofs := (s.x r).toNat, size := size, align := align, reg := r.toNat, out := out }

/-- A meaning under its checks. -/
def State.checked (s : State) (f : Failing) (k : State) : State :=
  match f with
  | some (c, v, t) => s.trap c (BitVec.ofNat 64 v) t
  | none => k

/-- Elements of the scratchpad. -/
def State.elemsAt (s : State) (ofs w n : Nat) : List Nat := (List.range n).map fun i => s.readNat (s.ownAddr s.focus (ofs + i * w)) w

/-- The elements of the list that a register names (R278). -/
def State.listAt (s : State) (r : BitVec 5) : List Nat := s.elemsAt (listOfs (s.x r)) (listWidth (s.x r)) (listCount (s.x r))

/-- Whether bytes of the scratchpad are poisoned. -/
def State.padPoison (s : State) (p : Span) : Bool := p.size ≠ 0 && s.poisoned (s.ownAddr s.focus p.ofs) p.size

/-- Elements written to the scratchpad; poisoned inputs poison what is written (R285). -/
def State.putElems (s : State) (ofs w : Nat) (p : Bool) (vs : List Nat) : State :=
  let s1 := s.write (s.ownAddr s.focus ofs) (vs.flatMap (natToBytes w))
  if p && vs ≠ [] then s1.addPoison (s.ownAddr s.focus ofs) (w * vs.length) else s1

/-- A result of the engine: X[d], and the instruction completes (R163). A macro-operation on the core's own scratchpad reads and writes within one step, so a
sibling sees its elements before it or after it (DESIGN CHOICE, log 107). -/
def State.engineDone (s : State) (d : BitVec 5) (v : BitVec 64) : State := (s.setX 0 d v).complete

/-- The selected table, after check 1. -/
def State.sel (s : State) : Desc := descOf (s.cur.table.getD 0#512)

/-- Check 5 for rows: the first value not below the row count. -/
def rowsFail (d : Desc) (ids : List Nat) : Failing :=
  (ids.zipIdx.find? fun v => decide (d.rows ≤ v.1)).map fun v => (0x05, v.1, v.2)

/-! ### The selected table (R281 to R283) -/

/-- The checks of LTAB's descriptor offset (R282). -/
def State.ltab (s : State) (a : BitVec 5) (k : BitVec 512 → State) : State :=
  s.checked (s.lkpFails false [] [s.areaSpan a 64 64 false] false [])
    (k (BitVec.ofNat 512 (s.readNat (s.ownAddr s.focus (s.x a).toNat) 64)))

def execLtabSel (d a : BitVec 5) (s : State) : Out :=
  .next (s.ltab a fun t =>
    if (descOf t).ok s.curKey = false then s.trap 0x0D (s.x a) 0x07
    else (s.setCur { s.cur with table := some t, ltstep := 0#16 }).engineDone d (BitVec.ofNat 64 (descOf t).tid))

/-- LTAB to every home of the table. A removal at a module that refuses the key finds nothing installed there (DEDUCED, log 108). -/
def State.ltabHomes (s : State) (d : BitVec 5) (rm : Bool) (t : BitVec 512) : State :=
  let x := descOf t
  let shut (m : Nat) : Bool := m ≠ s.module && !s.admits m s.curKey
  let all := (List.range (x.nmod + 1)).map (· + x.mod0)
  -- a removal reaches the homes that it can reach, and counts those
  let mods := if rm then all.filter fun m => !shut m else all
  let away := mods.filter (· ≠ s.module)
  if away.any shut then s.trap 0x15 (BitVec.ofNat 64 x.pair0) 0
  else if mods = [] then s.engineDone d 0#64
  else
    let s1 := s.awaitStep 0x40
    let run : TableRun := { who := s.focus, desc := t, rm := rm, d := d, left := mods.length, total := 0, added := [], failed := none }
    let s2 := { s1 with homes := { s1.homes with tableRuns := s1.homes.tableRuns ++ [run] } }
    let s3 := away.foldl (fun y m => y.sendPacket (coreNumber m (.lc 0)) (y.coreNo y.focus) y.curKey 0x40 0 0 0 0
      (.command y.focus 0x40 [if rm then 2 else 1, t.toNat])) s2
    if mods.contains s.module then
      let (n, added, f, s4) := s3.tableHere rm t
      s4.tableAnswer s.focus n added f
    else s3

def execLtabInst (d a : BitVec 5) (s : State) : Out :=
  .next (s.ltab a fun t =>
    if (descOf t).ok s.curKey = false then s.trap 0x0D (BitVec.ofNat 64 (descOf t).pair0) 0x07 else s.ltabHomes d false t)

def execLtabRm (d a : BitVec 5) (s : State) : Out :=
  .next (s.ltab a fun t => if (descOf t).key ≠ s.curKey then s.trap 0x0D (s.x a) 0x07 else s.ltabHomes d true t)

def execLstep (d a : BitVec 5) (i : BitVec 14) (s : State) : Out :=
  .next (s.checked (s.lkpFails true [] [] false [])
    ((s.setCur { s.cur with ltstep := (s.x a + i.signExtend 64).setWidth 16 }).engineDone d (s.cur.ltstep.setWidth 64)))

/-! ### Local list instructions (R286) -/

/-- The distinct values in order of first appearance, and the inverse list. -/
def uniqList (vs : List Nat) : List Nat × List Nat :=
  let us := vs.foldl (fun u v => if u.contains v then u else u ++ [v]) []
  (us, vs.map fun v => us.idxOf v)

/-- A stable insertion of positions by value. -/
def insertBy (key : Nat → Nat) (x : Nat) (l : List Nat) : List Nat :=
  match l with
  | [] => [x]
  | y :: rest => if key x < key y then x :: y :: rest else y :: insertBy key x rest

/-- The positions 0 to n - 1 in ascending order of their values, stable. -/
def sortedBy (key : Nat → Nat) (n : Nat) : List Nat := (List.range n).foldl (fun l i => insertBy key i l) []

/-- The value at a position. -/
def nth (vs : List Nat) (i : Nat) : Nat := vs.getD i 0

def execLuniq (d a b : BitVec 5) (s : State) : Out :=
  let w := s.x a
  let n := listCount w
  let es := listWidth w
  .next (s.checked (s.lkpFails false [(a, false)] [s.areaSpan b (n * es) es true, s.areaSpan (grp b 1) (n * 4) 4 true] true []) (
    let (us, inv) := uniqList (s.listAt a)
    let p := s.padPoison (s.listSpan a)
    (((s.putElems (s.x b).toNat es p us).putElems (s.xg b 1).toNat 4 p inv)).engineDone d
      (listWord (w.getLsbD 63) us.length (s.x b).toNat)))

def execLsort (d a b : BitVec 5) (p : BitVec 1) (s : State) : Out :=
  let w := s.x a
  let n := listCount w
  let es := listWidth w
  let out := s.areaSpan b (n * es) es true
  let perm := if p = 1#1 then [s.areaSpan (grp b 1) (n * 4) 4 true] else []
  -- an output equal to its input sorts in place: its span then stands for both
  let same : List Nat := if out.ofs = listOfs w then [a.toNat] else []
  .next (s.checked (s.lkpFails false [(a, false)] (out :: perm) true (if same = [out.reg] then [] else same)) (
    let vs := s.listAt a
    let order := sortedBy (nth vs) n
    let q := s.padPoison (s.listSpan a)
    let s1 := s.putElems out.ofs es q (order.map (nth vs))
    let s2 := if p = 1#1 then s1.putElems (s.xg b 1).toNat 4 q order else s1
    s2.engineDone d (listWord (w.getLsbD 63) n out.ofs)))

/-- lmrg of R286: what is left of both lists, the last value taken, and the mode. -/
def mergeLists (fuel mode : Nat) (xs ys : List Nat) (last : Option Nat) : List Nat :=
  match fuel with
  | 0 => []
  | k + 1 =>
    match xs, ys with
    | [], [] => []
    | x :: xr, [] =>
      if mode = 2 then mergeLists k mode xr [] last
      else if mode = 0 ∨ last ≠ some x then x :: mergeLists k mode xr [] (some x) else mergeLists k mode xr [] last
    | [], y :: yr =>
      if mode = 2 then mergeLists k mode [] yr last
      else if mode = 0 ∨ last ≠ some y then y :: mergeLists k mode [] yr (some y) else mergeLists k mode [] yr last
    | x :: xr, y :: yr =>
      if mode = 2 then
        if x = y then x :: mergeLists k mode xr yr last
        else if x < y then mergeLists k mode xr (y :: yr) last else mergeLists k mode (x :: xr) yr last
      else if x ≤ y then
        (if mode = 0 ∨ last ≠ some x then x :: mergeLists k mode xr (y :: yr) (some x) else mergeLists k mode xr (y :: yr) last)
      else
        (if mode = 0 ∨ last ≠ some y then y :: mergeLists k mode (x :: xr) yr (some y) else mergeLists k mode (x :: xr) yr last)

def execLmrg (d a b : BitVec 5) (m : BitVec 2) (s : State) : Out :=
  let wa := s.x a
  let wb := s.xg a 1
  let es := max (listWidth wa) (listWidth wb)
  let n := listCount wa + listCount wb
  .next (s.checked (s.lkpFails false [(a, false), (grp a 1, false)] [s.areaSpan b (n * es) es true] true []) (
    let out := mergeLists n m.toNat (s.listAt a) (s.listAt (grp a 1)) none
    let p := s.padPoison (s.listSpan a) || s.padPoison (s.listSpan (grp a 1))
    (s.putElems (s.x b).toNat es p out).engineDone d (listWord (es = 8) out.length (s.x b).toNat)))

def execLfilt (d a b : BitVec 5) (i : BitVec 1) (s : State) : Out :=
  let w := s.x a
  let es := listWidth w
  let lo := (s.x b).toNat
  let hi := (s.xg b 1).toNat
  .next (s.checked (s.lkpFails false [(a, false)] [s.areaSpan (grp a 1) (listCount w * es) es true] true []) (
    let out := (s.listAt a).filter fun v => (decide (lo ≤ v) && decide (v < hi)) != (i = 1#1 : Bool)
    (s.putElems (s.xg a 1).toNat es (s.padPoison (s.listSpan a)) out).engineDone d (listWord (w.getLsbD 63) out.length (s.xg a 1).toNat)))

def execLcnt (d a b : BitVec 5) (s : State) : Out :=
  let lo := (s.x b).toNat
  let hi := (s.xg b 1).toNat
  .next (s.checked (s.lkpFails false [(a, false)] [] false [])
    (s.engineDone d (BitVec.ofNat 64 ((s.listAt a).filter fun v => decide (lo ≤ v) && decide (v < hi)).length)))

/-- A segment entry (R279). -/
def segWord (start len : Nat) : Nat := bit (len = 0) * 2 ^ 48 + len % 2 ^ 24 * 2 ^ 24 + start % 2 ^ 24

/-- The segments of a list of lengths: the entries and the total, or the running sum that passes and its position. -/
def segments (ls : List Nat) (i sum : Nat) : Except (Nat × Nat) (List Nat × Nat) :=
  match ls with
  | [] => .ok ([], sum)
  | l :: rest =>
    if 2 ^ 24 - 1 < sum + l then .error (sum + l, i)
    else match segments rest (i + 1) (sum + l) with
      | .ok (es, t) => .ok (segWord sum l :: es, t)
      | .error e => .error e

def execLseg (d a b : BitVec 5) (s : State) : Out :=
  .next (s.checked (s.lkpFails false [(a, false)] [s.areaSpan b (listCount (s.x a) * 8) 8 true] true []) (
    match segments (s.listAt a) 0 0 with
    | .error (sum, i) => s.trap 0x05 (BitVec.ofNat 64 sum) i
    | .ok (es, t) => (s.putElems (s.x b).toNat 8 (s.padPoison (s.listSpan a)) es).engineDone d (BitVec.ofNat 64 t)))

def execLhome (d a b : BitVec 5) (c : BitVec 1) (s : State) : Out :=
  let n := listCount (s.x a)
  .next (s.checked (s.lkpFails true [(a, false)] [s.areaSpan b (n * 4) 4 true] true []) (
    let t := s.sel
    let ids := s.listAt a
    s.checked (rowsFail t ids) (
      let out := ids.map fun w =>
        let h := t.home w
        if c = 1#1 then coreNumber (t.pairOf h / 512) (.lc (t.pairOf h % 512)) else h
      (s.putElems (s.x b).toNat 4 (s.padPoison (s.listSpan a)) out).engineDone d (listWord false n (s.x b).toNat))))

def execLpart (d a b : BitVec 5) (s : State) : Out :=
  let w := s.x a
  let n := listCount w
  let es := listWidth w
  let h := if s.cur.table.isSome then s.sel.homes else 0
  .next (s.checked (s.lkpFails true [(a, false), (grp a 1, false)]
      [s.areaSpan b (n * es) es true, s.areaSpan (grp b 1) (h * 4) 4 true, s.areaSpan (grp b 2) (n * 4) 4 true] true []) (
    let nh := listCount (s.xg a 1)
    let ids := s.listAt a
    let hs := s.listAt (grp a 1)
    if nh ≠ n then s.trap 0x05 (BitVec.ofNat 64 nh) n
    else if 65536 < h then s.trap 0x05 (BitVec.ofNat 64 h) 0
    else match hs.zipIdx.find? (fun v => decide (h ≤ v.1)) with
      | some v => s.trap 0x05 (BitVec.ofNat 64 v.1) v.2
      | none =>
        let order := sortedBy (nth hs) n
        let counts := (List.range h).map fun i => (hs.filter (· = i)).length
        let p := s.padPoison (s.listSpan a) || s.padPoison (s.listSpan (grp a 1))
        (((s.putElems (s.x b).toNat es p (order.map (nth ids))).putElems (s.xg b 1).toNat 4 p counts).putElems (s.xg b 2).toNat 4 p
          order).engineDone d (BitVec.ofNat 64 (counts.filter (· ≠ 0)).length)))

/-! ### Reducing and expanding row sets (R287, R288) -/

/-- Start and length of a segment entry (R279). -/
def segStart (e : Nat) : Nat := bitsOf e 23 0
def segLen (e : Nat) : Nat := bitsOf e 47 24

/-- A result of the engine's arithmetic: elements in order with their flags. -/
structure Fold where
  code : Nat
  flags : Nat
  nan : Bool
  deriving DecidableEq, Repr

/-- One more f32 value folded in under a reduction code of R242. -/
def foldStep (f : Nat) (acc : Fold) (x : Nat) : Fold :=
  match f with
  | 1 => { acc with code := minMaxFloat fmtF32 true acc.code x }
  | 2 => { acc with code := minMaxFloat fmtF32 false acc.code x }
  | _ =>
    let r := (addVal 0 (fmtF32.decode acc.code) (fmtF32.decode x)).round fmtF32 0 0
    { code := r.code, flags := acc.flags ||| r.flags, nan := acc.nan || r.nan }

/-- The exact quotient by a length, or the value itself, rounded to a format. -/
def foldEnd (f n : Nat) (fmt : FloatFmt) (acc : Fold) : Fold :=
  let x := fmtF32.decode acc.code
  let r := (if f = 3 then divVal x (valOf n) else { v := x }).round fmt 0 0
  { code := r.code, flags := acc.flags ||| r.flags, nan := acc.nan || r.nan }

/-- Values folded in order; no value gives +0 (R287). -/
def foldAll (f : Nat) (fmt : FloatFmt) (xs : List Nat) : Fold :=
  match xs with
  | [] => { code := 0, flags := 0, nan := false }
  | x :: rest => foldEnd f xs.length fmt (rest.foldl (foldStep f) { code := x, flags := 0, nan := false })

/-- A value of a format widened to f32, exactly (R81). -/
def widen (f : FloatFmt) (c : Nat) : Nat := (roundVal fmtF32 0 0 (f.decode c)).code

/-- An instruction of the engine that computes completes with X[d], its flags and its NaN trap (R138 to R140, R287). -/
def State.foldDone (s : State) (d : BitVec 5) (v elems fmt ofmt : Nat) (rs : List Fold) : State :=
  let flags := rs.foldl (fun a r => a ||| r.flags) 0
  -- of several NaNs the lowest lane is reported (R139)
  let nan := (((rs.zipIdx.filter fun r => r.1.nan).map fun r => r.2 % elems % 256)).min?
  (s.setX 0 d (BitVec.ofNat 64 v)).vecFinish 0 flags nan (nanFormats 0 ofmt 0x1F fmt)

/-- The rows of an area that a list names, as spans of their own for check 4 of R280; a row outside the scratchpad fails check 5 instead. -/
def State.rowSpans (s : State) (r : BitVec 5) (base rowBytes : Nat) (rows : List Nat) (out : Bool) : List Span :=
  (rows.eraseDups.filter fun i => decide (base + (i + 1) * rowBytes ≤ s.padBytes)).map fun i =>
    { ofs := base + i * rowBytes, size := rowBytes, align := 1, reg := r.toNat, out := out }

/-- The positions of the segments of a list that are not empty. -/
def segPositions (segs : List Nat) : List Nat := segs.flatMap fun g => (List.range (segLen g)).map (· + segStart g)

/-- The first value of LRED's checks that fails: a segment past the inverse list, or a row outside the scratchpad. -/
def lredFail (s : State) (rows rowBytes : Nat) (inv segs : List Nat) : Failing :=
  segs.zipIdx.findSome? fun (g : Nat × Nat) =>
    let st := segStart g.1
    let n := segLen g.1
    if inv.length < st + n then some (0x05, st + n, g.2)
    else ((List.range n).find? fun i => decide (s.padBytes < rows + (nth inv (st + i) + 1) * rowBytes)).map fun i => (0x05, nth inv (st + i), st + i)

def execLred (d a b : BitVec 5) (o : BitVec 1) (f : BitVec 3) (s : State) : Out :=
  let t := s.sel
  let ra := (s.x a).toNat
  let wide : Bool := o = 1#1
  let ow := if wide then 4 else t.elemBytes
  let ns := listCount (s.x b)
  .next (s.checked (s.lkpFails true [(grp a 1, false), (b, true)]
      ([s.areaSpan a 0 64 false, s.areaSpan (grp a 2) (ns * t.elems * ow) 64 true]
        ++ s.rowSpans a ra t.rowBytes ((segPositions (s.listAt b)).map (nth (s.listAt (grp a 1)))) false) true []) (
    if t.fmt = 3 ∧ wide = false then s.trap 0x05 0x0B#64 0
    else
      let inv := s.listAt (grp a 1)
      let segs := s.listAt b
      s.checked (lredFail s ra t.rowBytes inv segs) (
        let used := segs.flatMap fun g => (List.range (segLen g)).map fun i => nth inv (segStart g + i)
        let bad := s.padPoison (s.listSpan (grp a 1)) || s.padPoison (s.listSpan b)
          || used.any fun r => s.poisoned (s.ownAddr s.focus (ra + r * t.rowBytes)) t.rowBytes
        if bad then s.consumePoison s.focus
        else
          let fmt := if wide then fmtF32 else t.float
          let elem (r e : Nat) : Nat := widen t.float (s.readNat (s.ownAddr s.focus (ra + r * t.rowBytes + e * t.elemBytes)) t.elemBytes)
          let rs := segs.flatMap fun g => (List.range t.elems).map fun e =>
            foldAll f.toNat fmt ((List.range (segLen g)).map fun i => elem (nth inv (segStart g + i)) e)
          let s1 := s.putElems (s.xg a 2).toNat ow false (rs.map fun r => r.code)
          let s2 := s1.putElems (listOfs (s.x b)) 8 false (segs.map fun g => bit (segLen g = 0) * 2 ^ 48 + g % 2 ^ 48)
          s2.foldDone d (segs.filter fun g => segLen g = 0).length t.elems t.fmtNo (if wide then 8 else t.fmtNo) rs)))

def execLscat (d a b : BitVec 5) (s : State) : Out :=
  let t := s.sel
  let rb := 4 * t.elems
  let n := listCount (s.xg a 1)
  let pa := (s.x a).toNat
  let oa := (s.x b).toNat
  .next (s.checked (s.lkpFails true [(grp a 1, false)] ([s.areaSpan a (n * rb) 64 false, s.areaSpan b 0 64 true]
      ++ s.rowSpans b oa rb (s.listAt (grp a 1)) true) true []) (
    let inv := s.listAt (grp a 1)
    match inv.zipIdx.find? (fun v => decide (s.padBytes < oa + (v.1 + 1) * rb)) with
    | some v => s.trap 0x05 (BitVec.ofNat 64 v.1) v.2
    | none =>
      if s.padPoison (s.listSpan (grp a 1)) || s.padPoison (s.areaSpan a (n * rb) 64 false) then s.consumePoison s.focus
      else
        let rows := inv.eraseDups
        let elem (i e : Nat) : Nat := s.readNat (s.ownAddr s.focus (pa + i * rb + e * 4)) 4
        let row (j : Nat) : List Fold := (List.range t.elems).map fun e =>
          match ((List.range n).filter fun i => nth inv i = j).map fun i => elem i e with
          | [] => { code := 0, flags := 0, nan := false }
          | x :: rest => rest.foldl (foldStep 0) { code := x, flags := 0, nan := false }
        let s1 := rows.foldl (fun x j => x.putElems (oa + j * rb) 4 false ((row j).map fun r => r.code)) s
        s1.foldDone d rows.length t.elems 8 8 (rows.flatMap row)))

def execLexp (d a b : BitVec 5) (f : BitVec 3) (s : State) : Out :=
  let t := s.sel
  let rb := 4 * t.elems
  let ns := listCount (s.xg a 1)
  let ga := (s.x a).toNat
  let oa := (s.x b).toNat
  .next (s.checked (s.lkpFails true [(grp a 1, true)] ([s.areaSpan a (ns * rb) 64 false, s.areaSpan b 0 64 true]
      ++ s.rowSpans b oa rb (segPositions (s.listAt (grp a 1))) true) true []) (
    let segs := s.listAt (grp a 1)
    match segs.zipIdx.find? (fun v => segLen v.1 ≠ 0 && decide (s.padBytes < oa + (segStart v.1 + segLen v.1) * rb)) with
    | some v => s.trap 0x05 (BitVec.ofNat 64 (segStart v.1 + segLen v.1)) v.2
    | none =>
      let live := segs.zipIdx.filter fun v => segLen v.1 ≠ 0
      if s.padPoison (s.listSpan (grp a 1)) || live.any (fun v => s.poisoned (s.ownAddr s.focus (ga + v.2 * rb)) rb) then s.consumePoison s.focus
      else
        let row (g i : Nat) : List Fold := (List.range t.elems).map fun e =>
          let x := s.readNat (s.ownAddr s.focus (ga + i * rb + e * 4)) 4
          if f = 3#3 then foldEnd 3 (segLen g) fmtF32 { code := x, flags := 0, nan := false } else { code := x, flags := 0, nan := false }
        let s1 := live.foldl (fun (x : State) (v : Nat × Nat) =>
          let cs := (row v.1 v.2).map fun r => r.code
          (List.range (segLen v.1)).foldl (fun y p => y.putElems (oa + (segStart v.1 + p) * rb) 4 false cs) x) s
        s1.foldDone d (live.map fun v => segLen v.1).sum t.elems 8 8 (live.flatMap fun v => row v.1 v.2)))

/-! ### Operations at the homes (R289 to R293) -/

/-- Something sent to the home of a row, or refused where that module admits no traffic of the key (R15, R289). -/
def State.toRowHome (s : State) (pair kind jent nd : Nat) (i : Instr) (b : Payload) (refused : State → State) : State :=
  let m := pair / 512
  if s.admits m s.curKey then
    s.sendTo (coreNumber m (.lc (pair % 512))) (s.coreNo s.focus) s.curKey kind jent nd i b
  else refused s

/-- The gather of a row by the thread in issue. -/
def State.gatherOf (s : State) (t : Desc) (w area : Nat) (d : BitVec 5) (count : Nat) (peek : Bool) : Gather where
  who := s.focus
  core := s.coreNo s.focus
  key := s.curKey
  tid := t.tid
  pair := t.pairOf (t.home w)
  row := w
  step := s.cur.ltstep.toNat
  area := area
  d := d
  count := count
  peek := peek
  tries := 0
  merge := none

def State.requestRow (s : State) (g : Gather) : State :=
  s.toRowHome g.pair (if g.peek then 0x52 else 0x41) 0 0 (.homeGather g) (.gather g) fun x =>
    x.sendReply g.core g.key { who := .agent g.who, dest := .area g.area g.d 0, refused := some ⟨0x15, 0, g.row⟩ }

/-- The thread leaves rotation for the replies of an engine instruction. -/
def State.engineWait (s : State) (n : Nat) : State :=
  (s.setCur { s.cur with tally := 0, failed := none, undo := none }).await n 0 .none

def execLgath (d a b : BitVec 5) (s : State) : Out :=
  let t := s.sel
  let n := listCount (s.x a)
  .next (s.checked (s.lkpFails true [(a, false)] [s.areaSpan b (n * t.rowBytes) 64 true] false []) (
    let ids := s.listAt a
    s.checked (rowsFail t ids) (
      if n = 0 then s.engineDone d 0#64
      else ids.zipIdx.foldl (fun x v => x.requestRow (x.gatherOf t v.1 ((x.x b).toNat + v.2 * t.rowBytes) d n false)) (s.engineWait n))))

def execLpeek (d a b : BitVec 5) (s : State) : Out :=
  let t := s.sel
  .next (s.checked (s.lkpFails true [] [s.areaSpan b t.rowBytes 64 true] false []) (
    let w := (s.x a).toNat
    s.checked (rowsFail t [w]) ((s.engineWait 1).requestRow (s.gatherOf t w (s.x b).toNat d 0 true))))

/-- An accumulate sent to its row's home; the entry is refused where the module admits no traffic of the key. -/
def State.sendAccum (s : State) (a : Accum) (kind : Nat) : State :=
  s.toRowHome a.pair kind (a.jent.getD 0) ((4 * a.vals.length + 63) / 64) (.homeAccumulate a) (.accum a) fun x =>
    x.answerAccum a (some ⟨0x15, 0, a.row⟩)

/-- The accumulate of a row by the agent in issue (R81, R270, R291). -/
def State.accumOf (s : State) (t : Desc) (w e0 fmt j : Nat) (vals : List (Option (BitVec 32))) (poison : Bool) : Accum where
  who := s.focus
  core := s.coreNo s.focus
  key := s.curKey
  tid := t.tid
  pair := t.pairOf (t.home w)
  row := w
  step8 := s.cur.ltstep.toNat % 256
  fmt := fmt
  e0 := e0
  vals := vals
  jent := some j
  held := s.cur.wayOpen
  poison := poison

def execLacc (a : BitVec 5) (f : BitVec 1) (s : State) : Out :=
  let t := s.sel
  let n := listCount (s.xg a 1)
  let ew := if f = 1#1 then 4 else t.elemBytes
  let fmt := if f = 1#1 then fmtF32 else t.float
  let rb := ew * t.elems
  .next (s.checked (s.lkpFails true [(grp a 1, false)] [s.areaSpan a (n * rb) 64 false] false []) (
    let ids := s.listAt (grp a 1)
    s.checked (rowsFail t ids) (
      if n = 0 then s.complete
      else s.post 0x4B 0#3 (s.x a) n fun j y => ids.zipIdx.foldl (fun (x : State) (v : Nat × Nat) =>
        let at' := (s.x a).toNat + v.2 * rb
        let vals := (List.range t.elems).map fun e =>
          some (BitVec.ofNat 32 (widen fmt (s.readNat (s.ownAddr s.focus (at' + e * ew)) ew)))
        x.sendAccum (x.accumOf t v.1 0 (if f = 1#1 then 8 else t.fmtNo) j vals (s.poisoned (s.ownAddr s.focus at') rb)) 0x4B) y)))

/-- RADD's table form (R270): its checks are the home's. The active lanes, in order, go to elements e0 upward (DEDUCED, log 24). -/
def execRaddTable (d a b : BitVec 5) (t : BitVec 2) (q : BitVec 3) (s : State) : Out :=
  let es := raddBytes t
  let ls := s.activeLanes q (8 * es)
  .next (match s.focus with
    | .bank _ _ => s.illegal (wordOf (.raddTable d a b t q)) 0x01
    | .thread _ _ =>
      match s.cur.table with
      | none => s.trap 0x0D 0#64 0x09
      | some x =>
        let t1 := descOf x
        let vals := ls.map fun i => some (BitVec.ofNat 32 (widen (raddFmt t) (laneOf (s.v d) (8 * es) i)))
        s.post 0x2C 0#3 (s.x a) 1 fun j y => y.sendAccum (y.accumOf t1 (s.x a).toNat (s.x b).toNat (8 + t.toNat) j vals false) 0x2C)

def execLwb (d a b : BitVec 5) (s : State) : Out :=
  let t := s.sel
  let n := listCount (s.xg a 1)
  .next (s.checked (s.lkpFails true [(grp a 1, false)] [s.areaSpan a (n * t.rowBytes) 64 false] false []) (
    let ids := s.listAt (grp a 1)
    s.checked (rowsFail t ids) (
      if n = 0 then s.engineDone d 0#64
      else ids.zipIdx.foldl (fun (x : State) (v : Nat × Nat) =>
        let pa := s.ownAddr s.focus ((s.x a).toNat + v.2 * t.rowBytes)
        let w : RowWrite := {
          who := s.focus
          core := s.coreNo s.focus
          key := s.curKey
          tid := t.tid
          pair := t.pairOf (t.home v.1)
          row := v.1
          step := (s.x b).toNat % 65536
          data := s.read pa t.rowBytes
          d := d
          poison := s.poisoned pa t.rowBytes }
        x.toRowHome w.pair 0x53 0 ((t.rowBytes + 63) / 64) (.homeRowWriteback w) (.rowWrite w) fun y =>
          y.sendReply w.core w.key { who := .agent w.who, dest := .count d, refused := some ⟨0x15, 0, w.row⟩ }) (s.engineWait n))))

def execLzero (d a b : BitVec 5) (s : State) : Out :=
  .next (s.checked (s.lkpFails true [] [] false []) (
    let t := s.sel
    let w := (s.x a).toNat
    s.checked (rowsFail t [w]) (
      let z : RowZero := {
        who := s.focus
        core := s.coreNo s.focus
        key := s.curKey
        tid := t.tid
        pair := t.pairOf (t.home w)
        row := w
        k := (s.x b).toNat % 65536
        c := (s.xg b 1).toNat % 65536
        d := d }
      (s.engineWait 1).toRowHome z.pair 0x50 0 0 (.homeZero z) (.rowZero z) fun y =>
        y.sendReply z.core z.key { who := .agent z.who, dest := .area 0 d 0, refused := some ⟨0x15, 0, w⟩ })))

/-! ### Across the seam (R294, R295) -/

/-- Checks 3 to 5 of LSEND and LRECV: own and far offsets, bytes and core number. -/
def State.seamFails (s : State) (a own : BitVec 5) (far core : BitVec 5) (ms : List (BitVec 5)) : Failing :=
  let n := (s.xg a 1).toNat
  let o := (s.x own).toNat
  let cn := (s.x core).toNat
  match [own, far].find? (fun r => (s.x r).toNat % 64 ≠ 0), ms.find? (fun r => (s.x r).toNat % 16 ≠ 0) with
  | some r, _ => some (0x07, (s.x r).toNat, r.toNat)
  | none, some r => some (0x07, (s.x r).toNat, r.toNat)
  | none, none =>
    if s.padBytes < o + n then some (0x05, o, own.toNat)
    else if n % 64 ≠ 0 ∨ n < 64 ∨ 0x40000 < n then some (0x05, n, (grp a 1).toNat)
    else if 2 ^ 24 ≤ cn ∨ (coreOfNumber cn).isNone = true then some (0x05, cn, core.toNat)
    else none

/-- A run of bytes cut at 256-byte blocks of its destination: offset in the run and length (R294). -/
def blocks (dst n : Nat) : List (Nat × Nat) :=
  (List.range ((dst + n + 255) / 256 - dst / 256)).map fun i =>
    let lo := max dst ((dst / 256 + i) * 256)
    let hi := min (dst + n) ((dst / 256 + i + 1) * 256)
    (lo - dst, hi - lo)

def execLsend (a b : BitVec 5) (m : BitVec 1) (s : State) : Out :=
  let so := (s.x a).toNat
  let n := (s.xg a 1).toNat
  let cn := (s.x b).toNat
  let dst := (s.xg b 1).toNat
  .next (s.checked (s.seamFails a a (grp b 1) b (if m = 1#1 then [grp b 2] else [])) (
    let segs := blocks dst n
    s.post 0x48 0#3 (s.x a) segs.length fun j y => segs.foldl (fun (x : State) (g : Nat × Nat) =>
      let pa := s.ownAddr s.focus (so + g.1)
      let seg : Segment := {
        who := s.focus
        core := s.coreNo s.focus
        key := s.curKey
        dst := cn
        ofs := dst + g.1
        data := s.read pa g.2
        ms := if m = 1#1 then some (s.xg b 2).toNat else none
        jent := some j
        last := true
        held := s.cur.wayOpen
        poison := s.poisoned pa g.2 }
      if x.admits (moduleOfNumber cn) x.curKey then
        x.sendTo cn seg.core seg.key 0x48 j ((g.2 + 63) / 64) (.lsendSegmentArrival seg) (.segment seg)
      else x.sendAck seg.core seg.key seg.who j (some ⟨0x15, 0, cn⟩) true) y))

/-- Whether bytes lie in the scratchpad of a core (R46, R294). -/
def State.padHas (s : State) (u : CoreRef) (ofs n : Nat) : Bool :=
  match u with
  | .lc i => decide (ofs + n ≤ (s.lp i).banks * 0x4000)
  | .dt _ => decide (ofs + n ≤ 0x200000)

/-- How a destination refuses a segment (R294). -/
def State.segmentRefusal (s : State) (g : Segment) : Option Refused :=
  match coreOfNumber g.dst with
  | none => some ⟨0x13, 0x26, g.dst⟩
  | some u =>
    if s.holdsKey u g.key = false then some ⟨0x13, 0x26, g.dst⟩
    else if s.padHas u g.ofs g.data.length = false then some ⟨0x13, 0x27, g.dst⟩
    else match g.ms with
      | some o => if s.padHas u o 16 then none else some ⟨0x13, 0x27, g.dst⟩
      | none => none

/-- A segment lands, or is refused. -/
def State.segmentLands (s : State) (g : Segment) : State :=
  let answer (x : State) (r : Option Refused) : State := match g.jent with
    | some j => x.sendAck g.core g.key g.who j r true
    | none => x
  match s.segmentRefusal g, coreOfNumber g.dst with
  | none, some u =>
    let pa := windowAddr s.module u g.ofs
    let s1 := s.writeWatched pa g.data
    let s2 := if g.poison then s1.addPoison pa g.data.length else s1
    answer (match g.ms with
      | some o => s2.contribute (windowAddr s.module u o) g.data.length
      | none => s2) none
  | x, _ => answer s x

def execLsendSegmentArrival (g : Segment) (s : State) : Out :=
  .next (match g.held, g.jent, s.segmentRefusal g with
    | true, some j, none => s.holdPending (.agent g.who) j (.segment g)
    | _, _, _ => s.segmentLands g)

def execLrecv (d a b : BitVec 5) (s : State) : Out :=
  let n := (s.xg a 1).toNat
  let cn := (s.x b).toNat
  .next (s.checked (s.seamFails a a (grp b 1) b []) (
    let m := moduleOfNumber cn
    if s.admits m s.curKey = false then s.trap 0x15 (s.x b) 0
    else match coreOfNumber cn with
      | none => s.trap 0x05 (s.x b) b.toNat
      | some u =>
        -- an offset past the window lies outside every scratchpad
        let ofs := min (s.xg b 1).toNat (0x400000 - 64)
        (s.engineWait 1).sendRequest (s.requestOf .load (windowAddr m u ofs) n [] (.area (s.x a).toNat d n) none false)))

end Sys2Proof.Machine
end

