-- ==== Sys2Proof/Machine/Image.lean ====
section
/-! DEFINITION. Context images: what CTXS writes, CTXL reads, and a displaced standby bank leaves in memory (R344, R204). -/

namespace Sys2Proof.Machine

/-- The bytes of an image (R344). -/
def imageBytes (d : Bool) : Nat := if d then 0x4800 else 0x800

/-- ltsel as it reads (R281). -/
def Ctx.ltsel (c : Ctx) : BitVec 64 :=
  match c.table with
  | none => BitVec.ofNat 64 (c.ltstep.toNat * 2 ^ 32)
  | some t => BitVec.ofNat 64 (c.ltstep.toNat * 2 ^ 32 + 2 ^ 31 + (descOf t).tid % 4096)

/-- Eight-byte words in a row. -/
def wordBytes (ws : List Nat) : List Byte := ws.flatMap (natToBytes 8)

/-- A loop entry's four words (R344). -/
def loopWords (e : LoopEntry) : List Nat := [e.trip.toNat, e.idx.toNat, e.first.toNat, e.last.toNat]

/-- The words of the batches a context carries (R149, R344): open number, sealed count and ncmd; the holder; the sealed numbers. The
places inside these 80 bytes are the model's (DESIGN CHOICE, log 26). -/
def batchWords (c : Ctx) : List Byte :=
  wordBytes [c.openBatch % 65536 + c.sealedBatches.length % 65536 * 2 ^ 16 + c.ncmd % 2 ^ 32 * 2 ^ 32, c.holder]
    ++ (List.range 32).flatMap fun i => natToBytes 2 (c.sealedBatches.getD i 0)

/-- The image of a context with `pc` as its pc, `seq` the revocation sequence number and `vcc` the group's counter (R344). -/
def imageOf (d : Bool) (c : Ctx) (pc : BitVec 48) (seq vcc : Nat) : List Byte :=
  let nv := if d then 32 else 16
  let vb := if d then 512 else 64
  let kb := if d then 32 else 4
  let regs := wordBytes (((bit d) * 2 ^ 62 + (bit c.sup) * 2 ^ 61 + pc.toNat) :: (List.range 31).map fun i => (c.readX (BitVec.ofNat 5 (i + 1))).toNat)
  let vecs := (List.range nv).flatMap fun i => natToBytes vb (c.readV (BitVec.ofNat 5 i)).toNat
  let preds := (List.range 8).flatMap fun i => natToBytes kb (c.readK (BitVec.ofNat 3 i)).toNat
  let hands := (List.range 8).flatMap fun i => natToBytes 16 (c.readH (BitVec.ofNat 3 i)).toNat
  let outer := c.loops.reverse
  let loops := wordBytes (c.loops.length :: List.replicate (if d then 7 else 3) 0) ++
    (List.range 6).flatMap fun i => wordBytes (match outer[i]? with
      | some e => loopWords e
      | none => [0, 0, 0, 0])
  let common := [c.mflags, c.ascope, c.cbko, c.src, c.vlen, c.ltsel, c.cause, c.epc, c.tval, c.tinfo, c.tfmt, c.tvec].map (·.toNat)
  let srs := wordBytes (common ++ (if d then [seq, vcc, c.mpos.toNat, c.eres.toNat] else [seq, 0, 0, 0]))
  let tab := natToBytes 64 (match c.table with
    | some t => t.toNat
    | none => 0)
  let body := regs ++ vecs ++ preds ++ hands ++ loops ++ srs ++ tab ++ batchWords c
  body ++ List.replicate (imageBytes d - body.length) 0#8

/-- The eight-byte word of an image at a byte. -/
def imageWord (bs : List Byte) (o : Nat) : Nat := bytesToNat ((bs.drop o).take 8)

/-- A number of `n` bytes of an image at a byte. -/
def imageNum (bs : List Byte) (o n : Nat) : Nat := bytesToNat ((bs.drop o).take n)

/-- Where the parts of an image lie (R344): vectors, predicates, handles, loops, state registers, table, batches. -/
structure ImageMap where
  vecs : Nat
  preds : Nat
  hands : Nat
  loops : Nat
  ents : Nat
  srs : Nat
  tab : Nat
  batch : Nat
  deriving DecidableEq, Repr

def imageMap (d : Bool) : ImageMap :=
  if d then ⟨0x100, 0x4100, 0x4200, 0x4280, 0x42C0, 0x4380, 0x4400, 0x4440⟩ else ⟨0x100, 0x500, 0x520, 0x5A0, 0x5C0, 0x680, 0x700, 0x740⟩

/-- The bits that a write must leave 0 (R8, R334). -/
def srReserved (n : Nat) : BitVec 64 :=
  match n with
  | 0x020 => 0xFFFFFFFFFFFFF000#64
  | 0x027 => 0xFFFF000000000000#64
  | 0x02C => 0xFFFF000000000000#64
  | 0x02F => 0xFFFF000000000000#64
  | 0x02D => 0xFFFFFFFFC0460001#64
  | 0x041 => 0xFFFFFFF000000000#64
  | 0x052 => 0x7FFF000000000000#64
  | 0x054 => 0xFFFFFFFFFFFFFFF0#64
  | 0x055 => 0xFFFFFFFF000000F0#64
  | 0x057 => 0xFFFFFFFFFFFFFC00#64
  | 0x070 => 0xFFFFFFFFFFFF3F80#64
  | n => if 0x080 ≤ n ∧ n ≤ 0x096 then 0xFFFFFFFFFFFE0000#64 else 0#64

/-- The bits of an image's state registers that are reserved, and read zero however the image holds them (R8, R207, R367). -/
def imageReserved (n : Nat) : BitVec 64 :=
  match n with
  | 0x02E => 0x7FFF000000000000#64
  | 0x062 => 0x7FFFFFFFFFFFF000#64
  | n => srReserved n

/-- A handle without its reserved bits 95:64 (R8, R23). -/
def handleOf (n : Nat) : BitVec 128 := BitVec.ofNat 128 n &&& ~~~(0xFFFFFFFF0000000000000000#128)

/-- The context that an image holds, with `c` for what an image does not hold. -/
def imageCtx (d : Bool) (bs : List Byte) (c : Ctx) : Ctx :=
  let m := imageMap d
  let nv := if d then 32 else 16
  let vb := if d then 512 else 64
  let kb := if d then 32 else 4
  let w0 := imageWord bs 0
  let sr (i : Nat) : BitVec 64 := BitVec.ofNat 64 (imageWord bs (m.srs + 8 * i))
  let reg (i n : Nat) : BitVec 64 := sr i &&& ~~~(imageReserved n)
  let depth := min (imageWord bs m.loops) 6
  let b0 := imageWord bs m.batch
  { c with
    pc := BitVec.ofNat 48 w0
    sup := bitsOf w0 61 61 = 1
    x := Vector.ofFn fun (i : Fin 32) => if i.val = 0 then 0#64 else BitVec.ofNat 64 (imageWord bs (8 * i.val))
    v := Vector.ofFn fun (i : Fin 32) => if i.val < nv then BitVec.ofNat 4096 (imageNum bs (m.vecs + vb * i.val) vb) else 0#4096
    k := Vector.ofFn fun (i : Fin 8) => BitVec.ofNat 256 (imageNum bs (m.preds + kb * i.val) kb)
    h := Vector.ofFn fun (i : Fin 8) => handleOf (imageNum bs (m.hands + 16 * i.val) 16)
    loops := ((List.range depth).map fun i =>
      let o := m.ents + 32 * i
      LoopEntry.mk (BitVec.ofNat 64 (imageWord bs o)) (BitVec.ofNat 64 (imageWord bs (o + 8))) (BitVec.ofNat 48 (imageWord bs (o + 16)))
        (BitVec.ofNat 48 (imageWord bs (o + 24)))).reverse
    mflags := reg 0 0x070
    ascope := reg 1 0x054
    cbko := reg 2 0x055
    src := reg 3 0x041
    vlen := reg 4 0x057
    ltstep := BitVec.ofNat 16 ((sr 5).toNat / 2 ^ 32)
    table := if (sr 5).getLsbD 31 then some (BitVec.ofNat 512 (imageNum bs m.tab 64)) else none
    cause := reg 6 0x020
    epc := sr 7
    tval := sr 8
    tinfo := sr 9
    tfmt := sr 10
    tvec := sr 11
    mpos := if d then reg 14 0x062 else 0#64
    eres := if d then reg 15 0x02E else 0#64
    openBatch := b0 % 65536
    ncmd := b0 / 2 ^ 32
    holder := imageWord bs (m.batch + 8)
    sealedBatches := (List.range (min (b0 / 2 ^ 16 % 65536) 32)).map fun i => imageNum bs (m.batch + 16 + 2 * i) 2
    hva := [] }

/-- The revocation sequence number in an image, and on a dense tile its vcc (R27, R344). -/
def imageSeq (d : Bool) (bs : List Byte) : Nat := imageWord bs ((imageMap d).srs + 96)
def imageVcc (bs : List Byte) : Nat := imageWord bs (0x4380 + 104)

end Sys2Proof.Machine
end

