-- ==== Sys2Proof/Machine/Sched.lean ====
section
/-! DEFINITION. The per-core scheduling of a lookup core: task table, ready queue, grants, evictions, context swaps, wakes and the end
of a task (R161 to R163, R170 to R174, R194 to R203), and the dispatch core's part in a launch's end (R190, R193). -/

namespace Sys2Proof.Machine

/-! ### The task table and the ready queue -/

def State.taskAt (s : State) (c idx : Nat) : Task := getAt (s.lp c).tasks idx Task.reset
def State.setTaskAt (s : State) (c idx : Nat) (k : Task) : State := s.setLp c { s.lp c with tasks := setAt (s.lp c).tasks idx k }

/-- Slots, or under double stitch pairs, that a task occupies (R198): a pair is counted by its leading slot. -/
def State.occupied (s : State) (c idx : Nat) : Nat :=
  ((s.lp c).slots.filter fun e => e.2.task = idx && (!(s.taskAt c idx).ds || decide (e.1 < 8))).length

/-- Slots or pairs that a task gets as the contexts in them leave (R202). -/
def State.reserved (s : State) (c idx : Nat) : Nat := ((s.lp c).slots.filter fun e => e.2.next = some idx).length

/-- The launch of a task. -/
def State.launchOf (s : State) (k : Task) : Option Launch := findAt s.disp.launches k.tag

/-- The slots that the launch of a task holds on a core, with those that it is about to get (R201). -/
def State.heldByLaunch (s : State) (c tag : Nat) : Nat :=
  ((s.lp c).slots.map fun e => (if (s.taskAt c e.2.task).tag = tag then 1 else 0) + (match e.2.next with
    | some i => if (s.taskAt c i).tag = tag then (if (s.taskAt c i).ds then 2 else 1) else 0
    | none => 0)).sum

/-- Whether one more grant to a task keeps its launch within the early-start quota (R201). -/
def State.withinQuota (s : State) (c : Nat) (k : Task) : Bool :=
  match s.launchOf k with
  | none => true
  | some l => l.depMet || decide (s.heldByLaunch c k.tag + (if k.ds then 2 else 1) ≤ recBits l.record 0x20 22 19)

/-- A number for a context of a core's tasks: task, then visitor, then thread; a trailing thread's is its thread's plus 16. -/
def ctxCode (task tid : Nat) (visitor : Bool) : Nat := task * 64 + bit visitor * 32 + tid
def SavedCtx.code (x : SavedCtx) : Nat := ctxCode x.task x.tid x.visitor

/-- The saved contexts of a core (R202). -/
def LPlane.saved (p : LPlane) : List SavedCtx := p.cache ++ p.area

/-- Whether a core holds a task of a context's launch. -/
def State.holdsLaunch (s : State) (c : Nat) (t : Travel) : Bool :=
  !(s.lc c).fenced && (s.lp c).tasks.any fun k => k.2.valid && k.2.tag = t.tag && k.2.key = t.key

/-- The arrival that a task may start (R171, R198): a context never overtakes an earlier one, so only the core's oldest, where it is of the task's
launch. Where R198's oldest arrival of the launch stands behind one of another launch, R171's order is kept (DEDUCED, log 113). -/
def State.arrivalFor (s : State) (c : Nat) (k : Task) : Option Travel :=
  ((s.lp c).arrivals.find? (s.holdsLaunch c)).filter fun t => t.tag = k.tag && t.key = k.key

/-- The saved threads of a task that are Queued (R202): not asleep, and not on their way back into a slot. -/
def State.queuedSaved (s : State) (c idx : Nat) : List SavedCtx :=
  (s.lp c).saved.filter fun x => x.task = idx && !x.asleep && decide (x.tid < 16) &&
    !((s.lp c).slots.any fun e => e.2.state = .restoring && e.2.task = idx && e.2.tid = x.tid && e.2.visitor == x.visitor)

/-- The Queued thread of lowest number of a task: one that has not started, or one saved (R198, R202). -/
def State.queuedTid (s : State) (c idx : Nat) : Option Nat :=
  ((s.taskAt c idx).unstarted ++ (s.queuedSaved c idx).map (·.tid)).min?

/-- Threads and arrivals that grants to a task could start. -/
def State.startable (s : State) (c idx : Nat) : Nat :=
  (s.taskAt c idx).unstarted.length + (s.queuedSaved c idx).length + (if (s.arrivalFor c (s.taskAt c idx)).isSome then 1 else 0)

/-- Whether a task is eligible (R198), beside the slots that it is about to get. -/
def State.eligible (s : State) (c idx : Nat) : Bool :=
  let k := s.taskAt c idx
  k.valid && !k.hold && decide (s.reserved c idx < s.startable c idx) && decide (s.occupied c idx + s.reserved c idx < k.width) && s.withinQuota c k

/-- The ready queue brought up to date: tasks that are eligible no more leave it, others join at the tail (R198). -/
def State.refreshReady (s : State) (c : Nat) : State :=
  let p := s.lp c
  let keep := p.readyQ.filter (s.eligible c)
  let new := (p.tasks.map (·.1)).filter fun i => s.eligible c i && !keep.contains i
  s.setLp c { p with readyQ := keep ++ new }

/-- The eligible tasks in the order of their levels (R198). -/
def State.readyOrder (s : State) (c : Nat) : List Nat :=
  (List.range 4).flatMap fun l => (s.lp c).readyQ.filter fun i => (s.taskAt c i).eprio = l

/-- A task goes to the tail of its level. -/
def State.toTail (s : State) (c idx : Nat) : State :=
  let p := s.lp c
  if p.readyQ.contains idx then s.setLp c { p with readyQ := (p.readyQ.erase idx) ++ [idx] } else s

/-- The lowest-numbered free slot, or leading slot of a free pair, for a task (R198). -/
def State.slotFor (s : State) (c : Nat) (k : Task) : Option Nat :=
  let free (t : Nat) : Bool := (s.slot c t).isNone && (s.lp c).stray t = 0
  if k.ds then (List.range 8).find? fun t => free t && free (t + 8) else (List.range 16).find? free

/-! ### Starting a thread -/

/-- The full vector length in bytes (R299). -/
def fullLength (d : Bool) : BitVec 64 := if d then 512#64 else 64#64

/-- The context of a thread at its start: entry, argument, completion scope and seed (R89, R134, R182, R299). -/
def startCtx (d : Bool) (k : Task) (cscope : Nat) : Ctx :=
  let c : Ctx := { Ctx.reset with
    pc := k.entry
    ascope := BitVec.ofNat 64 cscope
    seed := k.seed
    vlen := fullLength d }
  let c1 := c.writeX 1#5 (k.arg.setWidth 64)
  match k.x2 with
  | some v => c1.writeX 2#5 (BitVec.ofNat 64 v)
  | none => c1

/-- The completion scope of a task's launch (R182). -/
def State.cscopeOf (s : State) (k : Task) : Nat :=
  match s.launchOf k with
  | some l => recBits l.record 0x28 53 50
  | none => 6

/-- Whether a task's completion scope is wider than core (R115). -/
def State.wideCscope (s : State) (k : Task) : Bool :=
  match s.launchOf k with
  | some l => (match scopeIn l.record (recBits l.record 0x28 53 50) with
    | some c => decide (1 < c)
    | none => true)
  | none => true

/-- Whether the acquire before a task's first instruction reaches beyond its core (R115, R201): that of the dependence generation does; there is none
for a task that starts early; else it is at the launch's completion scope. -/
def State.wideStart (s : State) (k : Task) : Bool :=
  match s.launchOf k with
  | some l =>
    if recBits l.record 0x18 0 0 = 1 then l.depMet else s.wideCscope k
  | none => true

/-- The threads of a pair, or the one thread of a slot. -/
def pairSlots (ds : Bool) (t : Nat) : List Nat := if ds then [t % 8, t % 8 + 8] else [t]

/-- A slot occupied. -/
def State.occupy (s : State) (c t : Nat) (x : Slot) : State := s.setLp c { s.lp c with slots := setAt (s.lp c).slots t x }

/-- A thread of a task starts for the first time (R198, R202): its first instruction follows an acquire (R115). -/
def State.startFresh (s : State) (c idx t tid : Nat) : State :=
  let k := s.taskAt c idx
  let s1 := s.setTaskAt c idx { k with unstarted := k.unstarted.erase tid }
  let s2 := (pairSlots k.ds t).foldl (fun x u =>
    (x.occupy c u ⟨idx, tid, false, .running, k.slice * 64, x.cycle, false, none⟩).setCtx (.thread c u) (startCtx false k (x.cscopeOf k))) s1
  -- no word that it fetches is older than its start (R226)
  (s2.acquireFor (.thread c t) (s2.wideStart k)).setCodeLines (.lc c) []

/-- The slot's index within its task (R170): the lowest that no other slot of the task has. -/
def State.slotIndex (s : State) (c idx : Nat) : Nat :=
  ((List.range 16).find? fun i => (s.lp c).slots.all fun e => e.2.task ≠ idx || e.2.tid ≠ i).getD 0

/-- The core of a travel context's sender in this module. -/
def coreIndex (n : Nat) : Nat :=
  match coreOfNumber n with
  | some (.lc i) => i
  | _ => 0

/-- A core hears that a context of its own has been accepted, or of a spawner that it has started (R172). -/
def State.travelAccepted (s : State) (src key : Nat) : State :=
  if moduleOfNumber src = s.module then
    let c := coreIndex src
    s.setLp c { s.lp c with outbound := (s.lp c).outbound - 1 }
  else s.sendPacket src (coreNumber s.module (.lc 0)) key 0 0 0 0 0 (.done .host 0x4E [src])

/-- A context that the thread of a number has spawned has started, wherever that thread is (R172). -/
def State.spawnStarted (s : State) (n : Nat) : State :=
  let less (c : Ctx) : Ctx := if c.holder = n then { c with spawned := c.spawned - 1 } else c
  let lessSaved (x : SavedCtx) : SavedCtx := { x with ctx := less x.ctx }
  { s with
    ctxs := s.ctxs.map fun e => (e.1, less e.2)
    lcs := s.lcs.map fun (e : Nat × LCore) =>
      (e.1, { e.2 with plane := { e.2.plane with cache := e.2.plane.cache.map lessSaved, area := e.2.plane.area.map lessSaved } }) }

def State.travelStarted (s : State) (t : Travel) : State :=
  match t.spawner with
  | none => s
  | some a =>
    if moduleOfNumber t.src = s.module then s.spawnStarted t.number
    else s.sendPacket t.src (coreNumber s.module (.lc 0)) t.key 0 0 0 0 0 (.done (.agent a) 0x4E [t.number])

/-- An arrival starts as a visitor (R170), or enters trap 0x13 where it has been returned (R173). -/
def State.startVisitor (s : State) (c idx t : Nat) (v : Travel) : State :=
  let k := s.taskAt c idx
  let p := s.lp c
  let s1 := s.setLp c { p with arrivals := p.arrivals.erase v }
  let tid := s1.slotIndex c idx
  let start (x : State) (u : Nat) : State :=
    let c0 : Ctx := { startCtx false k (x.cscopeOf k) with
      pc := v.pc
      -- a pair starts identical (R165): its leading slot's stream
      src := (s.ctx (.thread c t)).src
      x := Vector.ofFn fun (i : Fin 32) => if i.val = 0 then 0#64 else v.regs.getD (i.val - 1) 0#64 }
    (x.occupy c u ⟨idx, tid, true, .running, k.slice * 64, x.cycle, false, none⟩).setCtx (.thread c u) c0
  let s2 := ((pairSlots k.ds t).foldl start s1).acquireFor (.thread c t) (decide (v.src ≠ coreNumber s.module (.lc c)))
  let s3 := s2.travelStarted v
  let s4 := if (s3.lc c).spill = [] then s3 else s3.push (.spillReturn c)
  match v.back with
  | none => s4
  | some b => (pairSlots k.ds t).foldl (fun x u => x.takeTrap (.thread c u)
      { cause := b.cause, tval := BitVec.ofNat 64 b.tval, tinfo := BitVec.ofNat 64 b.detail } v.pc) s4

/-! ### Saving and restoring contexts (R112, R202, R363) -/

/-- The number that stands for a saved thread where its pending operations are held at their sites (R103, R112). -/
def savedAgent (c code : Nat) : Agent := .thread c (16 + code)

/-- The pending operations of a thread at the sites of this module change hands. -/
def State.renameHeld (s : State) (core key : Nat) (a b : Agent) : State :=
  { s with homes := { s.homes with pending := s.homes.pending.map fun (p : Pending) => if p.of core key a then { p with who := b } else p } }

/-- The number of a thread slot or saved thread. -/
def threadNumber (a : Agent) : Nat :=
  match a with
  | .thread _ t => t
  | .bank _ b => b

/-- The pending operations of a thread change hands at their sites, here and on other modules, as it is saved or restored (R103, R112). -/
def State.renamePending (s : State) (a b : Agent) (held : Bool) : State :=
  let core := s.coreNo a
  let s1 := s.renameHeld core (s.coreKey a) a b
  if held then s1.otherModules.foldl (fun x m =>
    x.sendPacket (coreNumber m (.lc 0)) core (x.coreKey a) 0x3C 0 0 0 0 (.command a 0x3C [core, threadNumber b])) s1
  else s1

/-- Whether a context has operations pending at their sites. -/
def Ctx.holds (c : Ctx) : Bool := c.journal.any fun e => e.2.held

/-- The entries of the thread-context cache that a context takes: a checkpoint takes a second one (R363). -/
def cacheUse (x : SavedCtx) : Nat := if x.ctx.checkpoint.isSome then 2 else 1

/-- The first byte of a core's own pseudo-channel (R12). -/
def State.coreArea (s : State) (c : Nat) : Nat := s.module * 2 ^ 52 + c * 0x30000000

/-- The entries of the context area that a saved context takes (R202): its own, and one for its checkpoint. -/
def SavedCtx.entries (x : SavedCtx) : List Nat := (List.range (cacheUse x)).map (· + x.pos)

/-- The first entries of the context area that are free for a context. -/
def LPlane.freeArea (p : LPlane) (n : Nat) : Nat :=
  let used := p.area.flatMap SavedCtx.entries
  ((List.range 2048).find? fun i => (List.range n).all fun k => !used.contains (i + k)).getD 0

/-- A checkpoint as the context that it holds. -/
def Checkpoint.asCtx (k : Checkpoint) (c : Ctx) : Ctx :=
  { c with
    sup := k.sup
    x := k.x
    v := k.v
    k := k.k
    h := k.h
    loops := k.loops
    mflags := k.mflags
    ascope := k.ascope
    cbko := k.cbko
    src := k.src }

/-- What the entries of a context hold in memory: images in the format of CTXS (DESIGN CHOICE, log 46: the manual gives the entries no layout). -/
def SavedCtx.image (x : SavedCtx) : List Byte :=
  imageOf false x.ctx x.ctx.pc x.seq 0 ++ (match x.ctx.checkpoint with
    | some k => imageOf false (k.asCtx x.ctx) k.pc x.seq 0
    | none => [])

/-- The cache's least recently used context goes to the context area (R202): 2 KiB an entry from channel byte 0x2FBC_0000 on. -/
def State.areaWriteback (s : State) (c : Nat) : State :=
  let p := s.lp c
  match p.cache with
  | [] => s
  | x :: rest =>
    let n := p.freeArea (cacheUse x)
    (s.setLp c { p with cache := rest, area := p.area ++ [{ x with pos := n }] }).write (s.coreArea c + 0x2FBC0000 + n * 0x800) x.image

/-- The cache brought down to its 16 entries; `n` bounds the number of contexts in it. -/
def State.trimCache (s : State) (c n : Nat) : State :=
  match n with
  | 0 => s
  | m + 1 => if maxContextCache < ((s.lp c).cache.map cacheUse).sum then (s.areaWriteback c).trimCache c m else s

def State.toCache (s : State) (c : Nat) (x : SavedCtx) : State :=
  let s1 := s.setLp c { s.lp c with cache := (s.lp c).cache ++ [x] }
  s1.trimCache c (s1.lp c).cache.length

/-- Where the queues of a pair are kept while it is saved. -/
def savedPair (code : Nat) : Nat := 16 + code

def State.movePair (s : State) (c i j : Nat) : State :=
  let p := s.lp c
  match findAt p.pairs i with
  | some q => s.setLp c { p with pairs := setAt (dropAt p.pairs i) j q }
  | none => s

/-- Whether the condition of a sleeper holds as its save ends (R202). -/
def State.conditionMet (s : State) (c : Ctx) : Bool :=
  match c.wait with
  | .sleepMilestone pa g => moduleOf pa = s.module && reaches (s.milestone pa).gen g
  | .sleepTask => false
  | .production g => !(s.disp.productions.any fun q => q.2.1 = g)
  | _ => true

/-- One slot's context leaves it (R202). -/
def State.saveOne (s : State) (c t : Nat) (asleep : Bool) : State :=
  let a := Agent.thread c t
  match s.slot c t with
  | none => s
  | some sl =>
    let s1 := s.releaseLocks a
    let cx := s1.ctx a
    let still := asleep && !s1.conditionMet cx
    let k := s1.taskAt c sl.task
    -- a WAIT that was woken during the save uses Y up (R203)
    let woken := asleep && cx.wait = .none
    let s2 := if woken then s1.setTaskAt c sl.task { k with ready := false } else s1
    let code := ctxCode sl.task (if k.ds && decide (8 ≤ t) then sl.tid + 16 else sl.tid) sl.visitor
    let kept : Ctx := if still then cx else { cx with wait := (match cx.wait with
      | .sleepMilestone _ _ => .again
      | .production _ => .again
      | w => w) }
    let x : SavedCtx := ⟨sl.task, (if k.ds && decide (8 ≤ t) then sl.tid + 16 else sl.tid), sl.visitor, kept, still, none, s2.revSeq, sl.slice, 0⟩
    let s3 := s2.setLp c { s2.lp c with slots := dropAt (s2.lp c).slots t }
    let s4 := match kept.wait, still with
      | .sleepMilestone pa _, true => s3.setLp c { s3.lp c with watch := (s3.lp c).watch ++ [(sl.task, code, canon pa)] }
      | _, _ => s3
    ((s4.renamePending a (savedAgent c code) cx.holds).toCache c x).movePair c t (savedPair code)

/-- The slot of a context that is being restored, with the code of the context. -/
def State.restoringCode (s : State) (c t : Nat) (sl : Slot) : Nat :=
  ctxCode sl.task (if (s.taskAt c sl.task).ds && decide (8 ≤ t) then sl.tid + 16 else sl.tid) sl.visitor

/-- One slot's context comes back (R27, R112, R202), with the cause of a rollback that came meanwhile. -/
def State.restoreOne (s : State) (c t : Nat) : Option Nat × State :=
  let a := Agent.thread c t
  match s.slot c t with
  | none => (none, s)
  | some sl =>
    let code := s.restoringCode c t sl
    match (s.lp c).cache.find? (fun x => x.code = code) with
    | none => (none, s)
    | some x =>
      let s1 := s.setLp c { s.lp c with cache := (s.lp c).cache.erase x }
      let cx := s1.reviveHandles (.lc c) x.ctx x.seq
      -- a revocation meanwhile covers the handle of a pending operation (R361)
      let lost := x.ctx.wayOpen && x.ctx.journal.any fun e => e.2.held && s1.handleLost (.lc c) e.2.hval x.seq
      let s2 := ((s1.setCtx a cx).renamePending (savedAgent c code) a cx.holds).movePair c (savedPair code) t
      let s3 := s2.occupy c t { sl with state := .running, next := none }
      (if lost then some (x.rollback.getD 0x04) else x.rollback, s3.acquireFor a true)

/-- The contexts of a slot, or of a pair's slots, come back: a rollback that came meanwhile takes the restore's place (R363). -/
def State.restoreAll (s : State) (c t : Nat) (us : List Nat) : State :=
  let step (acc : Option Nat × State) (u : Nat) : Option Nat × State :=
    let (r, x) := acc.2.restoreOne c u
    (acc.1 <|> r, x)
  match us.foldl step (none, s) with
  | (some cause, s1) => s1.rollback (.thread c t) cause
  | (none, s1) => s1

/-- A thread leaves its slot: out of rotation until its save is done (R112, R202). The slot, or the first slot of a pair, is granted to a task
as the swap begins: `next`. -/
def State.startSave (s : State) (c t : Nat) (asleep : Bool) (next : Option Nat) : State :=
  let ds := match s.slot c t with
    | some sl => (s.taskAt c sl.task).ds
    | none => false
  let mark (x : State) (u : Nat) : State :=
    match x.slot c u with
    | some sl => x.occupy c u { sl with state := .saving asleep, next := if u = t then next else none }
    | none => x
  (((pairSlots ds t).foldl mark s).count (.lc c) 0x0007 1).push (.contextSwapComplete c t)

/-- A grant moves a task to the tail of its base level (R198). -/
def State.granted (s : State) (c idx : Nat) : State :=
  let k := s.taskAt c idx
  (s.setTaskAt c idx { k with eprio := k.bprio, age := 0 }).toTail c idx

/-- A Queued thread that has been saved is brought back: from the context area through the cache (R202). -/
def State.startSaved (s : State) (c idx t tid : Nat) (visitor : Bool) : State :=
  let k := s.taskAt c idx
  let code := ctxCode idx tid visitor
  let s1 := (pairSlots k.ds t).foldl (fun x u => x.occupy c u ⟨idx, tid, visitor, .restoring, k.slice * 64, x.cycle, true, none⟩) s
  if (s.lp c).cache.any (fun x => x.code = code) then s1.push (.contextSwapComplete c t)
  else s1.push (.contextAreaReadback c idx (tid + bit visitor * 32))

/-- The grant of a slot, or of a pair's leading slot, to a task (R198). -/
def State.grant (s : State) (c idx t : Nat) : State :=
  let k := s.taskAt c idx
  let s1 := s.granted c idx
  match s1.arrivalFor c k with
  | some v => s1.startVisitor c idx t v
  | none =>
    match s1.queuedTid c idx with
    | none => s1
    | some tid =>
      if k.unstarted.contains tid then s1.startFresh c idx t tid
      else
        s1.startSaved c idx t tid (!((s1.queuedSaved c idx).any fun x => x.tid = tid && !x.visitor))

/-! ### Eviction and pre-emption (R200) -/

/-- Entries of the watch list that are taken, or will be by sleepers on their way out (R202). -/
def State.watching (s : State) (c : Nat) : Nat :=
  (s.lp c).watch.length + ((s.lp c).slots.filter fun e => e.2.state = .saving true && (match (s.ctx (.thread c e.1)).wait with
    | .sleepMilestone _ _ => true
    | _ => false)).length

/-- Whether a thread sleeps in a wait that eviction may end (R159, R163, R200). -/
def State.evictable (s : State) (c : Nat) (w : Wait) : Bool :=
  match w with
  | .sleepMilestone _ _ => decide (s.watching c < maxWatch)
  | .sleepTask => true
  | .production _ => true
  | _ => false

/-- The slots of a core's pair `t`, of a single slot `t`, that hold a thread. -/
def State.takenSlots (s : State) (c : Nat) (ds : Bool) (t : Nat) : List (Nat × Slot) := (s.lp c).slots.filter fun e => (pairSlots ds t).contains e.1

/-- The slots, or for a double-stitch task the pairs, that can be freed by threads of which each passes a test (R200): by their numbers. A pair of
another task is freed as one, and only for a task that needs a pair. -/
def State.victims (s : State) (c : Nat) (ds : Bool) (f : Nat → Slot → Bool) : List Nat :=
  (List.range (if ds then 8 else 16)).filter fun t =>
    let us := s.takenSlots c ds t
    us ≠ [] && us.all fun e => e.2.state = .running && f e.1 e.2 && (ds || !(s.taskAt c e.2.task).ds)

/-- The first of a list under a key compared from its first component on. -/
def leastBy {α : Type} (key : α → Nat × Nat × Nat) (l : List α) : Option α :=
  l.foldl (fun best x => match best with
    | none => some x
    | some y =>
      let (a1, a2, a3) := key x
      let (b1, b2, b3) := key y
      if a1 < b1 ∨ (a1 = b1 ∧ (a2 < b2 ∨ (a2 = b2 ∧ a3 < b3))) then some x else some y) none

/-- A slice left, for the order of pre-emption: a slice of 0 never expires (R200). -/
def sliceLeft (e : Slot) (k : Task) : Nat := if k.slice = 0 then 2 ^ 32 else e.slice

/-- Whether a slot's thread is in rotation (R163). -/
def State.inRotation (s : State) (c t : Nat) : Bool := (s.ctx (.thread c t)).wait = .none

/-- The threads of a slot or pair leave it for a task. -/
def State.vacateFor (s : State) (c idx t : Nat) (asleep : Bool) : State :=
  let k := s.taskAt c idx
  let us := s.takenSlots c k.ds t
  -- a pair of another task is saved by its leading slot
  let leads := us.filter fun e => !((s.taskAt c e.2.task).ds && decide (8 ≤ e.1))
  let first := (leads.head?.map (·.1)).getD t
  (leads.foldl (fun x e => x.startSave c e.1 asleep (if e.1 = first then some idx else none)) s).granted c idx

/-- A slot freed for an eligible task that finds none (R200): a sleeper evicted, or a thread of lower priority pre-empted. -/
def State.makeSlot (s : State) (c idx : Nat) : Option State :=
  let k := s.taskAt c idx
  let prio (t : Nat) : Nat := 3 - (((s.takenSlots c k.ds t).map fun e => (s.taskAt c e.2.task).bprio).foldl max 0) % 4
  -- the trailing thread of a pair that sleeps waits for its partner
  let sleepers := s.victims c k.ds fun u e =>
    s.evictable c (s.ctx (.thread c u)).wait || ((s.taskAt c e.task).ds && decide (8 ≤ u) && (s.ctx (.thread c u)).wait = .again)
  let since (t : Nat) : Nat := ((s.takenSlots c k.ds t).map (·.2.since)).min?.getD 0
  match leastBy (fun t => (prio t, since t, t)) sleepers with
  | some t => some (s.vacateFor c idx t true)
  | none =>
    let running := s.victims c k.ds fun u e => s.inRotation c u && decide (k.eprio < (s.taskAt c e.task).bprio)
    let left (t : Nat) : Nat := ((s.takenSlots c k.ds t).map fun e => sliceLeft e.2 (s.taskAt c e.2.task)).min?.getD 0
    match leastBy (fun t => (prio t, left t, t)) running with
    | some t => some (s.vacateFor c idx t false)
    | none => none

/-- Whether a core still repartitions before a new launch starts on it (R37). -/
def State.repartitioning (s : State) (c : Nat) : Bool :=
  s.agenda.any fun i => match i with
    | .repartition u _ => u = c
    | _ => false

/-- A context that comes into a free slot is a swap that is counted (R429). -/
def State.countLoad (s : State) (c t : Nat) : State :=
  if (s.slot c t).any fun sl => sl.state = .restoring then s.count (.lc c) 0x0007 1 else s

/-- A slot is granted to the head of the lowest level that one is free for; else one is freed for the first that one can be freed for (R198,
R200). -/
def execSlotGrant (core : Nat) (s : State) : Out :=
  let s1 := s.refreshReady core
  let order := s1.readyOrder core
  .next (if s.gang.suspended.contains (s.lp core).key then s
    else if s1.repartitioning core then s1.push (.slotGrant core)
    else match order.findSome? (fun i => (s1.slotFor core (s1.taskAt core i)).map fun t => (i, t)) with
      | some (i, t) =>
        ((s1.grant core i t).countLoad core t).push (.slotGrant core)
      | none =>
        match order.findSome? fun i => s1.makeSlot core i with
        | some s2 => s2.push (.slotGrant core)
        | none => s1)

/-- A step pushed unless it is due already. -/
def State.pushOnce (s : State) (i : Instr) : State := if s.agenda.contains i then s else s.push i

/-! ### The ends of a swap (R202) -/

def execContextSwapComplete (core slot : Nat) (s : State) : Out :=
  .next (match s.slot core slot with
    | none => s
    | some sl =>
      let us := pairSlots (s.taskAt core sl.task).ds slot
      -- the task that the slot has been granted to starts in it (R202, R203), a pair's once its other slot is free too
      let start (x : State) : State :=
        match sl.next with
        | none => x.push (.slotGrant core)
        | some i =>
          let t := if (x.taskAt core i).ds then slot % 8 else slot
          if x.gang.suspended.contains (x.lp core).key = false ∧ (x.taskAt core i).valid = true ∧
              ((pairSlots (x.taskAt core i).ds t).all fun u => (x.slot core u).isNone) = true then (x.grant core i t).push (.slotGrant core)
          else x.push (.slotGrant core)
      match sl.state with
      | .running => s
      | .restoring => s.restoreAll core slot us
      | .saving asleep =>
        -- the release of R112 first
        let step (acc : Bool × State) (u : Nat) : Bool × State :=
          let (ok, x) := acc.2.releaseFor (.thread core u) true false
          (acc.1 && ok, x)
        let (done, s1) := us.foldl step (true, s)
        if done && us.all (fun u => !s1.onTheWay (.thread core u)) then start (us.foldl (fun x u => x.saveOne core u asleep) s1)
        else s1.push (.contextSwapComplete core slot))

/-- A context of the context area comes into the cache, and its swap begins (R202). `tid` is its thread, plus 32 for a visitor. -/
def execContextAreaReadback (core task tid : Nat) (s : State) : Out :=
  let mine (x : SavedCtx) : Bool := x.task = task && x.tid % 16 = tid % 16 && x.visitor == decide (32 ≤ tid)
  let p := s.lp core
  let got := p.area.filter mine
  let s1 := s.setLp core { p with area := p.area.filter fun x => !mine x }
  let s2 := got.foldl (fun x e => x.toCache core e) s1
  .next (match (s2.lp core).slots.find? (fun e => e.2.task = task && e.2.tid = tid % 16 && e.2.visitor == decide (32 ≤ tid) && e.2.state = .restoring) with
    | some e => s2.push (.contextSwapComplete core e.1)
    | none => s2)

/-- A full thread-context cache writes out its least recently used context (R202). -/
def execContextAreaWriteback (core : Nat) (s : State) : Out :=
  .next (if maxContextCache ≤ ((s.lp core).cache.map cacheUse).sum then s.areaWriteback core else s)

/-! ### Wakes (R111, R197, R202, R203, R335) -/

/-- A saved context changed wherever it is kept. -/
def State.mapSaved (s : State) (c : Nat) (f : SavedCtx → SavedCtx) : State :=
  s.setLp c { s.lp c with cache := (s.lp c).cache.map f, area := (s.lp c).area.map f }

/-- A watched generation has changed: the evicted sleepers whose word it is are Queued (R202). -/
def execWatchNotify (core pa : Nat) (s : State) : Out :=
  let hit := ((s.lp core).watch.filter fun w => w.2.2 = pa).map (·.2.1)
  let s1 := s.setLp core { s.lp core with watch := (s.lp core).watch.filter fun w => w.2.2 ≠ pa }
  let wake (x : SavedCtx) : SavedCtx := if hit.contains x.code && x.asleep then { x with asleep := false, ctx := { x.ctx with wait := .again } } else x
  -- sleepers in slots on a word of another module try again
  let s2 := (List.range 16).foldl (fun x t => match (x.ctx (.thread core t)).wait with
    | .sleepMilestone w _ => if canon w = pa ∧ (x.slot core t).isSome then x.setCtx (.thread core t) { x.ctx (.thread core t) with wait := .again } else x
    | _ => x) s1
  .next ((s2.mapSaved core wake).push (.slotGrant core))

/-- A woken WAIT completes. -/
def Ctx.woken (c : Ctx) : Ctx := ({ c with wait := .none } : Ctx).advance 4#48

/-- Y of a task becomes 1 (R197, R203): sleepers in WAIT wake and Y returns to 0; a save in progress lets Y stand until it ends. -/
def State.setReady (s : State) (c idx : Nat) : State :=
  let k := s.taskAt c idx
  let asleep (e : Nat × Slot) : Bool := e.2.task = idx && (s.ctx (.thread c e.1)).wait = .sleepTask
  let here := (s.lp c).slots.filter asleep
  let resident := here.filter fun e => e.2.state = .running
  let evicted := (s.lp c).saved.any fun x => x.task = idx && x.asleep && x.ctx.wait = .sleepTask
  let s1 := here.foldl (fun x e => x.setCtx (.thread c e.1) (x.ctx (.thread c e.1)).woken) s
  let s2 := s1.mapSaved c fun x => if x.task = idx ∧ x.asleep = true ∧ x.ctx.wait = .sleepTask then { x with asleep := false, ctx := x.ctx.woken } else x
  let s3 := s2.setTaskAt c idx { k with ready := resident.isEmpty && !evicted }
  if evicted then s3.push (.slotGrant c) else s3

/-- The timer of a task, or of a dense tile, expires (R335). -/
def execTimerExpiry (u : CoreRef) (task : Nat) (s : State) : Out :=
  .next (match u with
    | .lc c =>
      let k := s.taskAt c task
      if k.valid then (s.setTaskAt c task { k with timer := 0#64 }).setReady c task else s
    | .dt j =>
      let p := s.dp j
      let b := p.timerBank
      if (findAt p.banks b).isNone then s.setDp j { p with timer := 0#64 }
      else (s.setDp j { p with
        timer := 0#64
        traps := p.traps ++ [⟨b, 0, ⟨0x18, 0, 0⟩, 1, 0, 0, (s.ctx (.bank j b)).pc, false, false, false, false, p.vcc, none, 0⟩] }).push (.trapDrain j))

/-! ### Slices and aging (R199, R200) -/

/-- Whether a core has a free slot. -/
def State.anyFree (s : State) (c : Nat) : Bool := (List.range 16).any fun t => (s.slot c t).isNone

/-- The eligible task that a thread gives way to (R200, R338). -/
def State.yieldsTo (s : State) (c t : Nat) : Option Nat :=
  match s.slot c t with
  | none => none
  | some sl =>
    if !s.anyFree c && s.inRotation c t && sl.state = .running then
      ((s.refreshReady c).readyOrder c).find? fun i =>
        decide ((s.taskAt c i).eprio ≤ (s.taskAt c sl.task).bprio) && (s.taskAt c i).ds == (s.taskAt c sl.task).ds
    else none

def State.yields (s : State) (c t : Nat) : Bool := (s.yieldsTo c t).isSome

/-- A thread pre-empted at its turn boundary for the task that it gives way to. -/
def State.preempt (s : State) (c t : Nat) : State :=
  let s1 := s.refreshReady c
  match s.yieldsTo c t with
  | some i => (s1.startSave c (if (s.partner (.thread c t)).isSome then t % 8 else t) false (some i)).granted c i
  | none => s1

/-- A slice counter at zero: pre-emption, or the counter reloads (R200). -/
def State.expire (s : State) (c t : Nat) : State :=
  if s.yields c t then s.preempt c t
  else match s.slot c t with
    | some sl => s.occupy c t { sl with slice := (s.taskAt c sl.task).slice * 64 }
    | none => s

/-- An eligible task that is not granted ages (R199). -/
def State.ageTask (s : State) (c idx : Nat) : State :=
  let k := s.taskAt c idx
  if 4095 ≤ k.age then
    let s1 := s.setTaskAt c idx { k with age := 0, eprio := k.eprio - 1 }
    -- a task of level 0 keeps its place
    if k.eprio = 0 then s1 else s1.toTail c idx
  else s.setTaskAt c idx { k with age := k.age + 1 }

def execAgeTick (core : Nat) (s : State) : Out :=
  let s1 := s.refreshReady core
  .next (((s1.lp core).readyQ.foldl (fun x i => x.ageTask core i) s1).push (.slotGrant core))

/-! ### The end of a task (R70, R174, R190, R193, R196) -/

/-- Bind records that found no room are written again (R193), where the ring of 256 has room. -/
def State.retryBinds (s : State) : State :=
  s.disp.retryBind.foldl (fun x e =>
    let q := getAt x.disp.slotTable e.1 []
    if 256 ≤ q.length then { x with disp := { x.disp with retryBind := x.disp.retryBind ++ [e] } }
    else ({ x with disp := { x.disp with slotTable := setAt x.disp.slotTable e.1 (q ++ [e.2]) } }).push (.bindRecord e.1))
    { s with disp := { s.disp with retryBind := [] } }

/-- A task has ended: its launch counts it, and completes with its last task (R190). -/
def State.taskEnded (s : State) (tag : Nat) : State :=
  ((s.setLaunch tag fun l => { l with ended := l.ended + 1 }).retryBinds).push (.launchComplete tag)

/-- Whether a thread that issued a batch is still there, in a slot or saved. -/
def State.ownerLives (s : State) (owner : Nat) : Bool :=
  s.ctxs.any (fun e => e.2.holder ≠ 0 && holderOwner e.2.holder = owner) ||
    s.lcs.any fun e => e.2.plane.saved.any fun x => x.ctx.holder ≠ 0 && holderOwner x.ctx.holder = owner

/-- Whether a batch of a task is still under way (R115, step 2): a suspended one only while its thread may go on with it. -/
def State.tagBatches (s : State) (a : Agent) (tag : Nat) : Bool :=
  (s.batchesAt a).any fun b => b.task = tag && b.left ≠ 0 && b.state ≠ 5 && (b.state ≠ 4 || s.ownerLives b.owner)

/-- Whether the three conditions of R174 hold for a task none of whose threads is left; the end waits for the batches that its threads have left on the
core (R160). -/
def State.taskOver (s : State) (c idx : Nat) : Bool :=
  let k := s.taskAt c idx
  k.valid && !s.tagBatches (.thread c 0) (idx * 256 + k.inc % 256) && (k.unstarted = []) && ((s.lp c).slots.all fun e => e.2.task ≠ idx) && ((s.lp c).saved.all fun x => x.task ≠ idx) &&
    ((s.lp c).arrivals.all fun t => t.tag ≠ k.tag) && ((s.lc c).spill.all fun t => t.tag ≠ k.tag) && ((s.lc c).stalled.all fun t => t.tag ≠ k.tag) &&
    (match s.launchOf k with
      | some l => l.travel = 0
      | none => true)

def execTaskEnd (core task : Nat) (s : State) : Out :=
  let k := s.taskAt core task
  let last := (s.lp core).tasks.all fun e => e.1 = task || !e.2.valid || e.2.tag ≠ k.tag
  let maps := (s.lp core).mappings.any fun m => m.tag = k.tag
  .next (if s.taskOver core task = false then s
    else if last && maps then
      -- the launch's mappings on the core end first (R70)
      (s.endMappings core fun m => m.tag = k.tag).push (.taskEnd core task)
    else
      let s1 := s.setTaskAt core task { Task.reset with inc := (k.inc + 1) % 256 }
      let p := s1.lp core
      let free (e : Nat × Channel) : Nat × Channel := if e.2.task = some task then (e.1, ⟨none, []⟩) else e
      ((s1.setLp core { p with chans := p.chans.map free, readyQ := p.readyQ.filter (· ≠ task) }).taskEnded k.tag).push (.slotGrant core))

/-! ### The end of a launch (R159, R190, R413) -/

/-- A production has ended: waiting threads try their accesses again (R159). -/
def State.endProduction (s : State) (prod : Option (Nat × Nat × Nat)) : State :=
  match prod with
  | some (key, granule, _) =>
    { s with disp := { s.disp with productions := s.disp.productions.filter fun q => !(q.1 = key && q.2.1 = granule) } }.push (.producerEnd key granule)
  | none => s

def execLaunchComplete (tag : Nat) (s : State) : Out :=
  .next (match findAt s.disp.launches tag with
    | none => s
    | some l =>
      if l.ended < l.total then s
      else
        let s1 := s.writeCompletion l.record l.port (if l.killed = 0 then 0 else 2) 0 l.ended l.killed l.tstart s.timeNs
        let s2 := { s1 with disp := { s1.disp with launches := dropAt s1.disp.launches tag } }
        -- the tag names another launch from here on
        let s3 : State := { s2 with
          lcs := s2.lcs.map fun (e : Nat × LCore) => (e.1, { e.2 with plane := { e.2.plane with begun := e.2.plane.begun.filter (· ≠ tag) } })
          dts := s2.dts.map fun (e : Nat × DTile) => (e.1, { e.2 with plane := { e.2.plane with begun := e.2.plane.begun.filter (· ≠ tag) } }) }
        -- a free tag lets a waiting record be taken (R189)
        ((s3.endProduction l.prod).retryBinds).pushAll ((s3.disp.ports.filter fun e => e.2.queue ≠ []).map (fun e => .launchValidate (some e.1))
          ++ (if s3.disp.issued = [] then [] else [.launchValidate none])))

/-- The waits of a granule's production, in slots and saved (R159). -/
def execProducerEnd (key granule : Nat) (s : State) : Out :=
  let wake (c : Ctx) : Ctx := if c.wait = .production granule then { c with wait := .again, produced := true } else c
  -- threads that waited for a free production try again too
  let retry (c : Ctx) : Ctx := match c.wait with
    | .production g => if s.disp.productions.any (fun q => q.2.1 = g) then c else { c with wait := .again }
    | _ => c
  let mine (c : Nat) (task : Nat) : Bool := (s.taskAt c task).key = key
  let s1 := s.lcs.foldl (fun x e =>
    let y := e.2.plane.slots.foldl (fun z sl => if mine e.1 sl.2.task then z.setCtx (.thread e.1 sl.1) (wake (z.ctx (.thread e.1 sl.1))) else z) x
    (y.mapSaved e.1 fun v => if mine e.1 v.task ∧ v.ctx.wait = .production granule then { v with ctx := wake v.ctx, asleep := false }
      else if retry v.ctx ≠ v.ctx then { v with ctx := retry v.ctx, asleep := false } else v).push (.slotGrant e.1)) s
  let s2 := s1.dts.foldl (fun x e => e.2.plane.banks.foldl (fun z b =>
    if b.2.task.key = key then z.setCtx (.bank e.1 b.1) (wake (z.ctx (.bank e.1 b.1))) else z) x) s1
  .next { s2 with ctxs := s2.ctxs.map fun e => (e.1, retry e.2) }

/-- The dependence is met: the early-start quota lifts on every core (R201). -/
def execDependenceMet (tag : Nat) (s : State) : Out :=
  let s1 := s.setLaunch tag fun l => { l with depMet := true }
  .next (s1.pushAll ((s1.lcs.filter fun e => e.2.plane.tasks.any fun k => k.2.valid && k.2.tag = tag).map (fun e => .slotGrant e.1)
    ++ (s1.dts.filter fun e => e.2.plane.banks.any fun b => b.2.task.tag = tag).map fun e => .denseBankSwitch e.1))

end Sys2Proof.Machine
end

