-- ==== Sys2Proof/Machine/Launch.lean ====
section
/-! DEFINITION. Launch records: validation, ports, companions, tags, bind records and the start of a launch on a core (R34 to R37,
R182 to R193, R342, R343). -/

namespace Sys2Proof.Machine

/-! ### Bytes that an instruction reads before it goes on -/

/-- Bytes put together from their pieces. -/
def assemble (ps : List (Nat × List Byte)) (n : Nat) : List Byte :=
  (List.range n).map fun i => match ps.find? (fun p => decide (p.1 ≤ i) && decide (i < p.1 + p.2.length)) with
    | some p => p.2.getD (i - p.1) 0#8
    | none => 0#8

/-- Whether a piece is reached at once: the core's own tile memory and control space. -/
def State.atHand (s : State) (p : Nat × Nat × Nat) : Bool :=
  match s.siteOf (agentCore s.focus) p.1 with
  | .own _ => true
  | .control => true
  | _ => false

def State.readAtHand (s : State) (p : Nat × Nat × Nat) : List Byte :=
  match s.siteOf (agentCore s.focus) p.1 with
  | .control => s.controlRead s.curKey (offsetOf p.1) p.2.1
  | _ => s.read p.1 p.2.1

/-- `n` bytes at an offset of a checked handle, read at their sites; what follows gets them (R342 to R344). The instruction issues
again once the last of them has come. -/
def State.withBytes (s : State) (m : BitVec 3) (o : BitVec 64) (n : Nat) (k : List Byte → State → State) : State :=
  match s.cur.inbox with
  | some ps => k (assemble ps n) (s.setCur { s.cur with inbox := none })
  | none =>
    let ps := pieces (hBase (s.h m)) o.toNat n
    if ps.any (s.pieceBad (agentCore s.focus)) then s.trap 0x05 o m.toNat
    else if ps.any (s.piecePoison (agentCore s.focus)) then s.consumePoison s.focus
    else
      let out := ps.filter fun p => !s.atHand p
      let got := (ps.filter s.atHand).map fun p => (p.2.2, s.readAtHand p)
      if out = [] then k (assemble got n) s
      else
        let s1 := s.setCur { s.cur with inbox := some got, opnd := (o, m) }
        match s1.focus with
        | .thread _ _ =>
          (out.foldl (fun x p => (x.leaveLine p.1).sendRequest (x.requestOf .load p.1 p.2.1 [] (.inbox p.2.2) none false)) s1).await out.length 0 (.inbox 0)
        | .bank j _ => (s1.latePieces j false false (fun k => .inbox k) out).complete

/-- The word of an agent that waits for a step of another unit is answered: `opnd` holds its destination register (R342). -/
def State.answerWord (s : State) (a : Agent) (top : Nat) (v : BitVec 64) : State :=
  if s.waitsFor a top = false then s
  else
    let d := match a with
      | .thread _ _ => (s.ctx a).opnd.1
      | .bank j b => ((s.dp j).lates.find? (fun (l : Late) => l.bank = b && l.dest = Dest.none && l.slot = waitSlot top)).elim 0#64 fun (l : Late) => l.opnd.1
    (s.setCtx a ((s.ctx a).writeX (d.setWidth 5) v)).finish a top

/-! ### The launch record (R182 to R185) -/

def recKey (r : BitVec 512) : Nat := recBits r 0 63 48
def recEntry (r : BitVec 512) : Nat := recBits r 0 47 0
def recDP (r : BitVec 512) : Bool := recBits r 0x18 0 0 = 1
def recDword (r : BitVec 512) : Nat := recBits r 0x18 63 4 * 16
def recClass (r : BitVec 512) : Nat := recBits r 0x28 63 62
def recC (r : BitVec 512) : Bool := recBits r 0x28 61 61 = 1
def recDS (r : BitVec 512) : Bool := recBits r 0x28 60 60 = 1
def recWidth (r : BitVec 512) : Nat := recBits r 0x28 57 54
def recSpsz (r : BitVec 512) : Nat := recBits r 0x20 31 23

/-- The declared levels' descriptors, from level 0. -/
def recLevels (r : BitVec 512) : List Nat := (List.range (recNlev r + 1)).map (recLevel r)

def levelDomain (l : Nat) : Nat := bitsOf l 15 13
def levelTag (l : Nat) : Nat := bitsOf l 12 10
def levelExtent (l : Nat) : Nat := bitsOf l 9 0 + 1

/-- Tasks of a launch (R183). -/
def recTasks (r : BitVec 512) : Nat := ((recLevels r).map levelExtent).foldl (· * ·) 1

/-- Each domain at least the next, and thread scope on the last level alone (R185 check 4). -/
def domainsOk (ls : List Nat) : Bool :=
  match ls with
  | [] => true
  | [_] => true
  | a :: b :: rest => decide (levelDomain b ≤ levelDomain a) && decide (levelDomain a ≠ 0) && domainsOk (b :: rest)

/-- Whether a start-dependence word lies where R106 and R14 allow (R185 check 10). -/
def dwordOk (pa : Nat) : Bool := milestoneSpace pa && (spaceOf pa ≠ 4 || !reservedByte (offsetOf pa))

/-- The first check of R185 and R34 that a record fails: its detail. `key` is the port's key or the issuer's; `comp` the companion. -/
def State.recordFault (s : State) (key : Nat) (r : BitVec 512) (comp : Option (BitVec 512)) : Option Nat :=
  let dense := recClass r = 1
  let cscope := recBits r 0x28 53 50
  let unused := (List.range 8).any fun j => decide (recNlev r < j) && decide (recLevel r j ≠ 0)
  let badLevel (l : Nat) : Bool := decide (5 < levelDomain l) || levelTag l = 7
  if recBits r 0x10 5 0 ≠ 0 ∨ recBits r 0x18 3 1 ≠ 0 ∨ recBits r 0x20 15 0 ≠ 0 ∨ recBits r 0x28 49 48 ≠ 0 ∨ unused = true ∨
      1 < recClass r ∨ (recLevels r).any badLevel = true ∨ cscope = 7 then some 0x04
  else if recKey r ≠ key ∨ (findAt s.parts key).isNone = true then some 0x0A
  else if (if dense then recWidth r ≠ 0 ∨ recDS r = true else recDS r = true ∧ 7 < recWidth r) then some 0x05
  else if domainsOk (recLevels r) = false ∨ (recLevels r).any (fun l => decide (levelTag l < levelDomain l)) = true ∨ 2 ^ 32 < recTasks r then some 0x06
  else if (scopeIn r cscope).isNone = true then some 0x07
  else if recSpsz r % 16 ≠ 0 then some 0x01
  else if 288 < recSpsz r then some 0x02
  else if dense ∧ recSpsz r ≠ 0 then some 0x03
  else if 12 < recBits r 0x20 22 19 ∨ (recDP r = false ∧ recBits r 0x20 22 19 ≠ 0) then some 0x08
  else if recEntry r % (if dense then 16 else 4) ≠ 0 ∨ (recDP r = true ∧ dwordOk (recDword r) = false) then some 0x09
  else if crecOk r = false then some 0x0C
  else if recC r then (match comp with
    | some q => if recClass q = recClass r ∨ recC q = true then some 0x0B else none
    | none => some 0x0B)
  else none

/-! ### Accepting a record (R159, R188, R189) -/

/-- The lowest free launch tag. -/
def State.freeTag (s : State) : Option Nat := (List.range maxLaunches).find? fun t => (findAt s.disp.launches t).isNone

/-- Whether a start dependence is met when its launch is accepted (R201). -/
def State.metAtOnce (s : State) (r : BitVec 512) : Bool :=
  !recDP r || (decide (moduleOf (recDword r) = s.module) && reaches (s.milestone (recDword r)).gen (recBits r 0x20 63 32))

/-- The dispatch core asks the site of a dependence word on another module to tell it of the next generation but `seen` (R191, R201; DEDUCED, log 28). -/
def State.askDependence (s : State) (r : BitVec 512) (seen : Nat) : State :=
  let pa := recDword r
  let me := coreNumber s.module (.lc 0)
  if !recDP r || moduleOf pa = s.module then s
  else s.sendPacket (coreNumber (moduleOf pa) (.lc (homeCore pa))) me (recKey r) 0x4F 0 0 0 0 (.command (.thread 0 0) 0x4F [pa, seen, me + 2 ^ 24])

/-- The generation of a dependence word of another module: the launches that it is short of are asked for again. -/
def State.dependenceNews (s : State) (pa gen : Nat) : State :=
  (s.disp.launches.filter fun e => e.2.depMet = false && canon e.2.dword = pa).foldl (fun x e =>
    if reaches gen (recBits e.2.record 0x20 63 32) then x.push (.dependenceMet e.1) else x.askDependence e.2.record gen) s

/-- A launch-table entry for a valid record. -/
def State.acceptLaunch (s : State) (tag : Nat) (r : BitVec 512) (port : Option Nat) (who : Option Agent) (prod : Option (Nat × Nat × Nat)) : State :=
  let met := s.metAtOnce r
  let l : Launch := {
    record := r
    port := port
    issuer := who
    total := recTasks r
    bound := 0
    ended := 0
    killed := 0
    travel := 0
    tstart := 0
    tend := 0
    depMet := met
    prod := prod
    order := s.nextCmd
    placed := [] }
  let s1 := { s with
    disp := { s.disp with launches := setAt s.disp.launches tag l }
    nextCmd := s.nextCmd + 1 }
  if met then s1 else s1.askDependence r ((recBits r 0x20 63 32 + 2 ^ 32 - 1) % 2 ^ 32)

/-- The outcome of a record told to the LAUNCH that issued it (R342). -/
def State.tellLaunch (s : State) (who : Option Agent) (v : BitVec 64) : State :=
  match who with
  | some a => s.answerWord a 0xDC v
  | none => s

/-- A record rejected: its completion record, its production ended, and the outcome told (R159, R188, R342). -/
def State.rejectRecord (s : State) (r : BitVec 512) (port : Option Nat) (who : Option Agent) (prod : Option (Nat × Nat × Nat)) (detail : Nat) : State :=
  ((s.rejectLaunch r port detail).endProduction prod).tellLaunch who (BitVec.ofNat 64 (2 ^ 63 + detail * 2 ^ 48))

/-- One record decided on its own: accepted, rejected, or none where the launch table is full (R189). -/
def State.decide1 (s : State) (key : Nat) (r : BitVec 512) (port : Option Nat) (who : Option Agent) (prod : Option (Nat × Nat × Nat)) : Option State :=
  match s.recordFault key r none with
  | some d => some (s.rejectRecord r port who prod d)
  | none =>
    match s.freeTag with
    | none => none
    | some t => some ((s.acceptLaunch t r port who prod).tellLaunch who (BitVec.ofNat 64 t))

/-- A held record `a` and its companion `b` decided together (R185): the failure of either rejects both. -/
def State.decide2 (s : State) (key : Nat) (a b : BitVec 512) (port : Option Nat) (who : Option Agent) : Option State :=
  let fa := s.recordFault key a (some b)
  let fb := s.recordFault key b none
  if fa = none ∧ fb = none then
    (match s.freeTag with
      | none => none
      | some t =>
        let s1 := s.acceptLaunch t a port who none
        match s1.freeTag with
        | none => none
        | some u => some ((s1.acceptLaunch u b port who none).tellLaunch who (BitVec.ofNat 64 u)))
  else some ((s.rejectLaunch a port (fa.getD 0x0B)).rejectRecord b port who none (fb.getD 0x0B))

/-- A held record is recognised by its slot in the list: port, record. -/
def State.heldOnPort (s : State) (p : Nat) : Option (BitVec 512) :=
  (s.disp.companions.find? fun e => e.1 = some p).map (·.2.2)

def State.dropHeld (s : State) (p : Nat) : State :=
  { s with disp := { s.disp with
      companions := s.disp.companions.filter fun e => e.1 ≠ some p
      holds := dropAt s.disp.holds p } }

/-- A record of a port held until its companion comes, for at most 10^6 cycles of 1 ns (R185). -/
def State.holdRecord (s : State) (p : Nat) (r : BitVec 512) : State :=
  { s with disp := { s.disp with
      companions := s.disp.companions ++ [(some p, none, r)]
      holds := setAt s.disp.holds p (s.timeNs + 1000000) } }

/-- The dispatch core takes the head record of a port (R188), or of the LAUNCHes and production launches that wait (R159, R342). -/
def execLaunchValidate (port : Option Nat) (s : State) : Out :=
  .next (match port with
    | some p =>
      let q := getAt s.disp.ports p LaunchPort.reset
      match q.queue with
      | [] => s
      | r :: rest =>
        let took (x : State) : State :=
          let y := { x with disp := { x.disp with ports := setAt x.disp.ports p { getAt x.disp.ports p LaunchPort.reset with queue := rest } } }
          if rest = [] then y else y.push (.launchValidate (some p))
        match s.heldOnPort p with
        | some a =>
          (match (s.dropHeld p).decide2 q.key a r (some p) none with
            | some x => took x
            | none => s)
        | none =>
          if recC r then took (s.holdRecord p r)
          else (match s.decide1 q.key r (some p) none none with
            | some x => took x
            | none => s)
    | none =>
      match s.disp.issued with
      | [] => s
      | i :: rest =>
        let took (x : State) : State :=
          let y := { x with disp := { x.disp with issued := x.disp.issued.drop 1 } }
          if rest = [] then y else y.push (.launchValidate none)
        match i.who with
        | some a =>
          (match (s.ctx a).companion with
            | some r =>
              (match (s.setCtx a { s.ctx a with companion := none }).decide2 (s.key a) r i.record none (some a) with
                | some x => took x
                | none => s)
            | none =>
              if recC i.record then took ((s.setCtx a { s.ctx a with companion := some i.record, companionEnd := s.timeNs + 1000000 }).answerWord a 0xDC (BitVec.ofNat 64 (2 ^ 62)))
              else (match s.decide1 (s.key a) i.record none (some a) none with
                | some x => took x
                | none => s))
        | none =>
          match s.decide1 ((i.prod.map (·.1)).getD (recKey i.record)) i.record none none i.prod with
          | some x => took x
          | none => s)

/-- A host write to a port's record window (R187, R188). -/
def execLaunchPortRecord (port : Nat) (record : BitVec 512) (whole : Bool) (s : State) : Out :=
  let q := getAt s.disp.ports port LaunchPort.reset
  let put (p : LaunchPort) : State := { s with disp := { s.disp with ports := setAt s.disp.ports port p } }
  if 256 ≤ port then .fault .noSuchUnit
  else .next (if whole = false then put { q with mf := true }
    else if q.en = false then put { q with dropped := true }
    else if 16 ≤ q.queue.length then put { q with ov := true }
    else (put { q with queue := q.queue ++ [record], accepted := q.accepted + 1#32 }).push (.launchValidate (some port)))

/-- A held launch whose companion has not come within 1 ms is rejected (R185). `tag` names the holder: port n, or 256 + an agent's
number (DEDUCED, log 29). -/
def execCompanionTimeout (tag : Nat) (s : State) : Out :=
  .next (if tag < 256 then
      (match s.heldOnPort tag with
        | some r => if (findAt s.disp.holds tag).any (fun t => decide (t ≤ s.timeNs)) then (s.dropHeld tag).rejectLaunch r (some tag) 0x0B else s
        | none => s)
    else if (s.ctx (agentOfId (tag - 256))).companionEnd ≤ s.timeNs then s.dropCompanion (agentOfId (tag - 256))
    else s)

/-- The held launch of a saved thread at its time's end. -/
def State.expireSaved (s : State) (c : Nat) (x : SavedCtx) : State :=
  match x.ctx.companion with
  | some r =>
    if x.ctx.companionEnd ≤ s.timeNs then
      (s.mapSaved c fun y => if y.code = x.code then { y with ctx := { y.ctx with companion := none } } else y).rejectLaunch r none 0x0B
    else s
  | none => s

/-- The held launches whose time ends in a cycle (R185). -/
def State.tickHolds (s : State) : State :=
  let ports := (s.disp.holds.filter fun e => decide (e.2 ≤ s.timeNs)).map (·.1)
  let threads := (s.ctxs.filter fun e => e.2.companion.isSome && decide (e.2.companionEnd ≤ s.timeNs)).map (·.1 + 256)
  (s.lcs.foldl (fun x e => e.2.plane.saved.foldl (fun y v => y.expireSaved e.1 v) x)
    ((ports ++ threads).foldl (fun x t => x.pushOnce (.companionTimeout t)) s))

/-! ### LAUNCH and DREG (R342, R343) -/

def execLaunch (d a : BitVec 5) (n : BitVec 3) (s : State) : Out :=
  let o := s.x a
  .next (match checkHandle s.cur.sup (s.h n) o.toNat 64 64 .load true with
    | some 0x0E => s.dropFlow n o
    | some c => s.handleTrap c o n
    | none =>
      s.afterRelease true true fun t => t.withBytes n o 64 fun bs x =>
        let x1 := x.setCur { x.cur with opnd := (d.setWidth 64, n) }
        (({ x1 with disp := { x1.disp with
            issued := x1.disp.issued ++ [Issue.mk (some x1.focus) (BitVec.ofNat 512 (bytesToNat bs)) none] } }).awaitStep 0xDC).push (.launchValidate none))

/-- A registration entered, or removed where its count is 0 (R158). -/
def State.register (s : State) (key va count : Nat) (r : Option (BitVec 512)) : Option State :=
  let ps := s.disp.producers
  if count = 0 then some { s with disp := { s.disp with producers := ps.filter fun p => !(p.key = key && p.va = va) } }
  else if maxProducers ≤ (ps.filter fun p => p.key = key).length then none
  else some { s with disp := { s.disp with producers := ps ++ [Producer.mk key va count r] } }

def execDreg (a b : BitVec 5) (m : BitVec 1) (n : BitVec 3) (s : State) : Out :=
  let va := s.x a
  let count := (s.xg a 1).toNat
  let o := s.x b
  let enter (x : State) (r : Option (BitVec 512)) : State :=
    match x.register x.curKey va.toNat count r with
    | some y => y.complete
    | none => x.trap 0x0A va 7
  .next (if va.toNat % 65536 ≠ 0 then s.trap 0x07 va 0
    else if 65536 < count then s.trap 0x0A va 3
    else if m = 1#1 then enter s none
    else match checkHandle s.cur.sup (s.h n) o.toNat 64 64 .load true with
      | some 0x0E => s.dropFlow n o
      | some c => s.handleTrap c o n
      | none => s.withBytes n o 64 fun bs x =>
        let r := BitVec.ofNat 512 (bytesToNat bs)
        match x.recordFault x.curKey r none with
        | some d => x.trap 0x0A o (2 + d * 256)
        | none => enter x (some r))

/-! ### Tasks of a launch (R183, R184) -/

/-- The level indices of a task's linear index. -/
def indicesOf (exts : List Nat) (n : Nat) : List Nat :=
  match exts with
  | [] => []
  | _ :: rest => n / rest.foldl (· * ·) 1 :: indicesOf rest (n % rest.foldl (· * ·) 1)

/-- The logical core number of a task (R184). -/
def logicalCore (dense : Bool) (n : Nat) : Nat :=
  if dense then n / 64 % 4096 * 4096 + n / 32 % 2 * 512 + n / 2 % 16 * 32 + 16 + n % 2
  else n / 512 % 4096 * 4096 + n / 256 % 2 * 512 + n / 16 % 16 * 32 + n % 16

/-- Task `n` of a launch as it is bound (R182, R183, R194). -/
def newTask (l : Launch) (tag n slice inc : Nat) : Task :=
  let r := l.record
  { Task.reset with
    valid := true
    bprio := recBits r 0x28 59 58
    eprio := recBits r 0x28 59 58
    ds := recDS r
    width := recWidth r + 1
    tag := tag
    slice := slice
    inc := inc
    entry := BitVec.ofNat 48 (recEntry r)
    arg := BitVec.ofNat 48 (match l.prod with
      | some (_, g, _) => g * 65536
      | none => recBits r 0x28 47 0)
    n := n
    key := recKey r
    lcoreid := logicalCore (recClass r = 1) n
    levels := indicesOf ((recLevels r).map levelExtent) n
    seed := BitVec.ofNat 64 (recBits r 8 63 0)
    unstarted := List.range (recWidth r + 1)
    x2 := l.prod.map (·.2.2)
    early := !l.depMet }

/-! ### Starting a launch on a lookup core (R36, R37, R70) -/

/-- Bytes cleared to zero; their poison goes too. -/
def State.clearBytes (s : State) (pa n : Nat) : State :=
  { s with
    mem := s.mem.filter fun c => !(decide (pa ≤ c.1) && decide (c.1 < pa + n))
    poison := s.poison.filter fun g => !(decide (pa ≤ g * 64) && decide (g * 64 + 64 ≤ pa + n)) }

/-- A first start on a core (R37): the lines of banks that leave the L1 are given up and their write-backs accepted by their homes, on whatever
module, before the scratchpad is cleared. A changed partition lets the bind records that waited be written again (R193). -/
def execRepartition (core banks : Nat) (s : State) : Out :=
  .next (if (s.lp core).mappings ≠ [] then
      -- mappings that the core still holds end first (R70)
      (s.endMappings core fun _ => true).push (.repartition core banks)
    else
      let leaving := (s.lp core).l1.filter fun l => decide (l.way < banks)
      let s1 := leaving.foldl (fun x l => x.evict core l) s
      if (s1.lp core).wb ≠ [] then s1.push (.repartition core banks)
      else
        let s2 := (s1.setLp core { s1.lp core with banks := banks }).clearBytes (windowAddr s1.module (.lc core) 0) (banks * 0x4000)
        if (s.lp core).banks = banks then s2 else s2.retryBinds)

/-- The other launches that hold tasks on a core. -/
def State.otherTasks (s : State) (c tag : Nat) : List Task :=
  ((s.lp c).tasks.map (·.2)).filter fun k => k.valid && k.tag ≠ tag

/-- Whether a launch may be bound to a lookup core, and whether this is its first task there under the second case of R36 (R37). -/
def State.mayBind (s : State) (c tag : Nat) (r : BitVec 512) : Option Bool :=
  let others := s.otherTasks c tag
  let own := (s.lp c).tasks.any fun k => k.2.valid && k.2.tag = tag
  let same := (s.lp c).banks * 16 = recSpsz r
  if (s.lc c).fenced then none
  else if others = [] then
    (if own then (if same then some false else none) else some (!(same && (s.lp c).begun.contains tag)))
  else if same ∧ others.all (fun k => k.key = recKey r) = true then some false
  else none

/-! ### Bind records (R192, R193) -/

/-- The fields of a bind record (R192). -/
structure Bind where
  kind : Nat
  tag : Nat
  mask : Nat
  sect : Nat
  first : Nat
  slice : Nat
  tpc : Nat
  save : Nat
  reserved : Bool
  deriving DecidableEq, Repr

def bindOf (r : BitVec 256) : Bind :=
  let v := r.toNat
  { kind := bitsOf v 63 62
    tag := bitsOf v 61 50
    mask := bitsOf v 41 24
    sect := bitsOf v 23 0
    first := bitsOf v 127 96
    slice := bitsOf v 95 80
    tpc := bitsOf v 79 76
    save := bitsOf v 191 134 * 64
    reserved := decide (bitsOf v 49 42 ≠ 0) || decide (bitsOf v 75 64 ≠ 0) || decide (bitsOf v 133 128 ≠ 0) || decide (bitsOf v 255 192 ≠ 0) }

/-- The cores of a bind record's mask, upward. -/
def Bind.cores (b : Bind) : List Nat := (List.range 18).filter fun c => b.mask / 2 ^ c % 2 = 1

/-- The tiles of a dense bolt. -/
def tilesOfBind (b : Bind) : List Nat := b.cores.map fun c => bitsOf b.sect 9 9 * 32 + bitsOf b.sect 8 5 * 2 + (c - 16)

/-- Whether a bind record of a die's slot table is malformed (R192, R193). -/
def State.bindBad (s : State) (die : Nat) (b : Bind) : Bool :=
  b.reserved || decide (1 < b.kind) || decide (b.sect % 32 ≠ 0) || decide (moduleOfNumber b.sect ≠ s.module) ||
    decide (bitsOf b.sect 11 10 ≠ 0) || decide (bitsOf b.sect 9 9 ≠ die) ||
    (if b.kind = 0 then b.cores.any (fun c => decide (15 < c)) || decide (b.save ≠ 0) else b.cores.any (fun c => decide (c < 16)) || decide (b.tpc ≠ 0))

/-- Free entries of a core's task table, lowest first (R194). -/
def State.freeEntries (s : State) (c : Nat) : List Nat := (List.range 64).filter fun i => (s.taskAt c i).valid = false

/-- Tasks entered in a core's task table. -/
def State.bindTasks (s : State) (c tag : Nat) (l : Launch) (slice : Nat) (ns : List Nat) : State :=
  match ns with
  | [] => s
  | n :: rest =>
    match s.freeEntries c with
    | [] => s
    | i :: _ => (s.setTaskAt c i (newTask l tag n slice (s.taskAt c i).inc)).bindTasks c tag l slice rest

/-- Whether every release of a standby context is complete, as its save needs (R112). -/
def State.bankReleased (s : State) (j b : Nat) : Bool :=
  (findAt (s.dp j).banks b).isNone || (!(s.ctx (.bank j b)).posted && (s.ctx (.bank j b)).wbacks = 0 && !((s.dp j).lates.any fun l => l.bank = b))

/-- Whether every context on a tile is of a key: its banks share one (R35, R36). -/
def State.tileOfKey (s : State) (j key : Nat) : Bool := (s.dp j).banks.all fun e => e.2.task.key = key

/-- A bank's context written to the area that its bind record names (R204), which lies in this module's memory (DEDUCED, log 119). -/
def State.displace (s : State) (j b save : Nat) : State :=
  match findAt (s.dp j).banks b with
  | none => s
  | some i =>
    let c := s.ctx (.bank j b)
    let p := s.dp j
    let s1 := s.write (canon save) (imageOf true c c.pc s.revSeq i.vcc)
    { s1.setDp j { p with banks := dropAt p.banks b } with
      disp := { s1.disp with displaced := s1.disp.displaced ++ [(j, { i with hva := c.hva }, save)] } }

/-- A task's initial context loaded into the standby bank of a tile (R204). -/
def State.bindBank (s : State) (j tag : Nat) (l : Launch) (b : Bind) (n : Nat) : State :=
  let sb := 1 - (s.dp j).active
  let s1 := s.displace j sb b.save
  let k := newTask l tag n b.slice 0
  let p := s1.dp j
  let s2 := s1.setDp j { p with
    banks := setAt p.banks sb (BankInfo.mk { k with unstarted := [] } (b.slice * 512) false 0 false [] [] [])
    key := k.key }
  (s2.setCtx (.bank j sb) (startCtx true k (recBits l.record 0x28 53 50))).push (.denseBankSwitch j)

/-- The tasks that a bind record places, with the numbers of their cores (R192). -/
def Bind.places (b : Bind) : List (Nat × Nat) :=
  b.cores.zipIdx.flatMap fun e => (List.range (b.tpc + 1)).map fun t => (b.first + e.2 * (b.tpc + 1) + t, b.sect + e.1)

/-- The instance of a domain that a core lies in (R87). -/
def domainOf (domain core : Nat) : Nat :=
  match domain with
  | 0 => core
  | 1 => core
  | 2 => core / 32
  | 3 => core / 512
  | 4 => core / 4096
  | _ => 0

/-- Whether tasks whose indices agree at levels 0 to j lie within one instance of level j's domain (R183, R191). -/
def domainsKept (r : BitVec 512) (ps : List (Nat × Nat)) : Bool :=
  let ls := recLevels r
  let ix (n : Nat) : List Nat := indicesOf (ls.map levelExtent) n
  ps.all fun a => ps.all fun b => (List.range ls.length).all fun j =>
    (ix a.1).take (j + 1) ≠ (ix b.1).take (j + 1) || domainOf (levelDomain (ls.getD j 0)) a.2 = domainOf (levelDomain (ls.getD j 0)) b.2

/-- The bind records of a launch that are written and not consumed. -/
def State.bindsOf (s : State) (tag : Nat) : List Bind :=
  ((s.disp.slotTable.flatMap (·.2)).map bindOf).filter fun b => b.tag = tag

/-- Whether a bind record keeps what the part binds itself to (R183, R188, R191): each task is bound once, levels keep to their domains, and the
launches of one port start in the order in which they were accepted. -/
def State.placementOk (s : State) (b : Bind) : Bool :=
  match findAt s.disp.launches b.tag with
  | none => true
  | some l =>
    let old := l.placed ++ (s.bindsOf b.tag).flatMap Bind.places
    (b.places.all fun e => old.all fun o => o.1 ≠ e.1) && domainsKept l.record (old ++ b.places) &&
      (l.port.isNone || s.disp.launches.all fun e => e.2.port ≠ l.port || decide (l.order ≤ e.2.order) || decide (0 < e.2.bound))

/-- The result of a bind record, and the state with the bolt bound where it is 0 (R193). -/
def State.bind1 (s : State) (die : Nat) (b : Bind) : Nat × State :=
  match findAt s.disp.launches b.tag with
  | none => (if s.bindBad die b then 3 else 4, s)
  | some l =>
    let dense := b.kind = 1
    let count := b.cores.length * (b.tpc + 1)
    if s.bindBad die b ∨ recClass l.record ≠ b.kind ∨ l.total < b.first + count then (3, s)
    -- a launch of a key that is switched out stays unbound (R380)
    else if s.gang.suspended.contains (recKey l.record) then (1, s)
    else if dense then
      let tiles := tilesOfBind b
      if tiles.any (fun j => (s.dt j).fenced || !s.tileOfKey j (recKey l.record)) then (1, s)
      else
        (0, (tiles.zipIdx.foldl (fun x e => x.bindBank e.1 b.tag l b (b.first + e.2)) s).setLaunch b.tag fun m => { m with bound := m.bound + count, placed := m.placed ++ b.places })
    else
      let cs := b.cores.map fun c => bitsOf b.sect 9 9 * 256 + bitsOf b.sect 8 5 * 16 + c
      if cs.any (fun c => (s.mayBind c b.tag l.record).isNone) then (1, s)
      else if cs.any (fun c => decide ((s.freeEntries c).length < b.tpc + 1)) then (2, s)
      else
        let put (x : State) (e : Nat × Nat) : State :=
          let (c, i) := e
          let ns := (List.range (b.tpc + 1)).map fun t => b.first + i * (b.tpc + 1) + t
          let new := x.mayBind c b.tag l.record = some true
          let x1 := x.setLp c { x.lp c with key := recKey l.record, begun := if (x.lp c).begun.contains b.tag then (x.lp c).begun else (x.lp c).begun ++ [b.tag] }
          let x2 := x1.bindTasks c b.tag l b.slice ns
          (if new then x2.push (.repartition c (recSpsz l.record / 16)) else x2).push (.slotGrant c)
        (0, (cs.zipIdx.foldl put s).setLaunch b.tag fun m => { m with bound := m.bound + count, placed := m.placed ++ b.places })

/-- The next record of a die's slot table is consumed and its result written (R193). -/
def execBindRecord (die : Nat) (s : State) : Out :=
  .next (match getAt s.disp.slotTable die [] with
    | [] => s
    | r :: rest =>
      if (bindOf r).kind = 1 ∧ (tilesOfBind (bindOf r)).any (fun j => !s.bankReleased j (1 - (s.dp j).active)) = true then s.push (.bindRecord die)
      else
      let s0 := { s with disp := { s.disp with slotTable := setAt s.disp.slotTable die rest } }
      let (code, s1) := s0.bind1 die (bindOf r)
      let d := s1.disp
      { s1 with disp := { d with
          results := setAt d.results die (getAt d.results die [] ++ [code])
          retryBind := if code = 1 ∨ code = 2 then d.retryBind ++ [(die, r)] else d.retryBind } })

/-- The dispatch core of a die writes a bind record (R191 to R193): the ring holds 256, and no record breaks what the part binds itself to. A record
that waits to be written again for one of its tasks gives way to it. -/
def execDispatchPlacement (die : Nat) (record : BitVec 256) (s0 : State) : Out :=
  let b := bindOf record
  let again (e : Nat × BitVec 256) : Bool := (bindOf e.2).tag = b.tag && (bindOf e.2).places.any fun o => b.places.any fun n => n.1 = o.1
  let s := { s0 with disp := { s0.disp with retryBind := s0.disp.retryBind.filter fun e => !again e } }
  let q := getAt s.disp.slotTable die []
  if 2 ≤ die then .fault .noSuchUnit
  else .next (if 256 ≤ q.length ∨ s.placementOk b = false then s0
    else ({ s with disp := { s.disp with slotTable := setAt s.disp.slotTable die (q ++ [record]) } }).push (.bindRecord die))

end Sys2Proof.Machine
end

