-- ==== Sys2Proof/Machine/Travel.lean ====
section
/-! DEFINITION. Travelling threads: MIGR, SPAWN, RLD in migrate mode, and the arrival and return of their contexts (R113, R169 to R174,
R271, R341). -/

namespace Sys2Proof.Machine

/-- A thread of an own slot that moves raises its launch's live travel count (R174). -/
def State.raiseTravel (s : State) (tag : Nat) : State := s.setLaunch tag fun l => { l with travel := l.travel + 1 }

/-- A context on its way to its destination core, or back to its sender (R169, R173). -/
def State.sendTravel (s : State) (t : Travel) : State :=
  let m := moduleOfNumber t.dst
  if m = s.module then s.push (.travelContextArrival t)
  else if s.admits m t.key then s.sendPacket t.dst t.src t.key 0 t.tag 0 0 1 (.travel t)
  else s.push (.contextReturn { t with back := some ⟨0x13, 0x21, t.dst⟩ })

/-- A context returned to the core that it was sent from (R173). -/
def State.returnTravel (s : State) (t : Travel) (x : Refused) : State :=
  let back := { t with back := some x }
  if moduleOfNumber t.src = s.module then s.push (.contextReturn back)
  else s.sendPacket t.src t.dst t.key 0 t.tag 0 0 1 (.travel back)

/-- The registers x1 to x7 that a context carries. -/
def State.travelRegs (s : State) : List (BitVec 64) := (List.range 7).map fun i => s.x (BitVec.ofNat 5 (i + 1))

/-- A context of the agent in issue (R169). -/
def State.travelOf (s : State) (pc : BitVec 48) (dst : Nat) (spawner : Option Agent) (number : Nat) : Travel where
  pc := pc
  regs := s.travelRegs
  dst := dst
  src := s.coreNo s.focus
  key := s.curKey
  tag := (s.task s.focus).tag
  scnt := (s.part s.curKey).scount.toNat
  spawner := spawner
  number := number
  back := none

/-- The home lookup core of an address, as a core number (R271). -/
def homeNumber (pa : Nat) : Nat := coreNumber (moduleOf pa) (.lc (homeCore pa))

/-- One more context of core `c` is on its way (R172). -/
def State.moreOutbound (s : State) (c : Nat) : State := s.setLp c { s.lp c with outbound := (s.lp c).outbound + 1 }

/-- The thread's slot is free once its context has left; a pair frees both (R170, R174). -/
def State.vacate (s : State) (c t : Nat) : State :=
  match s.slot c t with
  | none => s
  | some sl =>
    let s1 := (pairSlots (s.taskAt c sl.task).ds t).foldl (fun x u =>
      ((x.releaseLocks (.thread c u)).dropCompanion (.thread c u)).freeSlot c u) s
    s1.setLp c { s1.lp c with pairs := dropAt (s1.lp c).pairs (t % 8) }

/-- The thread in issue leaves with a context: a visitor's move leaves the live travel count as it is (R174). -/
def State.depart (s : State) (t : Travel) (send : State → State) : State :=
  match s.focus with
  | .bank _ _ => s
  | .thread c u =>
    let visitor := match s.slot c u with
      | some sl => sl.visitor
      | none => false
    send (((if visitor then s else s.raiseTravel t.tag).moreOutbound c).vacate c u)

/-- Whether the thread in issue has answers outstanding that would reach its slot after it has left (DEDUCED, log 30). -/
def State.unanswered (s : State) : Bool :=
  s.cur.posted || decide (s.cur.wbacks ≠ 0) || (match s.focus with
    | .thread c t => (s.lp c).unaccepted t false
    | .bank _ _ => false)

/-- Whether its core has no room for one more outbound migration (R172). -/
def State.outboundFull (s : State) : Bool :=
  match s.focus with
  | .thread c _ => decide (64 ≤ (s.lp c).outbound)
  | .bank _ _ => false

/-- MIGR to a core: the release of R113, the wait of R172, and the departure. -/
def State.migrateTo (s : State) (dst : Nat) : State :=
  s.afterRelease true (dst ≠ s.coreNo s.focus) fun x =>
    if x.unanswered || x.outboundFull then x.again
    else
      let t := x.travelOf (x.cur.pc + 4#48) dst none 0
      x.depart t fun y => y.sendTravel t

/-- SPAWN to a core: the issuer goes on. -/
def State.spawnTo (s : State) (dst : Nat) (pc : BitVec 64) : State :=
  s.afterRelease true (dst ≠ s.coreNo s.focus) fun x =>
    if decide (8 ≤ x.cur.spawned) || x.outboundFull then x.again
    else
      let x0 := x.giveHolder x.focus
      let t := x0.travelOf (pc.setWidth 48) dst (some x0.focus) x0.cur.holder
      let x1 := (x0.setCur { x0.cur with spawned := x0.cur.spawned + 1 }).raiseTravel t.tag
      let x2 := match x1.focus with
        | .thread c _ => x1.moreOutbound c
        | .bank _ _ => x1
      (x2.sendTravel t).complete

/-- A core number that names a lookup core (R4, R341). -/
def lookupNumber (v : BitVec 64) : Option Nat :=
  if 2 ^ 24 ≤ v.toNat then none
  else match coreOfNumber v.toNat with
    | some (.lc _) => some v.toNat
    | _ => none

/-- The core that offset `o` of a handle chooses, after R24 with load rights over one byte (R341). -/
def State.coreVia (s : State) (n : BitVec 3) (o : BitVec 64) (k : Nat → State) : State :=
  match checkHandle s.cur.sup (s.h n) o.toNat 1 1 .load true with
  | some c => s.handleTrap c o n
  | none =>
    let pa := canon (hBase (s.h n) + o.toNat)
    if spaceOf pa = 6 then s.handleTrap 0x06 o n else k (homeNumber pa)

def execMigr (a : BitVec 5) (s : State) : Out :=
  .next (if s.cur.wayOpen then s.illegal (wordOf (.migr a)) 0x0A
    else match lookupNumber (s.x a) with
      | none => s.trap 0x05 (s.x a) 0
      | some n => s.migrateTo n)

def execMigrHandle (a : BitVec 5) (n : BitVec 3) (s : State) : Out :=
  .next (if s.cur.wayOpen then s.illegal (wordOf (.migrHandle a n)) 0x0A
    else s.coreVia n (s.x a) s.migrateTo)

def execSpawn (a b : BitVec 5) (s : State) : Out :=
  .next (if s.cur.wayOpen then s.illegal (wordOf (.spawn a b)) 0x0A
    else match lookupNumber (s.x a) with
      | none => s.trap 0x05 (s.x a) 0
      | some n => if (s.x b).toNat % 4 ≠ 0 then s.trap 0x07 (s.x b) 0 else s.spawnTo n (s.x b))

def execSpawnHandle (a b : BitVec 5) (n : BitVec 3) (s : State) : Out :=
  .next (if s.cur.wayOpen then s.illegal (wordOf (.spawnHandle a b n)) 0x0A
    else s.coreVia n (s.x a) fun c => if (s.x b).toNat % 4 ≠ 0 then s.trap 0x07 (s.x b) 0 else s.spawnTo c (s.x b))

/-- RLD in migrate mode (R271): the value is read at the site first, and goes with the context; a refusal goes with it to its sender. -/
def execRldMigrate (h : BitVec 3) (a : BitVec 5) (w : BitVec 3) (i : BitVec 6) (s : State) : Out :=
  let n := widthBytes w
  let o := s.mOffset a i n
  .next (if isDense s.focus then s.illegal (wordOf (.rldMigrate h a w i)) 0x01
    else if s.cur.wayOpen then s.illegal (wordOf (.rldMigrate h a w i)) 0x0A
    else match s.cur.inbox with
      | some got =>
        if s.outboundFull then s.again
        else
        let c := s.cur
        let s1 := s.setCur { c with inbox := none, failed := none }
        let dst := homeNumber (canon (hBase (s.h h) + o.toNat))
        let t := s1.travelOf (c.pc + 4#48) dst none 0
        (match c.failed with
          | some x => s1.depart t fun y => y.push (.contextReturn { t with back := some x })
          | none =>
            let v := extendBy w (bytesToNat (got.flatMap (·.2)))
            let t1 := { t with regs := t.regs.take 6 ++ [v] }
            s1.depart t1 fun y => y.sendTravel t1)
      | none =>
        match checkHandle s.cur.sup (s.h h) o.toNat n n .load true with
        | some 0x0E => s.dropFlow h o
        | some c => s.handleTrap c o h
        | none =>
          let pa := canon (hBase (s.h h) + o.toNat)
          if spaceOf pa = 6 then s.handleTrap 0x06 o h
          else s.afterRelease true (homeNumber pa ≠ s.coreNo s.focus) fun x =>
            if x.unanswered || x.outboundFull then x.again
            else x.awaitRequest h o .load pa n [] (.inbox migrateMark) false false)

/-! ### Arrival and return (R171 to R173) -/

/-- The bytes of a context in the spill area (R169). -/
def travelBytes (t : Travel) : List Byte := wordBytes (t.pc.toNat :: t.regs.map (·.toNat))

/-- A context written to the core's spill area, entry after entry (R171). -/
def State.spillTo (s : State) (c : Nat) (t : Travel) : State :=
  let l := s.lc c
  ((s.setLc c { l with spill := l.spill ++ [t], spilled := (l.spilled + 1) % maxSpill }).count (.lc c) 0x0008 1).write (s.coreArea c + 0x2FFC0000 + l.spilled * 64) (travelBytes t)

/-- A context enters the arrival queue, or the spill area behind it, or where that is full waits in the fabric (R171): whether the core has taken it. -/
def State.enqueue (s : State) (c : Nat) (t : Travel) : Bool × State :=
  let l := s.lc c
  if l.spill = [] ∧ l.plane.arrivals.length < maxArrivals then
    (true, (s.setLp c { s.lp c with arrivals := (s.lp c).arrivals ++ [t] }).push (.slotGrant c))
  else if l.stalled = [] ∧ l.spill.length < maxSpill then (true, s.spillTo c t)
  else (false, s.setLc c { l with stalled := l.stalled ++ [t] })

def execTravelContextArrival (t : Travel) (s : State) : Out :=
  let c := coreIndex t.dst
  let other : Bool := !(s.lc c).fenced && (s.lp c).tasks.any fun k => k.2.valid && k.2.tag = t.tag && k.2.key ≠ t.key
  .next (if s.holdsLaunch c t = false then s.returnTravel t ⟨0x13, if other then 0x21 else 0x20, t.dst⟩
    else match s.enqueue c t with
      | (true, s1) => s1.travelAccepted t.src t.key
      | (false, s1) => s1)

/-- The first context that waits in the fabric for the spill area is taken (R171). -/
def State.unstall (s : State) (c : Nat) : State :=
  let l := s.lc c
  match l.stalled with
  | [] => s
  | t :: rest =>
    if maxSpill ≤ l.spill.length then s
    else
      let s1 := (s.setLc c { l with stalled := rest }).spillTo c t
      -- a returned context has been its sender's already
      if t.back.isSome then s1 else s1.travelAccepted t.src t.key

def execSpillReturn (core : Nat) (s : State) : Out :=
  let l := s.lc core
  -- contexts of a key that is switched out stay, and others pass them (R395)
  .next (match l.spill.find? (s.holdsLaunch core) with
    | none => s
    | some t =>
      if maxArrivals ≤ l.plane.arrivals.length then s
      else
        let rest := l.spill.erase t
        let s1 := s.setLc core { l with spill := rest, plane := { l.plane with arrivals := l.plane.arrivals ++ [t] } }
        let s2 := s1.unstall core
        (if (s2.lc core).spill.any (s2.holdsLaunch core) then s2.push (.spillReturn core) else s2).push (.slotGrant core))

/-- A returned context waits for a slot of its launch at its sender, or is discarded with a fault record (R173). -/
def execContextReturn (t : Travel) (s : State) : Out :=
  let c := coreIndex t.src
  let x := t.back.getD ⟨0x13, 0x20, t.dst⟩
  let s1 := s.setLp c { s.lp c with outbound := (s.lp c).outbound - 1 }
  .next (if s1.holdsLaunch c t then
      (s1.enqueue c t).2
    else
      (((s1.travelStarted t).postFault {
        cause := x.cause
        tag := t.tag
        core := t.src
        tval := x.tval
        tinfo := x.detail
        key := t.key
        epc := t.pc.toNat }).setLaunch t.tag fun l => { l with killed := l.killed + 1 }).lowerTravel t.tag)

end Sys2Proof.Machine
end

