-- ==== Sys2Proof/Machine/Dense.lean ====
section
/-! DEFINITION. Dense tiles: drains, traps, bank switches, slices, tile groups, and the end of a dense task (R35, R178 to R180, R204, R338,
R345, R364 to R369). -/

namespace Sys2Proof.Machine

/-! ### Drains (R365) -/

/-- The operations of a tile in flight complete; an MSQ stops (R213, R365): the address of its bundle. -/
def State.drainTile (s : State) (j : Nat) : Option (BitVec 48) × State :=
  let (m, s1) := s.stopMsq j
  let s2 := s1.land j ((s1.dp j).vcc + 2 ^ 20)
  let p := s2.dp j
  let seen := p.traps.map fun t => { t with due := 0 }
  (m, s2.setDp j { p with array := p.array.settled, uses := [], busy := [], traps := seen })

/-- Every operation of a tile in flight complete, an MSQ to its end. The engines stay busy, and the banks reserved, for as many cycles as they were. -/
def State.landTile (s : State) (j : Nat) : State :=
  let s1 := s.land j ((s.dp j).vcc + 2 ^ 20)
  let p := s1.dp j
  let s2 := s1.setDp j { p with array := { p.array.settled with msq := none } }
  match p.array.msq with
  | some m => s2.setCtx (.bank j m.bank) { s2.ctx (.bank j m.bank) with mpos := 0#64 }
  | none => s2

/-- Every operation of a tile in flight complete and its engines free (R344). -/
def State.completeTile (s : State) (j : Nat) : State :=
  let s1 := s.landTile j
  s1.setDp j { s1.dp j with uses := [], busy := [] }

/-- The counter of a tile set to `v` with its operations complete: what its engines and banks are still busy for goes along (R218). -/
def State.recount (s : State) (j v : Nat) : State :=
  let s1 := s.landTile j
  let p := s1.dp j
  s1.setDp j { p with
    vcc := v
    busy := p.busy.map fun e => (e.1, v + (e.2 - p.vcc))
    uses := (p.uses.filter fun u => decide (p.vcc ≤ u.cycle)).map fun u => { u with cycle := v + (u.cycle - p.vcc) } }

/-- Whether no access of any member is awaited. -/
def State.groupQuiet (s : State) (j : Nat) : Bool := (s.groupOf j).all fun i => (s.dp i).lates = []

/-! ### Bank switches (R178, R179, R204, R368) -/

def State.bankInfo (s : State) (j b : Nat) : Option BankInfo := findAt (s.dp j).banks b

def State.mapBank (s : State) (j b : Nat) (f : BankInfo → BankInfo) : State :=
  match s.bankInfo j b with
  | some i => s.setDp j { s.dp j with banks := setAt (s.dp j).banks b (f i) }
  | none => s

/-- Whether a bank runs a handler (R368). -/
def BankInfo.handler (i : BankInfo) : Bool := i.held ≠ []

/-- The waiting words of the active bank put by, as `f` keeps them; a wait in VCGRP or VCSYN ends (R369). -/
def State.putWords (s : State) (j : Nat) (f : List ReWord → BankInfo → BankInfo) : State :=
  let s1 := s.mapBank j (s.dp j).active (f (s.dp j).again)
  s1.setDp j { s1.dp j with again := [], wantGroup := none, sync := 0 }

/-- The roles of a tile's banks exchanged; the counter's value goes with the context (R179). -/
def State.swapBanks (s : State) (j : Nat) : State :=
  let p := s.dp j
  let v := p.hold.getD p.vcc
  let s1 := s.mapBank j p.active fun i => { i with vcc := v }
  let nb := 1 - p.active
  let info := s1.bankInfo j nb
  let nv := (info.map (·.vcc)).getD 0
  let handler := (info.map (·.handler)).getD false
  s1.setDp j { s1.dp j with active := nb, vcc := nv, hold := if handler then some nv else none }

/-- A dense tile's scratchpad, accumulation store and array state cleared before a new launch (R35). -/
def State.clearTile (s : State) (j : Nat) : State :=
  let s1 := s.clearBytes (windowAddr s.module (.dt j) 0) 0x300000
  s1.setDp j { s1.dp j with array := ArrayState.reset }

/-- A stopped MSQ of the active bank issues again alone (R213, R367). -/
def State.restartMsq (s : State) (j : Nat) : State :=
  let b := (s.dp j).active
  match s.bankInfo j b with
  | none => s
  | some i =>
    if i.resume then
      let c := s.ctx (.bank j b)
      let s1 := (s.setCtx (.bank j b) { c with eres := 0#64 }).mapBank j b fun x => { x with resume := false }
      s1.setDp j { s1.dp j with again := ⟨c.epc.setWidth 48, 6, c.waitLoops⟩ :: (s1.dp j).again }
    else s

/-- A bank that becomes active goes on: a launch's first start on the tile clears it where no other launch is there (R35); an expired slice loads again
(R204); a stopped MSQ and waiting words issue again alone (R367); a trap that waited for the bank drains it. -/
def State.activate (s : State) (j : Nat) : State :=
  let b := (s.dp j).active
  match s.bankInfo j b with
  | none => s
  | some i =>
    let first : Bool := !(s.dp j).begun.contains i.task.tag
    let clear : Bool := first && (match s.bankInfo j (1 - b) with
      | none => true
      | some o => o.task.tag = i.task.tag)
    let s0 := if clear then s.clearTile j else s
    let sb := if first then s0.setDp j { s0.dp j with begun := (s0.dp j).begun ++ [i.task.tag] } else s0
    -- no word that a task fetches is older than its start (R226)
    let s1 := if i.started then sb else sb.setCodeLines (.dt j) []
    let s2 := (s1.setDp j { s1.dp j with again := i.paused }).mapBank j b fun x =>
      { x with
        paused := []
        slice := if x.slice = 0 then x.task.slice * 512 else x.slice }
    let s3 := s2.restartMsq j
    if (s3.dp j).traps.any (fun t => t.bank = b) then s3.push (.trapDrain j) else s3

/-- The displaced context of a tile comes back from its image into an empty standby bank (R204), as soon as that is empty (DEDUCED, log 119). -/
def State.reload (s : State) (j : Nat) : State :=
  let sb := 1 - (s.dp j).active
  match s.bankInfo j sb, s.disp.displaced.find? (fun e => e.1 = j && s.tileOfKey j e.2.1.task.key && !s.gang.suspended.contains e.2.1.task.key) with
  | none, some e =>
    let bs := s.read (canon e.2.2) (imageBytes true)
    let c := s.reviveHandles (.dt j) (imageCtx true bs (Ctx.resetOf (.bank j sb))) (imageSeq true bs)
    let s1 := { s with disp := { s.disp with displaced := s.disp.displaced.erase e } }
    let p := s1.dp j
    let c1 := { c with seed := e.2.1.task.seed, hva := e.2.1.hva }
    (s1.setDp j { p with
      banks := setAt p.banks sb { e.2.1 with vcc := imageVcc bs }
      key := e.2.1.task.key }).setCtx (.bank j sb) c1
  | _, _ => s

/-- The members of a group exchange their banks; when the new active bank is empty in every one of them, they switch back (R368). -/
def State.switchGroup (s : State) (js : List Nat) : State :=
  let s1 := js.foldl (fun x i => x.swapBanks i) s
  let s2 := if js.all fun i => (s1.bankInfo i (s1.dp i).active).isNone then js.foldl (fun x i => x.swapBanks i) s1 else s1
  js.foldl (fun x i => (x.activate i).reload i) s2

/-- A pre-empted bank keeps where it goes on: an MSQ that its drain stopped is named by epc (R213, R367). -/
def State.keepMsq (s : State) (j : Nat) (m : Option (BitVec 48)) : State :=
  match m with
  | none => s
  | some pc =>
    let a := Agent.bank j (s.dp j).active
    let c := s.ctx a
    (s.setCtx a { c with epc := pc.setWidth 64, eres := BitVec.ofNat 64 (2 ^ 63 + c.pc.toNat) }).mapBank j (s.dp j).active fun i => { i with resume := true }

/-- A group drained for a pre-emption and switched (R204, R365). -/
def State.preemptGroup (s : State) (js : List Nat) : State :=
  (js.foldl (fun x i =>
    let (m, y) := x.drainTile i
    (y.putWords i fun w b => { b with paused := w }).keepMsq i m) s).switchGroup js

/-- Whether the early-start quota lets a bank's task run (R201). -/
def State.mayRun (s : State) (i : BankInfo) : Bool :=
  match findAt s.disp.launches i.task.tag with
  | some l => l.depMet || decide (0 < recBits l.record 0x20 22 19) || i.started
  | none => true

/-- Whether a tile's standby bank may take over from its active one: strictly higher priority, or equal or higher with the slice at its
end (R204). -/
def State.standbyWins (s : State) (j : Nat) : Bool :=
  let p := s.dp j
  match s.bankInfo j p.active, s.bankInfo j (1 - p.active) with
  | some a, some b =>
    s.mayRun b && (decide (b.task.bprio < a.task.bprio) || (decide (b.task.bprio ≤ a.task.bprio) && a.task.slice ≠ 0 && a.slice = 0))
  | _, _ => false

def State.hasStandby (s : State) (j : Nat) : Bool :=
  match s.bankInfo j (1 - (s.dp j).active) with
  | some b => s.mayRun b
  | none => false

/-- The expired slices of a group load again (R204). -/
def State.reloadSlices (s : State) (js : List Nat) : State :=
  js.foldl (fun x i => x.mapBank i (x.dp i).active fun a => if a.slice = 0 then { a with slice := a.task.slice * 512 } else a) s

def execDenseBankSwitch (tile : Nat) (s0 : State) : Out :=
  let s := s0.reload tile
  let p := s.dp tile
  let js := s.groupOf tile
  .next (if s.gang.suspended.contains p.key then s
    else if p.sync = 4 then
      -- another member has ended or has been parked
      (if s.groupQuiet tile then s.preemptGroup js else s.push (.denseBankSwitch tile))
    else if (s.bankInfo tile p.active).isNone then
      -- a tile alone, or a group with no active bank left, takes its standby contexts; a member of another group stays idle (R178, R204)
      (if s.hasStandby tile = false then s.retryBinds
       else if js.all fun i => (s.bankInfo i (s.dp i).active).isNone then
         js.foldl (fun x i => (x.activate i).reload i) (js.foldl (fun x i => if x.hasStandby i then x.swapBanks i else x) s)
       else s)
    else if s.standbyWins tile && js.all s.hasStandby then
      (if s.groupQuiet tile && js.all fun i => s.bankReleased i (s.dp i).active then s.preemptGroup js else s.push (.denseBankSwitch tile))
    else s.reloadSlices js)

/-! ### Traps of a dense tile (R364 to R369) -/

/-- Whether a cause may be taken now: an async one waits while IH is 1 (R356, R359), a NaN's until the virtual cycle in which it is seen (R139). -/
def State.ripe (s : State) (t : DenseTrap) (j : Nat) : Bool :=
  decide (t.due ≤ (s.dp j).vcc) && (!t.async || !causeIH (s.ctx (.bank j t.bank)).cause)

/-- The cause that is reported in a drain (R366): the oldest bundle's, at its lowest slot. -/
def oldestTrap (ts : List DenseTrap) : Option DenseTrap :=
  ts.foldl (fun best t => match best with
    | none => some t
    | some b => if t.vcc < b.vcc ∨ (t.vcc = b.vcc ∧ t.slot < b.slot) then some t else some b) none

/-- What a cause gives to the trap registers of its bank (R355, R367). -/
def denseInfo (t : DenseTrap) : TrapInfo where
  cause := t.cause.cause
  tval := BitVec.ofNat 64 t.cause.tval
  tinfo := BitVec.ofNat 64 t.tinfo
  tfmt := BitVec.ofNat 64 t.tfmt
  tvec := if t.replay then BitVec.ofNat 64 (t.slot % 4 * 2 ^ 48 + t.pc.toNat) else BitVec.ofNat 64 t.tvec
  async := t.arrived
  replay := t.replay

/-- An MSQ of the active bank that an earlier drain stopped and that has not issued again yet: its bundle, and the tile without its re-issue. -/
def State.stillStopped (s : State) (j : Nat) : Option (BitVec 48) × State :=
  let b := (s.dp j).active
  match s.bankInfo j b with
  | none => (none, s)
  | some i =>
    let word := (i.paused.find? fun w => w.slot = 6).map (·.pc)
    (if i.resume then some ((s.ctx (.bank j b)).epc.setWidth 48) else word,
      s.mapBank j b fun x => { x with resume := false, paused := x.paused.filter fun w => w.slot ≠ 6 })

/-- The trap of one member, drained, with the MSQ that its drain stopped. A NaN is seen at the latest when the drain ends. -/
def State.enterDense (s0 : State) (j : Nat) (stopped : Option (BitVec 48)) : State :=
  let s := s0.setDp j { s0.dp j with traps := (s0.dp j).traps.map fun t => { t with due := 0 } }
  let p := s.dp j
  let b := p.active
  let a := Agent.bank j b
  let (left, cleared) := s.stillStopped j
  let m := stopped.or left
  let mine := p.traps.filter fun t => t.bank = b
  match oldestTrap (mine.filter fun t => s.ripe t j) with
  | none => s.keepMsq j stopped
  | some t =>
    let rest := (mine.erase t).filter fun x => !x.atIssue
    let s1 := cleared.setDp j { p with
      traps := (p.traps.filter fun x => x.bank ≠ b) ++ rest.map fun x => { x with async := true }
      hold := some (p.hold.getD p.vcc) }
    let c := s1.ctx a
    let s2 := s1.setCtx a { c with eres := if m.isSome then BitVec.ofNat 64 (2 ^ 63 + c.pc.toNat) else 0#64 }
    let s3 := match t.batch with
      | some n => s2.markReported a n
      | none => s2
    (s3.takeTrap a (denseInfo t) (m.getD c.pc)).mapBank j b fun i => { i with held := i.paused :: i.held, paused := [] }

/-- A tile group drains and its members that have a cause enter their traps; then every member switches banks (R365 to R368). -/
def execTrapDrain (tile : Nat) (s : State) : Out :=
  let js := s.groupOf tile
  let due := js.any fun i => (s.dp i).traps.any fun t => t.bank = (s.dp i).active && s.ripe t i
  .next (if due = false ∨ s.gang.suspended.contains (s.dp tile).key = true then s
    else if s.groupQuiet tile = false then s.pushOnce (.trapDrain tile)
    else (js.foldl (fun x i =>
      let (m, y) := x.drainTile i
      (y.putWords i fun w b => { b with paused := w }).enterDense i m) s).switchGroup js |> fun x =>
        js.foldl (fun y i => y.setDp i { y.dp i with sync := 0 }) x)

/-- The last handler of a group has returned: the counter goes on from where it held (R367, R368). -/
def State.resumeGroup (s : State) (j : Nat) : State :=
  let js := s.groupOf j
  let busy := js.any fun i => match s.bankInfo i (s.dp i).active with
    | some b => b.handler
    | none => false
  if busy then s
  else js.foldl (fun x i =>
    let y := x.recount i ((x.dp i).hold.getD (x.dp i).vcc)
    y.setDp i { y.dp i with hold := none }) s

/-- TRET on a dense tile (R357, R367): the return, then what issues again alone before issue goes on. -/
def State.denseReturn (s : State) (j b : Nat) : State :=
  let a := Agent.bank j b
  let c := s.ctx a
  let s1 := s.returnTrap a
  let c1 := s1.ctx a
  let msq := c1.mpos.getLsbD 63
  let pc := if msq then c.eres.setWidth 48 else c.epc.setWidth 48
  let s2 := s1.setCtx a { c1 with
    pc := pc, cause := c1.cause &&& ~~~(2048#64), eres := if msq then c1.eres &&& ~~~(1#64 <<< 63) else c1.eres }
  let back := match s2.bankInfo j b with
    | some i => i.held.headD []
    | none => []
  let s3 := s2.mapBank j b fun i => { i with held := i.held.drop 1 }
  let p := s3.dp j
  let first : List ReWord := (if causeRP c.cause then [⟨c.tvec.setWidth 48, (c.tvec.extractLsb' 48 2).toNat + 4, c.waitLoops⟩] else []) ++
    (if msq then [⟨c.epc.setWidth 48, 6, c.waitLoops⟩] else [])
  let s4 := s3.setDp j { p with again := first ++ back ++ p.again }
  let s5 := s4.resumeGroup j
  if (s5.dp j).traps.any (fun t => t.bank = b) then s5.push (.trapDrain j) else s5

/-! ### The end of a dense task (R204, R338) -/

/-- The active bank's task has ended: the tile leaves its group, and the group switches (R204, R345). -/
def State.denseEnd (s : State) (j b : Nat) : State :=
  let a := Agent.bank j b
  let tag := (s.task a).tag
  let s1 := ((s.dropCompanion a).switchOthers j).leaveGroup j
  let (_, s2) := s1.drainTile j
  let p := s2.dp j
  let s3 := s2.setDp j { p with
    banks := dropAt p.banks b
    again := []
    traps := p.traps.filter fun t => t.bank ≠ b
    hold := none
    wantGroup := none
    sync := 0
    timer := if p.timerBank = b then 0#64 else p.timer }
  ((s3.setCtx a (Ctx.resetOf a)).taskEnded tag).push (.denseBankSwitch j)

/-! ### Tile groups (R345) -/

/-- Whether a tile runs a task of a launch. -/
def State.runsLaunch (s : State) (j tag : Nat) : Bool :=
  match s.bankInfo j (s.dp j).active with
  | some i => i.task.tag = tag
  | none => false

/-- The tiles of a member mask on a tile's die. -/
def tilesOf (j : Nat) (m : BitVec 32) : List Nat := ((List.range 32).filter fun i => m.getLsbD i).map fun i => j / 32 * 32 + i

/-- The tiles of a mask leave their groups and form one (R345). -/
def State.formGroup (s : State) (j : Nat) (m : BitVec 32) : State :=
  let js := tilesOf j m
  let s1 := { s with dts := s.dts.map fun (e : Nat × DTile) =>
    if e.1 / 32 = j / 32 ∧ js.contains e.1 = false then (e.1, { e.2 with plane := { e.2.plane with members := e.2.plane.members &&& ~~~m } }) else e }
  js.foldl (fun x i =>
    let y := x.recount i 0
    y.setDp i { y.dp i with members := m, wantGroup := none, sync := if i = j then 0 else 3 }) s1

def execVcgrp (d a : BitVec 5) (s : State) : Out :=
  let m := (s.x a).setWidth 32
  .next (match s.focus with
    | .thread _ _ => s
    | .bank j _ =>
      let p := s.dp j
      let answer (x : State) (v : Nat) : State := (x.setX 1 d (BitVec.ofNat 64 v)).complete
      if p.sync = 3 then answer (s.setDp j { p with sync := 0 }) 0
      else if m.getLsbD (j % 32) = false ∨ 2 ^ 32 ≤ (s.x a).toNat then answer s 1
      else
        let js := tilesOf j m
        let tag := (s.task s.focus).tag
        let other (i : Nat) : Bool := match (s.dp i).wantGroup with
          | some w => w ≠ m
          | none => false
        if js.any (fun i => !s.runsLaunch i tag || (i ≠ j && other i)) then answer (s.setDp j { p with wantGroup := none }) 2
        else if js.all fun i => i = j || (s.dp i).wantGroup = some m then answer (s.formGroup j m) 0
        else (s.setDp j { p with wantGroup := some m }).again)

def execVcsyn (s : State) : Out :=
  .next (match s.focus with
    | .thread _ _ => s
    | .bank j _ =>
      let p := s.dp j
      let others := (s.groupOf j).filter (· ≠ j)
      let passed (i : Nat) : Bool := (s.dp i).sync ≠ 1 && (decide (p.vcc < (s.dp i).vcc) || (s.dp i).again ≠ [])
      if p.sync = 2 then (s.setDp j { p with sync := 0 }).complete
      else if others.any passed then (s.setDp j { p with sync := 0 }).illegal (wordOf .vcsyn) 0x0B
      -- the smallest scope that covers the members is wider than core where there is another one
      else s.afterRelease true (others ≠ []) fun x =>
        if others.all fun i => (x.dp i).sync = 1 then
          (others.foldl (fun y i => y.setDp i { y.dp i with sync := 2 }) (x.setDp j { x.dp j with sync := 0 })).complete
        else (x.setDp j { x.dp j with sync := 1 }).again)

end Sys2Proof.Machine
end

