-- ==== Sys2Proof/Machine/Copy.lean ====
section
/-! DEFINITION. Asynchronous copies: the descriptor and its checks, the engines' beats, failures and suspensions, delegation to edge engines,
offload, and the control of batches (R141 to R160, R328 to R331). -/

namespace Sys2Proof.Machine

/-! ### The descriptor (R144, R145) -/

/-- A 64-bit word of the descriptor, and a geometry word. -/
def descWord (d : BitVec 1024) (i : Nat) : Nat := (d.extractLsb' (64 * i) 64).toNat
def geo (d : BitVec 1024) (i : Nat) : Nat := descWord d (4 + i)

/-- Bits hi to lo of the descriptor's header. -/
def header (d : BitVec 1024) (hi lo : Nat) : Nat := bitsOf (descWord d 0) hi lo

def descSv (d : BitVec 1024) : Bool := header d 63 63 = 1
def descDv (d : BitVec 1024) : Bool := header d 59 59 = 1
def descMv (d : BitVec 1024) : Bool := header d 55 55 = 1
def elemSize (d : BitVec 1024) : Nat := 2 ^ header d 39 36

/-- Whether an instruction uses a source operand, and a destination operand, of the descriptor (R145, R146). -/
def hasSource (top : Nat) : Bool := top ≠ 0xA5 && top ≠ 0xA7
def hasDest (top : Nat) : Bool := top ≠ 0xA4 && top ≠ 0xA5

/-- The counts c0 to c3 of CPS. -/
def stridedCount (d : BitVec 1024) (i : Nat) : Nat := bitsOf (geo d 0) (16 * i + 15) (16 * i)

/-- A signed stride word. -/
def strideOf (d : BitVec 1024) (i : Nat) : Int := (BitVec.ofNat 64 (geo d i)).toInt

/-- The width in bits of CPQT's elements. -/
def mxBits (d : BitVec 1024) : Nat := (packFmt (header d 44 40 - 0x0D)).width

/-- How far a command goes: bytes, or runs of CPQT, three to a block, or one multicast. -/
def copyTotal (top : Nat) (d : BitVec 1024) : Nat :=
  match top with
  | 0xA1 => stridedCount d 0 * stridedCount d 1 * stridedCount d 2 * stridedCount d 3 * elemSize d
  | 0xA2 => geo d 2 * elemSize d
  | 0xA3 => geo d 2 * elemSize d
  | 0xA4 => geo d 1
  | 0xA5 => 1
  | 0xA6 => 3 * (geo d 1 * (geo d 0 / 32))
  | 0xA8 => geo d 0 * 65536
  | 0xA9 => geo d 0 * 65536
  | _ => geo d 0

/-- The geometry words that an instruction uses. -/
def wordsUsed (top : Nat) : Nat :=
  match top with
  | 0xA1 => 7
  | 0xA2 => 4
  | 0xA3 => 4
  | 0xA4 => 3
  | 0xA5 => 3
  | 0xA6 => 9
  | 0xA7 => 2
  | 0xB0 => 2
  | _ => 1

/-- The rectangle of CPBC: its cores in order, sector first, as indices of their module (R146). -/
def rectangle (d : BitVec 1024) : List CoreRef :=
  let w := geo d 2
  let die := bitsOf w 51 51
  let s0 := bitsOf w 47 44
  let c0 := bitsOf w 36 32
  (List.range (bitsOf w 43 40 + 1 - s0)).flatMap fun s => (List.range (bitsOf w 28 24 + 1 - c0)).map fun c =>
    let sec := s0 + s
    let k := c0 + c
    if k ≤ 15 then CoreRef.lc (die * 256 + sec * 16 + k) else CoreRef.dt (die * 32 + sec * 2 + (k - 16))

def rectModule (d : BitVec 1024) : Nat := bitsOf (geo d 2) 63 52

/-- The extent of a side of CPS, as offsets of its lowest and first-beyond-highest byte; `k` is the first stride word (R147). -/
def stridedExtent (d : BitVec 1024) (k : Nat) : Int × Int :=
  (List.range 3).foldl (fun acc i =>
    let t := (stridedCount d (i + 1) - 1 : Nat) * strideOf d (k + i)
    if t < 0 then (acc.1 + t, acc.2) else (acc.1, acc.2 + t)) (0, (stridedCount d 0 * elemSize d : Nat))

/-- The extent of the source, or of the destination, from its own offset or address. -/
def copyExtent (top : Nat) (d : BitVec 1024) (src : Bool) : Int × Int :=
  match top with
  | 0xA1 => stridedExtent d (if src then 1 else 4)
  | 0xA2 => (0, if src then elemSize d else copyTotal top d)
  | 0xA3 => (0, if src then copyTotal top d else elemSize d)
  | 0xA6 =>
    let rowBytes (n : Nat) : Nat := n * mxBits d / 8
    if src then (0, ((geo d 0 - 1) * geo d 2 + rowBytes (geo d 1) : Nat)) else (0, ((geo d 1 - 1) * geo d 3 + rowBytes (geo d 0) : Nat))
  | _ => (0, copyTotal top d)

/-! ### Checks at issue (R147) -/

/-- The handle register that a descriptor's source works through: the partner in g3 for CPG. -/
def sourceReg (top : Nat) (d : BitVec 1024) : BitVec 3 :=
  BitVec.ofNat 3 (if top = 0xA2 then geo d 3 else header d 62 60)

def destReg (d : BitVec 1024) : BitVec 3 := BitVec.ofNat 3 (header d 58 56)
def wordReg (d : BitVec 1024) : BitVec 3 := BitVec.ofNat 3 (header d 54 52)

/-- The handle registers of the index list, or of the scale areas of source and destination. -/
def auxRegs (top : Nat) (d : BitVec 1024) : List (BitVec 3) :=
  match top with
  | 0xA2 => [BitVec.ofNat 3 (header d 62 60)]
  | 0xA3 => [BitVec.ofNat 3 (geo d 3)]
  | 0xA6 => [BitVec.ofNat 3 (geo d 8), BitVec.ofNat 3 (geo d 8 / 16)]
  | _ => []

/-- A reserved field or value in a descriptor (R147, check 2). -/
def descReserved (top : Nat) (d : BitVec 1024) : Bool :=
  header d 51 45 ≠ 0 || header d 35 0 ≠ 0 || decide (12 < header d 39 36) ||
  ((List.range 12).any fun i => decide (wordsUsed top ≤ i) && geo d i ≠ 0) ||
  ((top = 0xA2 || top = 0xA3) && (decide (1 < geo d 1) || decide (7 < geo d 3))) ||
  (top = 0xA4 && (bitsOf (geo d 2) 50 48 ≠ 0 || bitsOf (geo d 2) 39 37 ≠ 0 || bitsOf (geo d 2) 31 29 ≠ 0 || bitsOf (geo d 2) 23 0 ≠ 0)) ||
  (top = 0xA6 && (bitsOf (geo d 8) 63 7 ≠ 0 || bitsOf (geo d 8) 3 3 ≠ 0)) ||
  (if top = 0xA6 then !(decide (0x0D ≤ header d 44 40) && decide (header d 44 40 ≤ 0x12)) else header d 44 40 ≠ 0)

/-- Operand forms and spaces (R147, check 4). -/
def State.formsOk (s : State) (top : Nat) (d : BitVec 1024) : Bool :=
  let src := hBase (s.h (sourceReg top d)) + descWord d 1
  let dst := hBase (s.h (destReg d)) + descWord d 2
  let far (virt : Bool) (pa : Nat) : Bool := virt || spaceOf pa = 2 || spaceOf pa = 5
  match top with
  | 0xA8 => descSv d && descWord d 1 % 65536 = 0 && far (descDv d) dst
  | 0xA9 => descDv d && descWord d 2 % 65536 = 0 && far (descSv d) src
  | 0xB2 =>
    let n := max (geo d 0) 1
    !descSv d && !descDv d && spaceOf src = 3 && src / 0x1000000 = dst / 0x1000000 &&
      (src + n - 1) / 0x1000000 = src / 0x1000000 && (dst + n - 1) / 0x1000000 = dst / 0x1000000
  | 0xB1 => !descSv d && !descDv d && hP (s.h (sourceReg top d)) && hP (s.h (destReg d))
  | _ => true

/-- Sizes (R145; R147, check 5). -/
def sizesOk (top : Nat) (d : BitVec 1024) (pad : Nat) : Bool :=
  let g := geo d
  let upTo (n lim : Nat) : Bool := decide (1 ≤ n) && decide (n ≤ lim)
  match top with
  | 0xA1 => (List.range 4).all fun i => stridedCount d i ≠ 0
  | 0xA2 => upTo (g 2) (2 ^ 24)
  | 0xA3 => upTo (g 2) (2 ^ 24)
  | 0xA4 => upTo (g 0) 65536 && g 0 % 64 = 0 && g 1 ≠ 0 && g 1 % g 0 = 0
  | 0xA5 => g 2 ≠ 0
  | 0xA6 => upTo (g 0) 65536 && g 0 % 32 = 0 && upTo (g 1) 65536 && g 1 % 32 = 0
  | 0xA7 => g 0 ≠ 0 && decide (header d 39 36 ≤ 3) && g 0 % elemSize d = 0
  | 0xA8 => upTo (g 0) 65536
  | 0xA9 => upTo (g 0) 65536
  | 0xB1 => g 0 = 0x10000 || g 0 = 0x200000
  | 0xB0 => upTo (g 0) (2 ^ 36) && decide (g 1 + 4 ≤ pad)
  | _ => upTo (g 0) (2 ^ 36)

/-- Alignment (R147, check 6). The bases and pitches of CPQT are those of its scale areas too (DEDUCED, log 105). -/
def alignmentOk (top : Nat) (d : BitVec 1024) : Bool :=
  let g := geo d
  let es := elemSize d
  let lengths : List Nat := match top with
    | 0xA1 => [g 1, g 2, g 3, g 4, g 5, g 6]
    | 0xA4 => [g 0, g 1]
    | 0xA6 => [g 2, g 3]
    | 0xA2 => []
    | 0xA3 => []
    | 0xA5 => []
    | 0xA8 => []
    | 0xA9 => []
    | _ => [g 0]
  let addrs : List Nat := (if hasSource top && !descSv d then [descWord d 1] else []) ++ (if hasDest top && !descDv d then [descWord d 2] else [])
  let rowBytes (n : Nat) : Nat := n * mxBits d / 8
  ((lengths ++ addrs).all fun x => x % es = 0) &&
  (top ≠ 0xB0 || g 1 % 4 = 0) &&
  ((top ≠ 0xA4 && top ≠ 0xA6) || (descWord d 1 % 64 = 0 && descWord d 2 % 64 = 0)) &&
  (top ≠ 0xA6 || ([g 2, g 3, g 4, g 5, g 6, g 7].all (· % 64 = 0) && decide (rowBytes (g 1) ≤ g 2) && decide (rowBytes (g 0) ≤ g 3) &&
    decide (g 1 / 32 ≤ g 5) && decide (g 0 / 32 ≤ g 7)))

/-- CPBC's rectangle (R147, check 7). -/
def State.rectangleOk (s : State) (d : BitVec 1024) : Bool :=
  let w := geo d 2
  decide (bitsOf w 47 44 ≤ bitsOf w 43 40) && decide (bitsOf w 36 32 ≤ bitsOf w 28 24) && decide (bitsOf w 28 24 ≤ 17) &&
  (bitsOf w 63 52 = s.module || s.fabric.domain.contains (bitsOf w 63 52))

/-- R24, or the virtual extent, of one operand: the trap or the wait that it ends in (R147, check 8). -/
def State.operandCheck (s : State) (virt : Bool) (reg : BitVec 3) (ofs : Nat) (ext : Int × Int) (src : Bool) : Option State :=
  let lo : Int := ofs + ext.1
  let hi : Int := ofs + ext.2
  if virt then
    (if lo < 0 ∨ 2 ^ 48 < hi then some (s.trap 0x08 (BitVec.ofNat 64 ofs) 512) else none)
  else if lo < 0 then some (s.trap 0x05 (BitVec.ofInt 64 lo) reg.toNat)
  else match checkHandle s.cur.sup (s.h reg) lo.toNat (hi - lo).toNat 1 (if src then .load else .store) src with
    | some 0x0E => some (s.dropFlow reg (BitVec.ofInt 64 lo))
    | some c => some (s.handleTrap c (BitVec.ofInt 64 lo) reg)
    | none => none

/-- The bytes of the index list or of a scale area: offset, length, and whether the copy reads them. -/
def auxExtents (top : Nat) (d : BitVec 1024) : List (Nat × Nat × Bool) :=
  let g := geo d
  match top with
  | 0xA6 => [(g 4, (g 0 - 1) * g 5 + g 1 / 32, true), (g 6, (g 1 - 1) * g 7 + g 0 / 32, false)]
  | 0xA2 => [(g 0, g 2 * (if g 1 = 1 then 8 else 4), true)]
  | 0xA3 => [(g 0, g 2 * (if g 1 = 1 then 8 else 4), true)]
  | _ => []

/-- The milestone word (R106; R147, check 9). Each core of a slab has a word of its own (R146). -/
def State.wordCheck (s : State) (top : Nat) (d : BitVec 1024) : Option State :=
  let o := descWord d 3
  let reg := wordReg d
  if descMv d = false ∨ top = 0xA5 then none
  else if o % 16 ≠ 0 then some (s.trap 0x07 (BitVec.ofNat 64 o) reg.toNat)
  else if top = 0xA4 then none
  else match checkHandle s.cur.sup (s.h reg) o 16 16 .store false with
    | some c => some (s.handleTrap c (BitVec.ofNat 64 o) reg)
    | none => if milestoneSpace (hBase (s.h reg) + o) then none else some (s.trap 0x06 (BitVec.ofNat 64 o) reg.toNat)

/-- The first of a list that is there. -/
def firstOf {α : Type} (l : List (Unit → Option α)) : Option α :=
  match l with
  | [] => none
  | f :: rest => match f () with
    | some x => some x
    | none => firstOf rest

/-- The checks of R147, in order, after the first: what the first failing one ends in. -/
def State.copyChecks (s : State) (top : Nat) (dofs : BitVec 64) (d : BitVec 1024) (w : Word) : Option State :=
  let bad (detail : Nat) (ok : Bool) : Unit → Option State := fun _ => if ok then none else some (s.trap 0x0A dofs detail)
  firstOf ([
    bad 0x02 (!descReserved top d),
    fun _ => if top = 0xB1 ∧ s.cur.sup = false then some (s.trap 0x03 (w.setWidth 64) (if isDense s.focus then 256 * s.bslot else 0)) else none,
    bad 0x05 (s.formsOk top d),
    bad 0x03 (sizesOk top d (s.padBytes)),
    bad 0x04 (alignmentOk top d),
    bad 0x06 (top ≠ 0xA4 || s.rectangleOk d),
    fun _ => if hasSource top then s.operandCheck (descSv d) (sourceReg top d) (descWord d 1) (copyExtent top d true) true else none,
    fun _ => if hasDest top then s.operandCheck (descDv d) (destReg d) (descWord d 2) (copyExtent top d false) false else none]
    ++ (((auxRegs top d).zip (auxExtents top d)).map fun e => fun _ => s.operandCheck false e.1 e.2.1 (0, e.2.2.1) e.2.2.2)
    ++ [fun _ => s.wordCheck top d])

/-! ### Issue (R142, R328) -/

/-- Whether an operand lies in bulk or host space, or some byte of it on another die of the module than `die` (R142). The dies of striped pages
alternate with every MiB (R12); in the other spaces each die has one run of offsets. -/
def State.offDie (s : State) (die : Nat) (h : BitVec 128) (ofs : Nat) (ext : Int × Int) : Bool :=
  let lo := ((hBase h + ofs : Nat) + ext.1 : Int).toNat
  let hi := ((hBase h + ofs : Nat) + ext.2 : Int).toNat - 1
  let other (pa : Nat) : Bool := moduleOf pa = s.module && spaceOf pa ≠ 6 && homeCore pa / 256 ≠ die
  spaceOf lo = 2 || spaceOf lo = 5 || other lo || other hi || (moduleOf lo = s.module && spaceOf lo = 1 && lo / 2 ^ 20 ≠ hi / 2 ^ 20)

/-- The edge engine that a command is delegated to (R142); none: the core's own engine performs it. -/
def State.delegate (s : State) (top : Nat) (d : BitVec 1024) : Option Nat :=
  let u := agentCore s.focus
  let (die, sec, _) := coreFields u
  let src : Bool := hasSource top && (descSv d || s.offDie die (s.h (sourceReg top d)) (descWord d 1) (copyExtent top d true))
  let dst : Bool := hasDest top && (descDv d || s.offDie die (s.h (destReg d)) (descWord d 2) (copyExtent top d false))
  let aux : Bool := ((auxRegs top d).zip (auxExtents top d)).any fun e => s.offDie die (s.h e.1) e.2.1 (0, e.2.2.1)
  let slab : Bool := top = 0xA4 && rectModule d = s.module && bitsOf (geo d 2) 51 51 ≠ die
  if src || dst || aux || slab || top = 0xA8 || top = 0xA9 then some (576 + die * 4 + sec % 4) else none

/-- The milestone words that a command names (R148). -/
def State.wordsNamed (s : State) (top : Nat) (d : BitVec 1024) : List Nat :=
  if descMv d = false ∨ top = 0xA5 then []
  else if top = 0xA4 then (rectangle d).map fun u => windowAddr (rectModule d) u (descWord d 3)
  else [canon (hBase (s.h (wordReg d)) + descWord d 3)]

/-- The handles that a command works through (R25): source, destination, milestone word, index or scale areas. -/
def State.copyHandles (s : State) (top : Nat) (d : BitVec 1024) : List (BitVec 128) :=
  let use (b : Bool) (r : BitVec 3) : BitVec 128 := if b then s.h r else 0#128
  let aux := (auxRegs top d).map s.h
  [use (hasSource top && !descSv d) (sourceReg top d), use (hasDest top && !descDv d) (destReg d),
    use (descMv d && top ≠ 0xA4 && top ≠ 0xA5) (wordReg d), aux.getD 0 0#128, aux.getD 1 0#128]

/-- A checked command enters its core's queue, or is discarded where its batch has failed or been cancelled (R148). -/
def State.enqueueCopy (s0 : State) (top : Nat) (d : BitVec 1024) (dreg : BitVec 5) : State :=
  let a := s0.focus
  let s := s0.needBatch a
  let c := s.cur
  let unit := engineNo (agentCore a)
  let res := BitVec.ofNat 64 (c.openBatch * 65536 + c.ncmd)
  let cmd : CopyCmd := {
    id := s.nextCmd
    top := top
    desc := d
    handles := s.copyHandles top d
    who := a
    home := holderAgent c.holder
    owner := holderOwner c.holder
    key := s.curKey
    sup := c.sup
    batch := c.openBatch
    index := c.ncmd
    prio := (c.cbko.extractLsb' 2 2).toNat
    policy := c.cbko
    edge := s.delegate top d
    pos := 0
    crc := 0xFFFFFFFF#32
    tries := 0
    started := false
    stop := false
    got := []
    puts := 0
    busy := false
    cover := []
    fault := none
    since := s.cycle }
  let dead : Bool := match s.batch a c.openBatch with
    | some b => b.state = 3 || b.state = 5
    | none => false
  let s1 := s.setCur { c with ncmd := c.ncmd + 1 }
  let s2 := if dead then s1
    else
      let s3 := { s1.setCopies unit (s1.copies unit ++ [cmd]) with nextCmd := s1.nextCmd + 1 }
      let s4 := s3.mapBatch a c.openBatch fun b => { b with left := b.left + 1, words := b.words ++ s.wordsNamed top d }
      match cmd.edge with
      | some _ => s4.push (.edgeAccept (agentCore a) cmd.id)
      | none => s4.pushOnce (.copyBeat unit)
  (s2.setX 1 dreg res).complete

/-- cpy_start (R328). -/
def State.startCopy (s : State) (top : Nat) (d a : BitVec 5) (k : BitVec 14) (w : Word) : State :=
  let dofs := s.x a + BitVec.ofNat 64 (k.toNat * 128)
  if dofs.toNat % 128 ≠ 0 ∨ s.padBytes < dofs.toNat + 128 then s.trap 0x0A dofs 0x01
  else
    let pa := s.ownAddr s.focus dofs.toNat
    if s.poisoned pa 128 then s.consumePoison s.focus
    else
      let desc := BitVec.ofNat 1024 (s.readNat pa 128)
      match s.copyChecks top dofs desc w with
      | some t => t
      | none =>
        if 65536 ≤ s.cur.ncmd then s.trap 0x0A dofs 0x03
        else s.afterRelease true true fun t =>
          if maxCopyQueue ≤ (t.copies (engineNo (agentCore t.focus))).length then t.again else t.enqueueCopy top desc d

def execCpl (d a : BitVec 5) (k : BitVec 14) (s : State) : Out := .next (s.startCopy 0xA0 d a k (wordOf (.cpl d a k)))
def execCps (d a : BitVec 5) (k : BitVec 14) (s : State) : Out := .next (s.startCopy 0xA1 d a k (wordOf (.cps d a k)))
def execCpg (d a : BitVec 5) (k : BitVec 14) (s : State) : Out := .next (s.startCopy 0xA2 d a k (wordOf (.cpg d a k)))
def execCpx (d a : BitVec 5) (k : BitVec 14) (s : State) : Out := .next (s.startCopy 0xA3 d a k (wordOf (.cpx d a k)))
def execCpbc (d a : BitVec 5) (k : BitVec 14) (s : State) : Out := .next (s.startCopy 0xA4 d a k (wordOf (.cpbc d a k)))
def execCpmc (d a : BitVec 5) (k : BitVec 14) (s : State) : Out := .next (s.startCopy 0xA5 d a k (wordOf (.cpmc d a k)))
def execCpqt (d a : BitVec 5) (k : BitVec 14) (s : State) : Out := .next (s.startCopy 0xA6 d a k (wordOf (.cpqt d a k)))
def execCpfl (d a : BitVec 5) (k : BitVec 14) (s : State) : Out := .next (s.startCopy 0xA7 d a k (wordOf (.cpfl d a k)))
def execCpof (d a : BitVec 5) (k : BitVec 14) (s : State) : Out := .next (s.startCopy 0xA8 d a k (wordOf (.cpof d a k)))
def execCpin (d a : BitVec 5) (k : BitVec 14) (s : State) : Out := .next (s.startCopy 0xA9 d a k (wordOf (.cpin d a k)))
def execCpck (d a : BitVec 5) (k : BitVec 14) (s : State) : Out := .next (s.startCopy 0xB0 d a k (wordOf (.cpck d a k)))
def execCpmg (d a : BitVec 5) (k : BitVec 14) (s : State) : Out := .next (s.startCopy 0xB1 d a k (wordOf (.cpmg d a k)))
def execCpvl (d a : BitVec 5) (k : BitVec 14) (s : State) : Out := .next (s.startCopy 0xB2 d a k (wordOf (.cpvl d a k)))

/-! ### A beat's reads and writes (R143 to R146, R154 to R156) -/

/-- What stops a command at a beat (R148): a failure of its batch, or a suspension. -/
inductive Halt where
  | fail (detail : Nat)
  | suspend (cause tval tinfo : Nat)
  deriving DecidableEq, Repr

/-- A beat: the places it reads, in order; what it writes once they are read; how far it goes; the handles of the pages it goes through;
the virtual addresses it writes; and the milestone word with its count. -/
structure Beat where
  reads : List (Nat × Nat)
  writes : List (Nat × List Byte × Bool)
  step : Nat
  pages : List (BitVec 128)
  dva : List (Nat × Nat)
  word : Option (Nat × Nat)
  deriving DecidableEq, Repr

/-- A run cut at multiples of 4,096, within which physical addresses stay contiguous (R13). -/
def cutRun (a n : Nat) : List (Nat × Nat) :=
  (List.range ((a + n + 4095) / 4096 - a / 4096)).map fun i =>
    let lo := max a ((a / 4096 + i) * 4096)
    (lo, min (a + n) ((a / 4096 + i + 1) * 4096) - lo)

/-- The physical place of a run within one page of a virtual operand, translated as the beat starts (R148). -/
def State.pageOf (s : State) (c : CopyCmd) (src : Bool) (va : Nat) : Except Halt (Nat × BitVec 128) :=
  match s.walk c.key va with
  | .stop depth bad => .error (.suspend 0x08 va (depth + bit bad * 128))
  | .leaf e lg _ depth =>
    if spaceOf (leafPage e) = 6 ∧ c.sup = false then .error (.suspend 0x08 va depth)
    else if (if src then pteR e else pteW e) = false then .error (.suspend 0x06 va 0)
    else if src = true ∧ pteD e = true then .error (.fail 0x09)
    else .ok (leafPage e + va % 2 ^ lg, leafHandle e lg c.key)

/-- The places of `n` bytes at a distance from the source or destination operand, with the pages gone through. -/
def State.places (s : State) (c : CopyCmd) (src : Bool) (rel : Int) (n : Nat) : Except Halt (List (Nat × Nat) × List (BitVec 128)) :=
  let virt := if src then descSv c.desc else descDv c.desc
  let o : Int := descWord c.desc (if src then 1 else 2) + rel
  if virt then
    if o < 0 ∨ 2 ^ 48 < o + n then .error (.suspend 0x08 (BitVec.ofInt 64 o).toNat 512)
    else (cutRun o.toNat n).foldl (fun acc p => match acc with
      | .error h => .error h
      | .ok (ps, hs) => match s.pageOf c src p.1 with
        | .error h => .error h
        | .ok (pa, h) => .ok (ps ++ [(pa, p.2)], if hs.contains h then hs else hs ++ [h])) (.ok ([], []))
  else
    let h := c.handles.getD (if src then 0 else 1) 0#128
    if o < 0 ∨ (hLimit h : Int) < o + n - 1 then .error (.fail 0x03)
    else .ok (cutRun (hBase h + o.toNat) n, [])

/-- The address that a side's runs are cut by. -/
def CopyCmd.anchor (c : CopyCmd) (src : Bool) (rel : Int) : Nat :=
  let virt := if src then descSv c.desc else descDv c.desc
  let h := c.handles.getD (if src then 0 else 1) 0#128
  ((descWord c.desc (if src then 1 else 2) + (if virt then 0 else hBase h : Nat) : Int) + rel).toNat

/-- The milestone word of a command and the bytes that a beat counts there (R151). -/
def CopyCmd.wordFor (c : CopyCmd) (n : Nat) : Option (Nat × Nat) :=
  if descMv c.desc then some (canon (hBase (c.handles.getD 2 0#128) + descWord c.desc 3), n) else none

/-- Where a command has come: distances on the source and destination, and the bytes left in the run (R145). -/
def CopyCmd.run (c : CopyCmd) : Int × Int × Nat :=
  if c.top = 0xA1 then
    let row := stridedCount c.desc 0 * elemSize c.desc
    let r := c.pos / row
    let o := c.pos % row
    let i (k : Nat) : Int := ((match k with
      | 0 => r % stridedCount c.desc 1
      | 1 => r / stridedCount c.desc 1 % stridedCount c.desc 2
      | _ => r / (stridedCount c.desc 1 * stridedCount c.desc 2) : Nat) : Int)
    let at' (k : Nat) : Int := o + i 0 * strideOf c.desc k + i 1 * strideOf c.desc (k + 1) + i 2 * strideOf c.desc (k + 2)
    (at' 1, at' 4, row - o)
  else (c.pos, c.pos, copyTotal c.top c.desc - c.pos)

/-- The bytes that have been read so far, and whether any is poisoned. -/
def CopyCmd.bytes (c : CopyCmd) (skip : Nat) : List Byte := (c.got.drop skip).flatMap (·.1)
def CopyCmd.tainted (c : CopyCmd) : Bool := c.got.any (·.2)

/-- Bytes shared out over places. -/
def shareOut (ps : List (Nat × Nat)) (bs : List Byte) (p : Bool) : List (Nat × List Byte × Bool) :=
  match ps with
  | [] => []
  | (pa, n) :: rest => (pa, bs.take n, p) :: shareOut rest (bs.drop n) p

/-- CPFL's pattern. -/
def CopyCmd.pattern (c : CopyCmd) (n : Nat) : List Byte :=
  (List.range n).map fun i => BitVec.ofNat 8 (geo c.desc 1 / 2 ^ (8 * ((c.pos + i) % elemSize c.desc)))

/-- A beat that moves a run from source to destination; `skip` reads come before it. -/
def State.moveBeat (s : State) (c : CopyCmd) (first : List (Nat × Nat)) (srel drel : Int) (left : Nat) : Except Halt Beat :=
  let n0 := min left (256 - c.anchor false drel % 256)
  let n := if hasSource c.top then min n0 (4096 - c.anchor true srel % 4096) else n0
  match (if hasSource c.top then s.places c true srel n else .ok ([], [])), s.places c false drel n with
  | .error h, _ => .error h
  | _, .error h => .error h
  | .ok (rs, h1), .ok (ws, h2) =>
    let p := s.part c.key
    if c.top = 0xA8 ∧ c.inBeat = false ∧ (ws.any fun w => decide (w.1 < p.owbase.toNat) || decide (p.owlimit.toNat < w.1 + w.2 - 1)) = true then .error (.fail 0x01)
    else .ok {
      reads := first ++ rs
      writes := shareOut ws (if c.top = 0xA7 then c.pattern n else c.bytes first.length) c.tainted
      step := n
      pages := h1 ++ h2
      dva := if descDv c.desc then [((descWord c.desc 2 + drel).toNat, n)] else []
      word := c.wordFor n }

/-- The beat of a gather or scatter: its index is read first (R145). -/
def State.indexBeat (s : State) (c : CopyCmd) : Except Halt Beat :=
  let es := elemSize c.desc
  let w := if geo c.desc 1 = 1 then 8 else 4
  let i := c.pos / es
  let o := c.pos % es
  let first := cutRun (hBase (c.handles.getD 3 0#128) + geo c.desc 0 + i * w) w
  if c.got.length < first.length then .ok { reads := first, writes := [], step := 0, pages := [], dva := [], word := none }
  else
    let x := bytesToNat ((c.got.take first.length).flatMap (·.1))
    let away : Int := (x * es + o : Nat)
    let here : Int := (i * es + o : Nat)
    -- the whole element must lie within its handle, so none of its bytes is written where it does not
    match (if o = 0 then s.places c (c.top = 0xA2) ((x * es : Nat) : Int) es else .ok ([], [])) with
    | .error h => .error h
    | .ok _ => if c.top = 0xA2 then s.moveBeat c first away here (es - o) else s.moveBeat c first here away (es - o)

/-- Where the next byte of a block-cyclic slab goes: its core and window offset (R146). -/
def CopyCmd.slabPlace (c : CopyCmd) : CoreRef × Nat :=
  let b := geo c.desc 0
  let us := rectangle c.desc
  let j := c.pos / b
  (us.getD (j % us.length) (.lc 0), descWord c.desc 2 + j / us.length * b + c.pos % b)

/-- Whether `n` bytes of a slab from here on, and the milestone word, lie within the core's window, and on a dense tile within its scratchpad (R14, R146). -/
def CopyCmd.slabFits (c : CopyCmd) (n : Nat) : Bool :=
  let (u, ofs) := c.slabPlace
  let room := if isTile u then 0x200000 else 0x400000
  decide (ofs + n ≤ room) && (!descMv c.desc || decide (descWord c.desc 3 + 16 ≤ room))

/-- The beat of a block-cyclic slab (R146). -/
def State.slabBeat (s : State) (c : CopyCmd) : Except Halt Beat :=
  let b := geo c.desc 0
  let o := c.pos % b
  let (u, ofs) := c.slabPlace
  let n := min (min (b - o) (256 - ofs % 256)) (4096 - c.anchor true c.pos % 4096)
  match s.places c true c.pos n with
  | .error h => .error h
  | .ok (rs, hs) => .ok {
      reads := rs
      writes := [(windowAddr (rectModule c.desc) u ofs, c.bytes 0, c.tainted)]
      step := n
      pages := hs
      dva := []
      word := if descMv c.desc then some (windowAddr (rectModule c.desc) u (descWord c.desc 3), n) else none }

/-- Whether an element is a NaN or an infinity. -/
def Val.odd : Val → Bool
  | .nan => true
  | .inf _ => true
  | _ => false

/-- An element of the transpose rounded on its format's grid; -0 becomes +0 (R154). -/
def requantElem (p : PackFmt) (v : Val) : Nat :=
  match p, v with
  | .mx f _, .num neg n e =>
    let r := (roundNum f 0 0 neg n e).code
    if r = f.signBit then 0 else r
  | _, .num neg n e => codeOf 8 (max (-127) (roundInt 0 0 neg n (e + 6)))
  | _, _ => 0

/-- cpqt_block (R154): the new scale and elements. -/
def requantBlock (p : PackFmt) (xs cs : List Nat) : Nat × List Nat :=
  let vs := cs.map (unpackVal p 127)
  if xs.contains 0xFF || vs.any Val.odd then (0xFF, cs.map fun _ => 0)
  else
    let top := xs.foldl max 0
    (top, (vs.zip xs).map fun e => requantElem p (scaleVal e.1 ((e.2 : Int) - top)))

/-- A run of a block of the requantising transpose (R143, R154): its elements up to the end of their 256 aligned bytes, those after it, or the scale byte.
The block's elements and scales are read byte by byte for each. -/
def State.transposeBeat (s : State) (c : CopyCmd) : Except Halt Beat :=
  let d := c.desc
  let w := mxBits d
  let p := packFmt (header d 44 40 - 0x0D)
  let per := geo d 0 / 32
  let j := c.pos / 3 / per
  let b := c.pos / 3 % per
  let rel := j * geo d 3 + b * (4 * w)
  let cut := min (4 * w) (256 - c.anchor false rel % 256)
  -- the run of the block's bytes that this beat writes; none for the scale byte
  let (lo, n) : Nat × Nat := match c.pos % 3 with
    | 0 => (0, cut)
    | 1 => (cut, 4 * w - cut)
    | _ => (0, 0)
  let nb := (j * w % 8 + w + 7) / 8
  let sc := hBase (c.handles.getD 3 0#128) + geo d 4 + j / 32
  let out := (hBase (c.handles.getD 4 0#128) + geo d 6 + j * geo d 7 + b, 1)
  let rowReads (i : Nat) : Except Halt (List (Nat × Nat) × List (BitVec 128)) :=
    (List.range nb).foldl (fun acc k => match acc with
      | .error h => .error h
      | .ok (ps, hs) => match s.places c true ((((32 * b + i) * geo d 2 + j * w / 8 + k : Nat)) : Int) 1 with
        | .error h => .error h
        | .ok (qs, gs) => .ok (ps ++ qs, hs ++ gs.filter fun g => !hs.contains g)) (.ok ([], []))
  let rows := (List.range 32).foldl (fun (acc : Except Halt (List (Nat × Nat) × List (BitVec 128))) i => match acc, rowReads i with
    | .error h, _ => .error h
    | _, .error h => .error h
    | .ok (ps, hs), .ok (qs, gs) => .ok (ps ++ qs ++ [(sc + (32 * b + i) * geo d 5, 1)], hs ++ gs.filter fun g => !hs.contains g)) (.ok ([], []))
  match rows, s.places c false ((rel + lo : Nat) : Int) n with
  | .error h, _ => .error h
  | _, .error h => .error h
  | .ok (rs, h1), .ok (ws, h2) =>
    let byte (i k : Nat) : Nat := bytesToNat (c.got.getD (i * (nb + 1) + k) ([], false)).1
    let code (i : Nat) : Nat := ((List.range nb).foldl (fun acc k => acc + byte i k * 2 ^ (8 * k)) 0) / 2 ^ (j * w % 8) % 2 ^ w
    let (x, es) := requantBlock p ((List.range 32).map fun i => byte i nb) ((List.range 32).map code)
    let bits := (es.zipIdx).foldl (fun acc e => acc + e.1 * 2 ^ (w * e.2)) 0
    .ok (if c.pos % 3 = 1 ∧ n = 0 then { reads := [], writes := [], step := 1, pages := [], dva := [], word := none }
      else {
        reads := rs
        writes := if c.pos % 3 = 2 then [(out.1, [BitVec.ofNat 8 x], c.tainted)]
          else shareOut ws ((natToBytes (4 * w) bits).drop lo |>.take n) c.tainted
        step := 1
        pages := h1 ++ h2
        dva := if descDv d ∧ n ≠ 0 then [(descWord d 2 + rel + lo, n)] else []
        word := c.wordFor (if c.pos % 3 = 2 then 1 else n) })

/-- The next beat of a command, or what stops it. -/
def State.beatOf (s : State) (c : CopyCmd) : Except Halt Beat :=
  match c.top with
  | 0xA2 => s.indexBeat c
  | 0xA3 => s.indexBeat c
  | 0xA4 => s.slabBeat c
  | 0xA6 => s.transposeBeat c
  | _ => s.moveBeat c [] c.run.1 c.run.2.1 c.run.2.2

/-! ### An engine's accesses (R14, R58, R63, R105, R143, R148) -/

/-- What becomes of an access of an engine: done, refused, put off, or sent to another module. -/
inductive Access1 where
  | done (bs : List Byte) (poison : Bool) (s : State)
  | refused (detail : Nat) (s : State)
  | later (s : State)
  | sent (s : State)

/-- The request that an engine makes for a command. -/
def CopyCmd.request (c : CopyCmd) (unit core : Nat) (op : ReqOp) (pa n : Nat) (bs : List Byte) : Request where
  who := .copy unit c.id
  core := core
  key := c.key
  op := op
  pa := pa
  len := n
  data := bs
  dest := .inbox 0
  acq := true

/-- Whether every line of `n` bytes is ready for an access; where the host must answer first, it has been asked (R411). -/
def State.hostLinesReady (s : State) (pa n : Nat) (writes : Bool) : Bool × State :=
  ((List.range ((pa + n + 63) / 64 - pa / 64)).map fun i => (pa / 64 + i) * 64).foldl (fun acc l =>
    match acc.2.hostReady l writes with
    | (none, x) => (acc.1, x)
    | (some _, x) => (false, x)) (true, s)

/-- An access of this module's sites, which engines make there and never through an L1 (R105). Bytes that a core of another module maps are accessed
there (R68, R160); of a write that a range refuses the other bytes are written (R63). -/
def State.engineAccess (s : State) (r0 : Request) (poison : Bool) : Access1 :=
  let r := { r0 with poison := poison }
  let sp := spaceOf r.pa
  let write := opWrites r.op
  if moduleOf r.pa ≠ s.module then .sent (s.sendRequest r)
  else if sp = 5 ∧ s.boot.cxlUp = false then .refused 0x02 s
  else if sp = 4 then
    match s.windowRefusal r with
    | some x => .refused (copyDetail x) s
    | none =>
      if write then .done [] false (s.windowWrite r)
      else .done (s.windowRead r).1 (s.poisoned r.pa r.len) (s.windowRead r).2
  else if sp = 6 then
    (if write then .done [] false (s.pushAll (s.controlWrites r.key (offsetOf r.pa) r.data))
     else .done (s.controlRead r.key (offsetOf r.pa) r.len) false (s.controlReadEffect (offsetOf r.pa)))
  else if write = false ∧ (s.checkRanges r).1.isSome = true then .refused 0x08 s
  else if (s.drainingRange r).isSome then .later s
  else match s.hostLinesReady r.pa r.len write with
    | (false, s1) => .later s1
    | (true, s0) =>
      let s1 := (s0.countAccess r.pa).countL2 r.pa
      let a := canon r.pa
      let (x, ok) := s1.checkRanges r
      if write then
        let away := s1.serveAway r ok
        let s2 := away.getD (s1.performReq (reqQuiet r) ok)
        if x.isSome then .refused 0x08 s2 else if away.isSome then .sent s2 else .done [] false s2
      else match s1.serveAway r ok with
        | some s2 => .sent s2
        | none => .done (s1.readVia a r.len) (s1.poisonVia a (List.range r.len)) s1

/-- How a beat ends for now. -/
inductive BeatEnd where
  | done (b : Beat)
  | halt (h : Halt)
  | waits
  deriving DecidableEq, Repr

/-- A core that does not accept its part of a slab: CPBC serves the others (R146). -/
def CopyCmd.skipSlab (c : CopyCmd) : CopyCmd := { c with fault := some (c.fault.getD (0x06, 0)), puts := 2 }

/-- A beat carried as far as it goes: its reads, its writes, and its contribution (R143, R151). -/
def State.runBeat (s : State) (unit core : Nat) (c0 : CopyCmd) (fuel : Nat) : BeatEnd × CopyCmd × State :=
  match fuel with
  | 0 => (.waits, c0, s.push (.copyBeat unit))
  | k + 1 =>
    match s.beatOf c0 with
    | .error h => (.halt h, c0, s)
    | .ok b =>
      -- a revocation of a page that the beat goes through stops the command (R25)
      let c : CopyCmd := { c0 with handles := c0.handles ++ b.pages.filter fun h => !c0.handles.contains h }
      match b.reads[c.got.length]?, b.writes[c.puts]?, b.word with
      | some (pa, n), _, _ =>
        (match s.engineAccess (c.request unit core .load pa n []) false with
          | .done bs p s1 => s1.runBeat unit core { c with got := c.got ++ [(bs, p)] } k
          | .refused d s1 => (.halt (.fail d), c, s1)
          | .later s1 => (.waits, c, s1.push (.copyBeat unit))
          | .sent s1 => (.waits, { c with busy := true }, s1))
      | none, some (pa, bs, p), _ =>
        if c.top = 0xA4 ∧ c.slabFits bs.length = false then s.runBeat unit core c.skipSlab k
        else
          (match s.engineAccess (c.request unit core .store pa bs.length bs) p with
            | .done _ _ s1 => s1.runBeat unit core { c with puts := c.puts + 1 } k
            | .refused d s1 => if c.top = 0xA4 ∧ d ≠ 0x02 then s.runBeat unit core c.skipSlab k else (.halt (.fail d), c, s1)
            | .later s1 => (.waits, c, s1.push (.copyBeat unit))
            | .sent s1 => (.waits, { c with busy := true }, s1))
      | none, none, some (pa, n) =>
        if c.puts ≠ b.writes.length then (.done b, c, s)
        else if moduleOf pa ≠ s.module then (.waits, { c with busy := true }, s.sendRequest (c.request unit core (.contribute n) pa 16 []))
        else
          let r := c.request unit core (.contribute n) pa 16 []
          (match (if spaceOf pa = 4 then (s.windowRefusal r).map copyDetail else if (s.checkRanges r).1.isSome then some 0x08 else none) with
            | some d => if c.top = 0xA4 then (.done b, c.skipSlab, s) else (.halt (.fail d), c, s)
            | none => (.done b, c, s.push (.milestoneContribution pa n)))
      | none, none, none => (.done b, c, s)

/-! ### Ends, failures and suspensions (R148, R149) -/

/-- The record of a command's batch. -/
def State.batchOf (s : State) (c : CopyCmd) : Option Batch := findOwn (s.batchesAt c.home) c.owner c.batch

/-- Whether a command is in the middle of a beat. -/
def CopyCmd.mid (c : CopyCmd) : Bool := c.busy || c.got ≠ [] || c.puts ≠ 0

/-- A CCAN completes once nothing that it cancelled is left in the engines (R331). -/
def State.cancelDone (s : State) (home : Agent) (owner : Nat) : State :=
  if (s.batchesAt home).any (fun b => b.owner = owner && b.state = 5 && b.left ≠ 0) then s
  else match s.ctxs.find? (fun e => e.2.holder ≠ 0 && holderOwner e.2.holder = owner && s.waitsFor (agentOfId e.1) 0xAD) with
    | some e => s.finish (agentOfId e.1) 0xAD
    | none => s

/-- One command fewer in its batch: a sealed batch without commands is complete (R149). -/
def State.lessOne (s : State) (c : CopyCmd) : State :=
  let s1 := (s.mapBatchOf c.home c.owner c.batch fun b =>
    { b with left := b.left - 1, state := if b.state = 1 ∧ b.left ≤ 1 then 2 else b.state }).cancelDone c.home c.owner
  -- a task whose threads have all left the core may end with its last batch (R160)
  match c.home with
  | .thread k _ => s1.pushAll ((s1.lp k).tasks.filterMap fun e =>
      if e.2.valid && e.2.unstarted = [] && (s1.lp k).slots.all (fun x => x.2.task ≠ e.1) then some (.taskEnd k e.1) else none)
  | .bank _ _ => s1

/-- The commands of an engine that a test picks leave its queue. -/
def State.endCopies (s : State) (unit : Nat) (f : CopyCmd → Bool) : State :=
  let cs := s.copies unit
  let gone := cs.filter f
  if gone = [] then s else gone.foldl State.lessOne (s.setCopies unit (cs.filter fun c => !f c))

/-- A batch's commands that are not in the middle of a beat leave every queue (R148, R150). -/
def State.sweepBatch (s : State) (u : CoreRef) (owner n : Nat) : State :=
  (s.enginesOf u).foldl (fun x e => x.endCopies e fun c => c.owner = owner && c.batch = n && !c.mid) s

/-- A command that fails ends and fails its batch (R148). -/
def State.failCopy (s : State) (unit : Nat) (c : CopyCmd) (detail tval : Nat) : State :=
  let s1 := s.mapBatchOf c.home c.owner c.batch fun b =>
    if b.state = 3 ∨ b.state = 5 then b
    else { b with state := 3, detail := detail, cmd := c.index, tval := tval, reported := false, susp := none }
  (s1.endCopies unit fun x => x.id = c.id).sweepBatch (agentCore c.who) c.owner c.batch

/-- A command whose beat finds its page missing or without the right suspends its batch (R148). -/
def State.suspendCopy (s : State) (unit : Nat) (c : CopyCmd) (cause tval tinfo : Nat) : State :=
  let s1 := s.mapCopy unit c.id fun _ => { c with got := [], puts := 0, inBeat := false }
  s1.mapBatchOf c.home c.owner c.batch fun b =>
    if b.state ≤ 1 then { b with state := 4, reported := false, susp := some ⟨cause, 0, tval⟩, suspInfo := tinfo } else b

/-- A CRC-32C moved on by one byte (R145: reflected Castagnoli polynomial). -/
def crcByte (crc : BitVec 32) (b : Byte) : BitVec 32 :=
  (List.range 8).foldl (fun c _ => if c.getLsbD 0 then (c >>> 1) ^^^ 0x82F63B78#32 else c >>> 1) (crc ^^^ b.setWidth 32)

/-- A leaf's O bit set, or its D bit cleared (R155). -/
def State.markLeaf (s : State) (key va : Nat) (offloaded : Bool) : State :=
  match s.walk key va with
  | .leaf e 16 pa _ => s.writeNat (canon pa) 8 (if offloaded then e ||| (1#64 <<< 56) else e &&& ~~~(1#64 <<< 57)).toNat
  | _ => s

/-- The bytes of a granule that `n` bytes from `va` cover. -/
def coverBits (va n g : Nat) : Nat :=
  let lo := max va (g * 65536)
  let hi := min (va + n) ((g + 1) * 65536)
  if lo < hi then (2 ^ (hi - lo) - 1) * 2 ^ (lo - g * 65536) else 0

/-- The granules of a virtual destination that a beat has completed, and what is covered now (R155). -/
def coverMore (cover : SMap Nat) (dva : List (Nat × Nat)) : List Nat × SMap Nat :=
  let gs := (dva.flatMap fun p => (List.range ((p.1 + p.2 + 65535) / 65536 - p.1 / 65536)).map (· + p.1 / 65536)).eraseDups
  gs.foldl (fun acc g =>
    let old := getAt acc.2 g 0
    let new := dva.foldl (fun m p => m ||| coverBits p.1 p.2 g) old
    (if new = 2 ^ 65536 - 1 ∧ old ≠ new then acc.1 ++ [g] else acc.1, setAt acc.2 g new)) ([], cover)

/-- A beat is over (R143, R151, R155): the command goes on, ends, or stops with its batch. -/
def State.afterBeat (s : State) (unit : Nat) (c : CopyCmd) (b : Beat) : State :=
  let pos := c.pos + b.step
  let (full, cover) := coverMore c.cover b.dva
  let s1 := full.foldl (fun x g => x.markLeaf c.key (g * 65536) false) s
  let s2 := if c.top = 0xA8 ∧ pos % 65536 = 0 then s1.markLeaf c.key (descWord c.desc 1 + pos - 65536) true else s1
  let c1 : CopyCmd := { c with
    pos := pos
    crc := if c.top = 0xB0 then (c.bytes 0).foldl crcByte c.crc else c.crc
    got := []
    puts := 0
    started := true
    inBeat := false
    since := s.cycle
    cover := cover }
  let s3 := s2.mapCopy unit c.id fun _ => c1
  let dead : Bool := match s3.batchOf c1 with
    | some r => r.state = 3 || r.state = 5
    | none => true
  if dead then s3.endCopies unit fun x => x.id = c.id
  else if copyTotal c.top c.desc ≤ pos then s3.push (.copyCommandComplete unit c.id)
  else s3

/-! ### The engines' steps (R142, R143, R149, R152) -/

/-- Whether an engine may start or go on with a command's next beat. -/
def State.copyRuns (s : State) (c : CopyCmd) : Bool :=
  !c.busy && decide (c.pos < copyTotal c.top c.desc) &&
  (c.mid || (!s.gang.suspended.contains c.key && match s.batchOf c with
    | some b => decide (b.state ≤ 1)
    | none => false))

/-- The command whose beat is next (R143): at most four are under way; by priority, then in queue order. -/
def State.nextCopy (s : State) (unit : Nat) : Option CopyCmd :=
  let cs := (s.copies unit).filter fun c => c.edge = none || decide (576 ≤ unit)
  let under := cs.filter (·.started)
  let best (l : List CopyCmd) : Option CopyCmd := l.foldl (fun acc c => match acc with
    | none => some c
    | some d => if c.prio < d.prio then some c else some d) none
  match (cs.filter fun c => c.mid && s.copyRuns c).head? with
  | some c => some c
  | none => best ((if under.length < 4 then cs else under).filter s.copyRuns)

/-- A CPMC: one announcement at the range's home (R72, R145). -/
def State.multicastCopy (s : State) (unit : Nat) (c : CopyCmd) : State :=
  let core := coreNumber s.module (agentCore c.who)
  let tok := geo c.desc 0
  let m := tok / 2 ^ 52
  let s1 := s.mapCopy unit c.id fun x => { x with busy := true, started := true }
  if m = s.module then s1.announce (.copy unit c.id) core c.key tok (geo c.desc 1) (geo c.desc 2) 0
  else if s.admits m c.key then
    s1.sendPacket (coreNumber m (.lc 0)) core c.key 0xA5 0 0 0 0 (.command c.who 0xA5 [tok, geo c.desc 1, geo c.desc 2, unit, c.id])
  else s1.failCopy unit c 0x06 0

/-- The reads and writes that one beat can need. -/
def beatFuel : Nat := 256

/-- A beat of the command that is next. -/
def State.stepCopy (s : State) (unit : Nat) (c : CopyCmd) : State :=
  if c.top = 0xA5 then
    (if c.puts = 0 then s.multicastCopy unit c
     else match c.fault with
      | some (0x08, v) => s.failCopy unit c 0x08 v
      | _ => (s.mapCopy unit c.id fun x => { x with pos := 1, puts := 0 }).push (.copyCommandComplete unit c.id))
  else
    let (r, c1, s1) := s.runBeat unit (coreNumber s.module (agentCore c.who)) c beatFuel
    match r with
    | .done b => s1.afterBeat unit c1 b
    | .halt (.fail d) => s1.failCopy unit c1 d 0
    | .halt (.suspend cause tval tinfo) =>
      (match s1.batchOf c1 with
        | some b => if b.state ≤ 1 then s1.suspendCopy unit c1 cause tval tinfo
          else if b.state = 4 then s1.mapCopy unit c.id fun _ => { c1 with got := [], puts := 0, inBeat := false }
          else s1.endCopies unit fun x => x.id = c.id
        | none => s1.endCopies unit fun x => x.id = c.id)
    | .waits => s1.mapCopy unit c.id fun _ => { c1 with started := true, inBeat := true }

/-- The commands of an engine that a revocation has stopped, outside a beat (R25). -/
def State.stopped (s : State) (unit : Nat) : Option CopyCmd := (s.copies unit).find? fun c => c.stop && !c.busy

def execCopyBeat (engine : Nat) (s : State) : Out :=
  .next (match s.stopped engine with
    | some c =>
      let (d, v) := c.fault.getD (0x04, 0)
      (s.failCopy engine c d v).push (.copyBeat engine)
    | none =>
      match s.nextCopy engine with
      | none => s
      | some c =>
        let s1 := s.stepCopy engine c
        if (s1.nextCopy engine).isSome then s1.pushOnce (.copyBeat engine) else s1)

def execCopyCommandComplete (engine cmd : Nat) (s : State) : Out :=
  .next (match (s.copies engine).find? (fun c => c.id = cmd) with
    | none => s
    | some c =>
      let sum : State := if c.top = 0xB0 then
          let pa := windowAddr s.module (agentCore c.who) (geo c.desc 1)
          let s1 := s.writeWatched pa (natToBytes 4 (~~~c.crc).toNat)
          match c.wordFor 4 with
          | some (w, n) =>
            if moduleOf w = s.module then s1.push (.milestoneContribution w n)
            else s1.sendRequest { c.request engine (coreNumber s.module (agentCore c.who)) (.contribute n) w 16 [] with who := .host }
          | none => s1
        else s
      match c.fault with
      | some (d, v) => sum.failCopy engine c d v
      | none => sum.endCopies engine fun x => x.id = cmd)

/-- The wait before retry `k` of a delegated command, in memory cycles, by its cbko and the refusal's hint (R152). -/
def backOff (policy : BitVec 64) (hint k : Nat) : Nat :=
  let cap := (policy.extractLsb' 16 16).toNat * 16
  match (policy.extractLsb' 0 2).toNat with
  | 0 => min hint cap
  | 1 => min (hint * 2 ^ k) cap
  | _ => cap

/-- A delegated command refused by a full edge engine (R152): its network interface will try again after its wait, or the batch fails. -/
def State.refuseEdge (s : State) (u : CoreRef) (cmd hint : Nat) : State :=
  match (s.copies (engineNo u)).find? (fun c => c.id = cmd) with
  | none => s
  | some c =>
    let tries := (c.policy.extractLsb' 8 8).toNat
    if tries ≠ 0 ∧ tries ≤ c.tries then s.failCopy (engineNo u) c 0x05 0
    else s.mapCopy (engineNo u) cmd fun x => { x with tries := x.tries + 1, retryAt := some (s.cycle + memoryCycles (backOff c.policy hint c.tries)) }

/-- A delegated command reaches its edge engine: accepted, it leaves the core's queue (R142). The hint of a refusal is a free number from 16 to 0xFFFF. -/
def State.offerEdge (s : State) (u : CoreRef) (cmd : Nat) : State :=
  match (s.copies (engineNo u)).find? (fun c => c.id = cmd) with
  | none => s
  | some c =>
    match c.edge with
    | none => s
    | some e =>
      if s.gang.suspended.contains c.key then s.push (.edgeAccept u cmd)
      else if maxEdgeQueue ≤ (s.copies e).length then
        let (n, s1) := s.freeNat
        s1.refuseEdge u cmd (16 + n % 0xFFF0)
      else
        let s1 := s.setCopies (engineNo u) ((s.copies (engineNo u)).filter fun x => x.id ≠ cmd)
        (s1.setCopies e (s1.copies e ++ [{ c with retryAt := none }])).pushOnce (.copyBeat e)

def execEdgeAccept (u : CoreRef) (cmd : Nat) (s : State) : Out := .next (s.offerEdge u cmd)

def execEdgeRefusal (u : CoreRef) (cmd hint : Nat) (s : State) : Out := .next (s.refuseEdge u cmd hint)

def execEdgeRetry (u : CoreRef) (cmd : Nat) (s : State) : Out := .next (s.offerEdge u cmd)

/-- A command that has waited long for a beat rises one level (R143). -/
def State.agePriority (s : State) (engine cmd : Nat) : State :=
  s.mapCopy engine cmd fun c => { c with prio := c.prio - 1, since := s.cycle }

def execCopyPriorityAging (engine cmd : Nat) (s : State) : Out := .next (s.agePriority engine cmd)

/-! ### Batch control (R149, R150, R330, R331) -/

/-- A batch sealed: without commands it is complete at once. -/
def Batch.sealUp (b : Batch) : Batch :=
  { b with isSealed := true, state := if b.state = 0 then (if b.left = 0 then 2 else 1) else b.state }

/-- The agent's open batch sealed and the next one opened. -/
def State.sealOpen (s : State) (a : Agent) (f : Batch → Batch) : State :=
  let s1 := s.needBatch a
  let n := (s1.ctx a).openBatch
  let s2 := s1.mapBatch a n f
  let live := s2.unfinished a
  let c := s2.ctx a
  s2.setCtx a { c with sealedBatches := live ++ [n], openBatch := (n + 1) % 65536, ncmd := 0 }

def execCseal (d : BitVec 5) (s : State) : Out :=
  let a := s.focus
  let n := s.cur.openBatch
  -- an empty batch finishes at once and never makes a 33rd
  let counts : Bool := match s.batch a n with
    | some b => !b.isSealed && !b.sealUp.finished
    | none => false
  .next (if counts ∧ maxSealed ≤ (s.unfinished a).length then s.again
    else ((s.sealOpen a Batch.sealUp).setX 1 d (BitVec.ofNat 64 n)).complete)

/-- The first of an agent's sealed batches with a suspension or failure to report (R148). -/
def State.sealedReport (s : State) (a : Agent) : Option Batch :=
  s.reportable a fun b => b.isSealed

def execCwait (n : BitVec 6) (s : State) : Out :=
  .next (let s1 := s.resumeBatches s.focus fun b => b.isSealed
    if (s1.unfinished s1.focus).length ≤ n.toNat then (s1.acquireFor s1.focus true).complete
    else match s1.sealedReport s1.focus with
      | some b => s1.report b
      | none => s1.again)

/-- The core, slot and number of a token; none: not a token (R5, R150). Its reserved bits 63:32 are not looked at: R150 refuses a wrong kind only
(DESIGN CHOICE, log 106). -/
def tokenOf (v : BitVec 64) : Option (Agent × Nat) :=
  let n := v.toNat
  if bitsOf n 31 30 ≠ 1 then none
  else match coreOfNumber (bitsOf n 29 20) with
    | some (.lc c) => some (.thread c (bitsOf n 19 16), bitsOf n 15 0)
    | some (.dt j) => some (.bank j (bitsOf n 19 16), bitsOf n 15 0)
    | none => none

/-- The record that a token names: its trap, or its batch where a record of it is kept (R150, R331). -/
def State.tokenBatch (s : State) (v : BitVec 64) : Except (Nat × Nat) (Option Batch) :=
  match tokenOf v with
  | none => .error (0x0A, 0x02)
  | some (a, n) =>
    match findBatch (s.batchesAt a) (agentSlot a) n with
    | none => .ok none
    | some b => if b.key = s.curKey then .ok (some b) else .error (0x15, 0)

/-- The status word of a record; a batch without one reads as expired (R150). -/
def statusOf (b : Option Batch) : BitVec 64 :=
  match b with
  | none => 6#64
  | some b => BitVec.ofNat 64 b.word

/-- Whether a token wait is over (R150). -/
def tokenDone (b : Option Batch) : Bool :=
  match b with
  | none => true
  | some b => b.state = 2 || b.state = 5 || (b.state = 3 && b.left = 0)

def execCwaitTok (d a : BitVec 5) (s : State) : Out :=
  .next (match s.tokenBatch (s.x a) with
    | .error (c, t) => s.trap c (s.x a) t
    | .ok b =>
      if tokenDone b then ((s.acquireFor s.focus true).setX 1 d (statusOf b)).complete else s.again)

def execCstat (d a : BitVec 5) (k : BitVec 1) (s : State) : Out :=
  .next (if k = 1#1 then
      (match s.tokenBatch (s.x a) with
        | .error (c, t) => s.trap c (s.x a) t
        | .ok b => (s.setX 1 d (statusOf b)).complete)
    else
      let n := (s.x a).toNat % 65536
      let b : Option Batch := match s.batch s.focus n with
        | some b => some b
        | none => if n = s.cur.openBatch then some (Batch.new 0 0 0 n 0) else none
      (s.setX 1 d (statusOf b)).complete)

/-- A batch of an agent cancelled: what has not started is discarded, and what runs stops after its beat (R150). -/
def State.cancelBatch (s : State) (a : Agent) (n : Nat) : State :=
  let h := (s.ctx a).holder
  let s1 := s.mapBatch a n fun b => { b with state := 5, susp := none }
  s1.sweepBatch (agentCore (holderAgent h)) (holderOwner h) n

/-- Whether commands of batches that an agent has cancelled still finish a beat. -/
def State.stillStopping (s : State) (a : Agent) : Bool :=
  let h := (s.ctx a).holder
  h ≠ 0 && (s.batchesAt (holderAgent h)).any fun b => b.owner = holderOwner h && b.state = 5 && b.left ≠ 0

def execCcan (a : BitVec 5) (l : BitVec 1) (s : State) : Out :=
  let who := s.focus
  let n := (s.x a).toNat % 65536
  .next (let s1 := if l = 1#1 then
        -- the open batch counts as sealed
        let live := s.unfinished who
        let t := live.foldl (fun x m => x.cancelBatch who m) s
        let m := (t.ctx who).openBatch
        let t1 := (t.needBatch who).cancelBatch who m
        t1.sealOpen who fun b => { b with isSealed := true }
      else if (s.unfinished who).contains n then s.cancelBatch who n
      else s
    if s1.stillStopping who then s1.awaitStep 0xAD else s1.complete)

def execCtok (d a : BitVec 5) (s : State) : Out :=
  let n := (s.x a).toNat % 65536
  .next (match s.batch s.focus n with
    | some b =>
      if b.isSealed then
        let h := holderAgent s.cur.holder
        let core := coreNumber 0 (agentCore h)
        (s.setX 1 d (BitVec.ofNat 64 (2 ^ 30 + core % 1024 * 2 ^ 20 + agentSlot h % 16 * 65536 + n))).complete
      else s.trap 0x0A (s.x a) 0x02
    | none => s.trap 0x0A (s.x a) 0x02)

def execCpri (p : BitVec 2) (s : State) : Out :=
  .next (s.setCur { s.cur with cbko := (s.cur.cbko &&& ~~~(12#64)) ||| (p.setWidth 64 <<< 2) }).complete

/-- Whether a value may be written to cbko's policy fields (R153, R331). -/
def cbkoOk (v : BitVec 64) : Bool := v.extractLsb' 32 32 = 0#32 && v.extractLsb' 2 6 = 0#6 && v.extractLsb' 0 2 ≠ 3#2

def execCbko (d a : BitVec 5) (s : State) : Out :=
  let v := s.x a
  let old := s.cur.cbko
  .next (if cbkoOk v then ((s.setCur { s.cur with cbko := (v &&& ~~~(12#64)) ||| (old &&& 12#64) }).setX 1 d old).complete
    else s.illegal (wordOf (.cbko d a)) 0x09)

end Sys2Proof.Machine
end

