-- ==== Sys2Proof/Machine/Sys.lean ====
section
/-! DEFINITION. System instructions: state registers, traps and debugging, timers, event counters, tasks, channels and messages, context
images, scrubbing and halting (R194 to R197, R333 to R341, R344, R346, R348, R352, R353, R357). -/

namespace Sys2Proof.Machine

/-! ### State registers (R334, R352) -/

/-- The numbers of the state-register table. -/
def srAssigned (n : Nat) : Bool :=
  decide (n ≤ 0x003) || (decide (0x010 ≤ n) && decide (n ≤ 0x017)) || (decide (0x020 ≤ n) && decide (n ≤ 0x027)) ||
  (decide (0x080 ≤ n) && decide (n ≤ 0x097)) || (decide (0x060 ≤ n) && decide (n ≤ 0x063)) ||
  [0x029, 0x02C, 0x02D, 0x02E, 0x02F, 0x030, 0x031, 0x040, 0x041, 0x050, 0x051, 0x052, 0x054, 0x055, 0x056, 0x057, 0x070].contains n

/-- The registers that a lookup core does not have. -/
def srDense (n : Nat) : Bool := n = 0x02E || (decide (0x060 ≤ n) && decide (n ≤ 0x063))

/-- The registers that some level may write. -/
def srWritable (n : Nat) : Bool :=
  (decide (0x080 ≤ n) && decide (n ≤ 0x096) && n % 2 = 0) ||
  [0x020, 0x021, 0x027, 0x02C, 0x02D, 0x02F, 0x041, 0x052, 0x054, 0x055, 0x057, 0x070].contains n

/-- tstatus (R195). -/
def State.tstatus (s : State) (a : Agent) : Nat :=
  let k := s.task a
  let ea : Bool := match findAt s.disp.launches k.tag with
    | some l => !l.depMet
    | none => false
  k.tag % 4096 * 2 ^ 16 + (k.width - 1) % 16 * 2 ^ 12 + bit k.ds * 2 ^ 11 + bit k.hold * 2 ^ 10 + bit k.ready * 2 ^ 9 + bit ea * 2 ^ 8
    + k.eprio % 4 * 2 ^ 6 + k.bprio % 4 * 2 ^ 4

/-- The index of an agent's task in its core's table; 0 on a dense tile. -/
def State.taskIndex (s : State) (a : Agent) : Nat :=
  match a with
  | .thread c t => (s.slot c t).elim 0 fun x => x.task
  | .bank _ _ => 0

/-- A task reference (R195). -/
def taskRef (inc idx core : Nat) : Nat := inc % 256 * 2 ^ 40 + idx % 64 * 2 ^ 32 + core % 2 ^ 24

/-- A read of mbox: the oldest message of the lowest channel of the task that holds one is taken (R195). -/
def State.takeMessage (s : State) : BitVec 64 × State :=
  match s.focus with
  | .bank _ _ => (0#64, s)
  | .thread c _ =>
    let idx := s.taskIndex s.focus
    match (s.lp c).chans.find? (fun e => e.2.task = some idx && e.2.msgs ≠ []) with
    | none => (0#64, s)
    | some (n, ch) =>
      (BitVec.ofNat 64 (2 ^ 63 + n % 64 * 2 ^ 56 + (ch.msgs.headD 0#48).toNat),
        s.setLp c { s.lp c with chans := setAt (s.lp c).chans n { ch with msgs := ch.msgs.drop 1 } })

/-- The counters of a core or tile. -/
def State.countersOf (s : State) (u : CoreRef) : SMap Counter :=
  match u with
  | .lc i => (s.lc i).counters
  | .dt j => (s.dt j).counters

/-- Event counter `n` as core `u` sees it (R336). -/
def State.counterAt (s : State) (u : CoreRef) (n : Nat) : Counter :=
  if n ≤ 3 then getAt (s.countersOf u) n (Counter.mk 0#64 0#64)
  else getAt (getAt s.sectors (sectorOf u) Sector.reset).counters n (Counter.mk 0#64 0#64)

def State.setCounter (s : State) (u : CoreRef) (n : Nat) (c : Counter) : State :=
  if n ≤ 3 then
    match u with
    | .lc i => s.setLc i { s.lc i with counters := setAt (s.lc i).counters n c }
    | .dt j => s.setDt j { s.dt j with counters := setAt (s.dt j).counters n c }
  else
    let e := getAt s.sectors (sectorOf u) Sector.reset
    { s with sectors := setAt s.sectors (sectorOf u) { e with counters := setAt e.counters n c } }

/-- Whether a select register of counter `n` takes a value: its source is listed for the counter and the class of core (R429). -/
def sourceOk (dense : Bool) (n : Nat) (v : BitVec 64) : Bool :=
  let src := v.toNat % 65536
  if n ≤ 3 then decide (1 ≤ src) && decide (src ≤ 10) && src ≠ (if dense then 0x0004 else 0x000A)
  else decide (0x0101 ≤ src) && decide (src ≤ 0x010A)

/-- The timer of an agent's task or tile (R335). -/
def State.timerOf (s : State) (a : Agent) : BitVec 64 :=
  match a with
  | .thread _ _ => (s.task a).timer
  | .bank j _ => (s.dp j).timer

/-- The registers that a dense tile alone has (R181, R207, R367). -/
def State.srTile (s : State) (j n : Nat) : BitVec 64 :=
  let p := s.dp j
  match n with
  | 0x02E => s.cur.eres
  | 0x060 => BitVec.ofNat 64 (p.hold.getD p.vcc)
  | 0x061 => if p.members = 0#32 then (1#64 <<< (j % 32)) else p.members.setWidth 64
  | 0x062 => (s.cur.shown.map (·.2.2)).getD s.cur.mpos
  | _ => p.array.cfg p.vcc

/-- An assigned register as a read finds it, but for what the read does (R352). -/
def State.srValue (s : State) (n : Nat) : BitVec 64 :=
  let a := s.focus
  let c := s.cur
  let k := s.task a
  let p := s.part s.curKey
  match n with
  | 0x000 => BitVec.ofNat 64 (s.tid a)
  | 0x001 => BitVec.ofNat 64 (s.coreNo a)
  | 0x002 => BitVec.ofNat 64 k.lcoreid
  | 0x003 => BitVec.ofNat 64 (taskRef k.inc (s.taskIndex a) (s.coreNo a))
  | 0x020 => c.cause
  | 0x021 => c.epc
  | 0x022 => c.tval
  | 0x023 => c.tinfo
  | 0x024 => c.tfmt
  | 0x025 => c.tvec
  | 0x026 => BitVec.ofNat 64 (s.tstatus a)
  | 0x027 => k.hpc.setWidth 64
  | 0x02C => p.svpc
  | 0x02D => p.tdeleg
  | 0x02F => p.svpcd
  | 0x030 => s.timerOf a
  | 0x031 => BitVec.ofNat 64 s.cycle
  | 0x040 => c.seed
  | 0x041 => (c.shown.map (·.2.1)).getD c.src
  | 0x050 => BitVec.ofNat 64 s.curKey
  | 0x051 => s.gangstat
  | 0x052 => p.ptroot
  | 0x054 => c.ascope
  | 0x055 => (c.shown.map (·.1)).getD c.cbko
  | 0x056 => c.ltsel
  | 0x057 => c.vlen
  | 0x070 => c.mflags
  | n =>
    if 0x010 ≤ n ∧ n ≤ 0x017 then BitVec.ofNat 64 (k.levels.getD (n - 0x010) 0)
    else if 0x080 ≤ n then
      let e := s.counterAt (agentCore a) ((n - 0x080) / 2)
      (if n % 2 = 0 then e.select else e.count)
    else match a with
      | .bank j _ => s.srTile j n
      | .thread _ _ => 0#64

/-- A read of a state register: its value, and the state after it. -/
def State.srRead (s : State) (n : Nat) : BitVec 64 × State := if n = 0x029 then s.takeMessage else (s.srValue n, s)

/-- The detail with which an access to a state register fails, where it does (R334). -/
def State.srFault (s : State) (n : Nat) (write : Bool) : Option Nat :=
  if srAssigned n = false then some 0x08
  else if srDense n && !isDense s.focus then some 0x01
  else if write && !srWritable n then some 0x06
  else none

/-- The cause register written (R351): code and A stay; PL changes at supervisor level only. -/
def causeWritten (sup : Bool) (old v : BitVec 64) : BitVec 64 :=
  let m : BitVec 64 := if sup then 0xE00#64 else 0xA00#64
  (old &&& ~~~m) ||| (v &&& m)

/-- A value written to a register that may be written; `left`: the trap it raises instead, which changes nothing else. -/
def State.srWrite (s : State) (n : Nat) (v : BitVec 64) (w : Word) : Except State State :=
  let a := s.focus
  let c := s.cur
  let key := s.curKey
  let p := s.part key
  if v &&& srReserved n ≠ 0#64 then .error (s.illegal w 0x09)
  else match n with
    | 0x020 =>
      let s1 := s.setCur { c with cause := causeWritten c.sup c.cause v }
      .ok (match a with
        | .bank j _ => if (s.dp j).traps = [] then s1 else s1.push (.trapDrain j)
        | .thread _ _ => s1)
    | 0x021 => .ok (s.setCur { c with epc := v })
    | 0x027 => if v.toNat % 4 ≠ 0 then .error (s.trap 0x07 v 0) else .ok (s.setTask a { s.task a with hpc := v.setWidth 48 })
    | 0x02C => if v.toNat % 4 ≠ 0 then .error (s.trap 0x07 v 0) else .ok (s.setPart key { p with svpc := v })
    | 0x02D => .ok (s.setPart key { p with tdeleg := v })
    | 0x02F => if v.toNat % 16 ≠ 0 then .error (s.trap 0x07 v 0) else .ok (s.setPart key { p with svpcd := v })
    | 0x041 => .ok (s.setCur { c with src := v })
    | 0x052 =>
      let root := pointed s.module (v.extractLsb' 0 48).toNat
      if v.getLsbD 63 && (root % 0x20000 ≠ 0 || decide (3 < spaceOf root)) then .error (s.illegal w 0x09)
      else .ok (s.setPart key { p with ptroot := v })
    | 0x054 => if (s.resolveScope a v.toNat).isNone then .error (s.illegal w 0x03) else .ok (s.setCur { c with ascope := v })
    | 0x055 => if v.extractLsb' 0 2 = 3#2 then .error (s.illegal w 0x09) else .ok (s.setCur { c with cbko := v })
    | 0x057 => if vectorBytes a < v.toNat then .error (s.illegal w 0x09) else .ok (s.setCur { c with vlen := v })
    | 0x070 => .ok (s.setCur { c with mflags := v })
    | n =>
      let i := (n - 0x080) / 2
      if sourceOk (isDense a) i v = false then .error (s.illegal w 0x09)
      else .ok (s.setCounter (agentCore a) i { s.counterAt (agentCore a) i with select := v })

def execSrget (d : BitVec 5) (r : BitVec 12) (s : State) : Out :=
  .next (match s.srFault r.toNat false with
    | some e => s.illegal (wordOf (.srget d r)) e
    | none => (((s.srRead r.toNat).2).setX 1 d (s.srRead r.toNat).1).complete)

def execSrset (a : BitVec 5) (r : BitVec 12) (s : State) : Out :=
  let w := wordOf (.srset a r)
  .next (match s.srFault r.toNat true with
    | some e => s.illegal w e
    | none =>
      match s.srWrite r.toNat (s.x a) w with
      | .error t => t
      | .ok s1 => s1.complete)

def execSrxch (d a : BitVec 5) (r : BitVec 12) (s : State) : Out :=
  let w := wordOf (.srxch d a r)
  .next (match s.srFault r.toNat true with
    | some e => s.illegal w e
    | none =>
      match s.srWrite r.toNat (s.x a) w with
      | .error t => t
      | .ok s1 => (s1.setX 1 d (s.srValue r.toNat)).complete)

/-! ### Event counters and timers (R335, R336) -/

def execEvsel (d a : BitVec 5) (n : BitVec 4) (s : State) : Out :=
  let v := s.x a
  let u := agentCore s.focus
  let w := wordOf (.evsel d a n)
  let old := s.counterAt u n.toNat
  .next (if 12 ≤ n.toNat then s.illegal w 0x08
    else if 2 ^ 18 ≤ v.toNat ∨ sourceOk (isDense s.focus) n.toNat v = false then s.illegal w 0x09
    else
      let s1 := s.setCounter u n.toNat { select := v &&& 0x1FFFF#64, count := if v.getLsbD 17 then 0#64 else old.count }
      (s1.setX 1 d old.count).complete)

/-- The timer register armed with a count (R335). -/
def timerArmed (n : BitVec 64) : BitVec 64 := if n = 0#64 then 0#64 else BitVec.ofNat 64 (2 ^ 63 + min n.toNat (2 ^ 48 - 1))

def execTimer (d a : BitVec 5) (s : State) : Out :=
  let t := s.timerOf s.focus
  let old : BitVec 64 := if t.getLsbD 63 then t &&& 0xFFFFFFFFFFFF#64 else 0#64
  let new := timerArmed (s.x a)
  let s1 := match s.focus with
    | .thread _ _ => s.setTask s.focus { s.task s.focus with timer := new }
    | .bank j b => s.setDp j { s.dp j with timer := new, timerBank := b }
  .next ((s1.setX 1 d old).complete)

/-! ### Traps (R337, R357) -/

def execTrap (c : BitVec 14) (s : State) : Out := .next (s.complete.trapAfter { cause := 0x19, tval := c.setWidth 64 } 0)

def execBrk (c : BitVec 19) (s : State) : Out := .next (s.trap 0x1A (c.setWidth 64) 0)

def execTret (s : State) : Out :=
  .next (if causeIH s.cur.cause = false then s.illegal (wordOf .tret) 0x0C
    else match s.focus with
      | .thread _ _ => s.returnTrap s.focus
      | .bank j b => s.denseReturn j b)

/-! ### Waiting and giving way (R197, R338) -/

def execWait (s : State) : Out :=
  let k := s.task s.focus
  .next (if k.ready then (s.setTask s.focus { k with ready := false }).complete
    else s.setCur { s.cur with wait := .sleepTask })

def execYield (s : State) : Out :=
  .next (match s.focus with
    | .thread c t => if s.yields c t then s.complete.preempt c t else s.complete
    | .bank _ _ => s.complete)

/-! ### Tasks (R339) -/

/-- The task that TSPAWN makes for an issuer's. -/
def spawnedTask (k : Task) (entry : BitVec 48) (arg : BitVec 48) (hold : Bool) (prio width inc : Nat) : Task :=
  { Task.reset with
    valid := true
    bprio := prio
    eprio := prio
    hold := hold
    ds := k.ds
    width := width
    tag := k.tag
    slice := k.slice
    inc := inc
    entry := entry
    arg := arg
    n := k.n
    key := k.key
    lcoreid := k.lcoreid
    levels := k.levels
    seed := k.seed
    unstarted := List.range width
    early := k.early }

def execTspawn (d a b : BitVec 5) (h : BitVec 1) (p : BitVec 2) (w : BitVec 4) (s : State) : Out :=
  let k := s.task s.focus
  .next (match s.focus with
    | .bank _ _ => s.illegal (wordOf (.tspawn d a b h p w)) 0x01
    | .thread c _ =>
      if (s.x a).toNat % 4 ≠ 0 then s.trap 0x07 (s.x a) 0
      else if k.ds && decide (8 ≤ w.toNat) then s.illegal (wordOf (.tspawn d a b h p w)) 0x09
      else match s.freeEntries c with
        | [] => (s.setX 1 d (BitVec.allOnes 64)).complete
        | i :: _ =>
          let inc := (s.taskAt c i).inc
          let s1 := s.setTaskAt c i (spawnedTask k ((s.x a).setWidth 48) ((s.x b).setWidth 48) (h = 1#1) p.toNat (w.toNat + 1) inc)
          let s2 := s1.setLaunch k.tag fun l => { l with total := l.total + 1, bound := l.bound + 1 }
          ((s2.push (.slotGrant c)).setX 1 d (BitVec.ofNat 64 (taskRef inc i (s.coreNo s.focus)))).complete)

/-! ### Posted task operations (R196, R339, R340) -/

/-- The entry that a task reference names on a core of this module. A reference with a reserved bit set (63:48, 39:38, 31:24) names none and is refused
with the same detail as a stale one; R195 gives that word no reading (DESIGN CHOICE, log 110). -/
def State.refTask (s : State) (c ref : Nat) : Option (Nat × Task) :=
  let idx := bitsOf ref 37 32
  let k := s.taskAt c idx
  if k.valid ∧ k.inc % 256 = bitsOf ref 47 40 ∧ bitsOf ref 63 48 = 0 ∧ bitsOf ref 39 38 = 0 ∧ bitsOf ref 31 24 = 0 then some (idx, k) else none

/-- A message appended to a bound channel, and Y set (R196). -/
def State.sendMessage (s : State) (c ch data idx : Nat) : State :=
  let e := getAt (s.lp c).chans ch ⟨none, []⟩
  (s.setLp c { s.lp c with chans := setAt (s.lp c).chans ch { e with msgs := e.msgs ++ [BitVec.ofNat 48 data] } }).setReady c idx

/-- What refuses a task operation at its core, or what it does there (R196, R339). -/
def State.taskOperation (s : State) (c : Nat) (t : TaskReq) : Except Refused State :=
  match t.op with
  | .msg ch data =>
    let e := getAt (s.lp c).chans ch ⟨none, []⟩
    (match e.task with
      | none => .error ⟨0x13, 0x23, 0⟩
      | some idx =>
        if (s.taskAt c idx).key ≠ t.key then .error ⟨0x15, 0, 0⟩
        else if maxChannelDepth ≤ e.msgs.length then .error ⟨0x13, 0x22, 0⟩
        else .ok (s.sendMessage c ch data idx))
  | op =>
    match s.refTask c t.ref with
    | none => .error ⟨0x13, 0x24, 0⟩
    | some (idx, k) =>
      if k.key ≠ t.key then .error ⟨0x15, 0, 0⟩
      else .ok (match op with
        | .hold set => (s.setTaskAt c idx { k with hold := set }).push (.slotGrant c)
        | .prio p => (s.setTaskAt c idx { k with bprio := p, eprio := min k.eprio p }).push (.slotGrant c)
        | _ => s.setReady c idx)

/-- A task operation at its core: refused, pending under a waypoint (R275), or performed. -/
def execTaskOperationArrival (t : TaskReq) (s : State) : Out :=
  let answer (x : State) (r : Option Refused) : State := match t.jent with
    | some j => x.sendAck t.core t.key t.who j r true
    | none => x
  .next (match coreOfNumber (bitsOf t.ref 11 0) with
    | some (.lc c) =>
      (match s.taskOperation c t with
        | .error r => answer s (some r)
        | .ok s1 =>
          if t.held then s.holdPending (.agent t.who) (t.jent.getD 0) (.task { t with held := false })
          else answer s1 none)
    | _ => answer s (some ⟨0x13, 0x24, 0⟩))

/-- A task operation posted to the core in bits 23:0 of a reference (R5, R196). -/
def State.postTask (s : State) (top : Nat) (ref : BitVec 64) (valid : Bool) (op : TaskOp) : State :=
  let core := ref.toNat % 2 ^ 24
  match (if valid then coreOfNumber core else none) with
  | some (.lc _) =>
    s.post top 0#3 ref 1 fun j x =>
      let t : TaskReq := {
        who := x.focus
        core := x.coreNo x.focus
        key := x.curKey
        ref := ref.toNat
        op := op
        jent := some j
        held := x.cur.wayOpen }
      if x.admits (moduleOfNumber core) x.curKey then
        x.sendTo core (x.coreNo x.focus) x.curKey top j 0 (.taskOperationArrival t) (.task t)
      else x.sendAck (x.coreNo x.focus) x.curKey x.focus j (some ⟨0x15, 0, 0⟩) true
  | _ => s.trap 0x05 ref 0

def execThold (a : BitVec 5) (h : BitVec 1) (s : State) : Out := .next (s.postTask 0xC8 (s.x a) true (.hold (h = 1#1)))

def execTrdy (a : BitVec 5) (s : State) : Out := .next (s.postTask 0xC9 (s.x a) true .ready)

def execTkpri (a b : BitVec 5) (s : State) : Out := .next (s.postTask 0xCF (s.x a) true (.prio ((s.x b).toNat % 4)))

def execMsg (d a : BitVec 5) (c : BitVec 6) (s : State) : Out :=
  .next (s.postTask 0xCC (s.x a) (decide ((s.x a).toNat < 2 ^ 24)) (.msg c.toNat ((s.x d).toNat % 2 ^ 48)))

def execTchan (d : BitVec 5) (u : BitVec 1) (c : BitVec 6) (s : State) : Out :=
  .next (match s.focus with
    | .bank _ _ => s.illegal (wordOf (.tchan d u c)) 0x01
    | .thread k _ =>
      let idx := s.taskIndex s.focus
      let e := getAt (s.lp k).chans c.toNat ⟨none, []⟩
      let put (x : Channel) : State := s.setLp k { s.lp k with chans := setAt (s.lp k).chans c.toNat x }
      let answer (x : State) (n : Nat) : State := (x.setX 1 d (BitVec.ofNat 64 n)).complete
      if u = 1#1 then (if e.task = some idx then answer (put ⟨none, []⟩) 0 else answer s 2)
      else match e.task with
        | none => answer (put ⟨some idx, []⟩) 0
        | some j => answer s (if j = idx then 0 else 1))

/-! ### The end of a thread (R115, R338) -/

/-- The release of R115's step 1: loads, store buffer and journal always; the L1 only for a completion scope wider than core. -/
def State.endRelease (s : State) : Bool × State :=
  let a := s.focus
  match a with
  | .thread _ _ =>
    let (_, s1) := s.releaseFor a false false
    if (s1.ctx a).posted ∨ (s1.ctx a).wbacks ≠ 0 then (false, s1)
    else if s1.wideCscope (s1.task a) then s1.releaseFor a true false
    else (true, s1)
  | .bank _ _ => s.releaseFor a true false

/-- Whether a batch of the agent's task is still under way (R115, step 2). -/
def State.taskBatches (s : State) (a : Agent) : Bool := s.tagBatches a (s.taskTag a)

/-- A lookup thread, or a pair as one, ends (R174, R338). -/
def State.endLookup (s : State) (c t : Nat) : State :=
  let a := Agent.thread c t
  let us := pairSlots (s.task a).ds t
  let clear (x : State) (u : Nat) : State :=
    let b := Agent.thread c u
    let y := (x.releaseLocks b).dropCompanion b
    y.setCtx b { Ctx.reset with src := (y.ctx b).src }
  let s1 := (us.foldl clear s).endThread c t true
  let s2 := (us.filter (· ≠ t)).foldl (fun x u => x.freeSlot c u) s1
  s2.setLp c { s2.lp c with pairs := dropAt (s2.lp c).pairs (t % 8) }

def execTend (s : State) : Out :=
  .next (if s.cur.wayOpen then s.illegal (wordOf .tend) 0x0A
    else match s.endRelease with
      | (false, s1) => s1.again
      | (true, s0) =>
        let s1 := s0.resumeBatches s0.focus fun _ => true
        match s1.reportable s1.focus (fun _ => true) with
        | some b => s1.report b
        | none =>
          let openLeft : Bool := match s1.batch s1.focus s1.cur.openBatch with
            | some b => b.left ≠ 0
            | none => false
          if s1.unfinished s1.focus ≠ [] ∨ openLeft = true ∨ s1.taskBatches s1.focus = true then s1.again
          else match s1.focus with
            | .thread c t => s1.endLookup c t
            | .bank j b => s1.denseEnd j b)

/-! ### Redundancy (R346) -/

/-- REDN. The compare of a pair's registers is made where the two threads meet (R167). -/
def execRedn (d : BitVec 5) (_ : BitVec 1) (s : State) : Out :=
  .next ((s.setX 1 d (if (s.task s.focus).ds then 1#64 else 0#64)).complete)

/-! ### Context images (R344) -/

/-- The bytes of an image written to their sites. -/
def State.writeImage (s : State) (m : BitVec 3) (o : BitVec 64) (bs : List Byte) : State :=
  let ps := pieces (hBase (s.h m)) o.toNat bs.length
  let s0 := s.setCur { s.cur with opnd := (o, m) }
  ps.foldl (fun x p =>
    let part := (bs.drop p.2.2).take p.2.1
    match x.siteOf (agentCore x.focus) p.1 with
    | .own _ => x.writeWatched p.1 part
    | .control => x.pushAll (x.controlWrites x.curKey (offsetOf p.1) part)
    | _ => (x.leaveLine p.1).storeAtSite x.focus x.curKey p.1 part) s0

/-- The counter that an image of a dense bank holds (R179, R344). -/
def State.imageCounter (s : State) : Nat :=
  match s.focus with
  | .thread _ _ => 0
  | .bank j _ => (s.dp j).hold.getD (s.dp j).vcc

def execCtxs (d a : BitVec 5) (n : BitVec 3) (s : State) : Out :=
  let dense := isDense s.focus
  let o := s.x a
  let size := imageBytes dense
  .next (if s.cur.wayOpen then s.illegal (wordOf (.ctxs d a n)) 0x0A
    else match checkHandle s.cur.sup (s.h n) o.toNat size 64 .store true with
      | some c => s.handleTrap c o n
      | none =>
        if (pieces (hBase (s.h n)) o.toNat size).any (s.pieceBad (agentCore s.focus)) then s.trap 0x05 o n.toNat
        else s.afterRelease true true fun t =>
          -- the image has been written, and its last bytes are accepted
          if t.cur.inbox.isSome then (((t.setCur { t.cur with inbox := none }).setX 1 d 0#64)).complete
          else
            let t1 := match t.focus with
              | .thread _ _ => t
              | .bank j _ => t.completeTile j
            let c := t1.cur
            let img := imageOf dense (if d = 0#5 then c else c.writeX d 1#64) (c.pc + stepBytes t1.focus) t1.revSeq t1.imageCounter
            let t2 := t1.writeImage n o img
            match t2.releaseFor t2.focus true false with
            | (true, t3) => (t3.setX 1 d 0#64).complete
            | (false, t3) => (t3.setCur { t3.cur with inbox := some [] }).again)

/-- CTXL (R344). Bits 60:48 of the image's header are not looked at (DESIGN CHOICE, log 110). -/
def execCtxl (a : BitVec 5) (n : BitVec 3) (s : State) : Out :=
  let dense := isDense s.focus
  let o := s.x a
  let size := imageBytes dense
  let w := wordOf (.ctxl a n)
  .next (match checkHandle s.cur.sup (s.h n) o.toNat size 64 .load true with
    | some 0x0E => s.dropFlow n o
    | some c => s.handleTrap c o n
    | none => s.withBytes n o size fun bs x =>
      let w0 := imageWord bs 0
      if bitsOf w0 63 62 ≠ bit dense then x.illegal w 0x09
      else if bitsOf w0 61 61 = 1 ∧ x.cur.sup = false then x.trap 0x03 (w.setWidth 64) (if dense then 256 * x.bslot else 0)
      else x.afterRelease true (x.wideScope x.focus) fun y =>
        let openLeft : Bool := match y.batch y.focus y.cur.openBatch with
          | some b => b.left ≠ 0
          | none => false
        if y.unfinished y.focus ≠ [] ∨ openLeft = true then y.again
        else
          let y1 := match y.focus with
            | .thread _ _ => y
            | .bank j _ => y.completeTile j
          let c := y1.reviveHandles (agentCore y1.focus) (imageCtx dense bs y1.cur) (imageSeq dense bs)
          let y2 := (y1.setCur c).acquireFor y1.focus true
          match y2.focus with
          | .thread _ _ => y2
          | .bank j _ => if y2.groupOf j = [j] then y2.setDp j { y2.dp j with vcc := imageVcc bs } else y2)

/-! ### Scrubbing and halting (R348) -/

def execScrub (d a b : BitVec 5) (n : BitVec 3) (s : State) : Out :=
  let o := s.x a
  let len := (s.x b).toNat
  .next (match checkHandle s.cur.sup (s.h n) o.toNat len 64 .store true with
    | some c => s.handleTrap c o n
    | none =>
      if len % 64 ≠ 0 then s.handleTrap 0x07 (s.x b) n
      else s.sendCommand (moduleOf (hBase (s.h n))) 0xD8 [hBase (s.h n) + o.toNat, len, d.toNat])

/-- A core stopped, or going on (R348). A dense tile drains without switching banks. -/
def State.haltCore (s : State) (u : CoreRef) (resume : Bool) : State :=
  match u with
  | .lc i => s.setLc i { s.lc i with halted := !resume }
  | .dt j =>
    let s1 := s.setDt j { s.dt j with halted := !resume }
    if resume then s1.restartMsq j
    else
      let (m, s2) := s1.drainTile j
      s2.keepMsq j m

/-- HALT (R348). The other bits of X[a] are tested before the core number; R348 gives no order of the two (DESIGN CHOICE, log 112). -/
def execHalt (a : BitVec 5) (s : State) : Out :=
  let v := (s.x a).toNat
  let n := v % 2 ^ 24
  let resume := bitsOf v 63 63 = 1
  .next (if bitsOf v 62 24 ≠ 0 then s.illegal (wordOf (.halt a)) 0x09
    else match coreOfNumber n with
      | none => s.trap 0x05 (s.x a) 0
      | some u =>
        if moduleOfNumber n = s.module then s.complete.haltCore u resume
        else if s.admits (moduleOfNumber n) s.curKey then
          (s.awaitStep 0xDD).sendPacket n (s.coreNo s.focus) s.curKey 0xDD 0 0 0 0 (.command s.focus 0xDD [n, bit resume])
        else s.trap 0x15 0#64 0)

end Sys2Proof.Machine
end

