-- ==== Sys2Proof/Machine/Trap.lean ====
section
/-! DEFINITION. Queued refusals, waypoint commits and rollbacks, parking, slices and the fencing of a core (R103, R200, R275, R358 to R363,
R371, R375). -/

namespace Sys2Proof.Machine

/-! ### Queued refusals (R358, R359) -/

/-- The oldest refusal of an agent taken, where it is not in a handler: at once on a lookup core, after a drain on a dense tile. -/
def State.takeRefusal (s : State) (a : Agent) : State :=
  let c := s.ctx a
  match (if causeIH c.cause then [] else c.refusals) with
  | [] => s
  | r :: rest =>
    let s1 := (s.setCtx a { c with refusals := rest }).count (agentCore a) 0x0009 1
    let t := refusalTrap r
    match a with
    | .thread _ _ => s1.enterBoth a t c.pc
    | .bank j b =>
      let p := s1.dp j
      (s1.setDp j { p with traps := p.traps ++ [{
        bank := b
        slot := 0
        cause := ⟨t.cause, 0, t.tval.toNat⟩
        tinfo := t.tinfo.toNat
        tfmt := t.tfmt.toNat
        tvec := t.tvec.toNat
        pc := c.pc
        atIssue := false
        replay := false
        async := true
        arrived := true
        vcc := p.vcc
        batch := none
        due := 0 }] }).push (.trapDrain j)

def execRefusalTaken (who : Agent) (s : State) : Out := .next (s.takeRefusal who)

/-! ### Waypoints (R103, R275, R361 to R363) -/

/-- A rollback of a thread, or the mark that a saved one keeps until its restore (R363). -/
def State.rollbackAt (s : State) (a : Agent) (cause : Nat) : State :=
  match a with
  | .thread c t =>
    if t < 16 then (if (s.ctx a).wayOpen then s.rollback a cause else s)
    else
      -- the context, and the trailing one of a pair
      let hit (x : SavedCtx) : Bool := (x.code + 16 = t || x.code = t) && x.ctx.wayOpen
      (s.discardOf (s.coreNo a) (s.coreKey a) a).mapSaved c fun x => if hit x then { x with rollback := some (x.rollback.getD cause) } else x
  | .bank _ _ => s

def execWaypointRollback (who : Agent) (cause : Nat) (s : State) : Out := .next (s.rollbackAt who cause)

/-- A pending operation has not been acknowledged as held in time (R361). -/
def State.holdTimedOut (s : State) (who : Agent) : State :=
  if s.onTheWay who && !(s.ctx who).committing then s.rollbackAt who 0x16 else s

def execWaypointHoldTimeout (who : Agent) (s : State) : Out := .next (s.holdTimedOut who)

/-- One pending operation applied at its site (R103). -/
def State.applyPending (s : State) (p : Pending) : State :=
  match p.body with
  | .req r =>
    let q := { r with held := false }
    if spaceOf r.pa = 4 then s.windowAccess q else s.atHomeBy State.serveNow q
  | .accum x => s.accumulate { x with held := false }
  | .segment g => s.segmentLands { g with held := false }
  | .task t =>
    (match coreOfNumber (bitsOf t.ref 11 0) with
      | some (.lc c) =>
        (match s.taskOperation c t with
          | .error r => s.sendAck t.core t.key t.who p.jent (some r) true
          | .ok s1 => s1.sendAck t.core t.key t.who p.jent none true)
      | _ => s)
  | .command a _ [core, key, tok, ofs, len] => s.announce (.agent a) core key tok ofs len p.jent
  | _ => s

/-- The site of a pending operation: of a mapped byte the mapper's scratchpad, else its home, its core's unit, or the range's home (R103, R116). -/
def State.pendingSite (s : State) (p : Pending) : Nat × Nat :=
  match p.body with
  | .req r =>
    let b := s.byteSite (reqBase r)
    match spaceOf b with
    | 3 => (3, offsetOf b / 0x1000000)
    | 4 => (4, offsetOf b / 0x400000)
    | _ => (0, homePair b)
  | .accum a => (0, a.pair)
  | .segment g => (4, g.dst)
  | .task t => (6, t.ref % 2 ^ 24)
  | .command _ _ (_ :: _ :: tok :: _) => (7, tok / 2 ^ 29)
  | _ => (8, 0)

/-- A commit at one site of this module (R103): the site applies the thread's pending operations at one instant, in the order in which they
arrived. Other sites apply theirs in steps of their own. Whether sites are left, and the state. -/
def State.commitSite (s : State) (core key : Nat) (who : Agent) : Bool × State :=
  let mine (p : Pending) : Bool := p.of core key who
  match s.homes.pending.find? mine with
  | none => (false, s)
  | some p0 =>
    let now (p : Pending) : Bool := mine p && s.pendingSite p = s.pendingSite p0
    let rest := s.homes.pending.filter fun p => !now p
    (rest.any mine, (s.homes.pending.filter now).foldl (fun x p => x.applyPending p) { s with homes := { s.homes with pending := rest } })

/-- A commit reaches this module. -/
def State.startCommit (s : State) (core key : Nat) (who : Agent) : State :=
  ({ s with homes := { s.homes with commits := s.homes.commits ++ [(who, core, key)] } }).push (.waypointCommitApply who)

def execWaypointCommitApply (who : Agent) (s : State) : Out :=
  let r := (s.homes.commits.find? fun c => c.1 = who).getD (who, s.coreNo who, s.coreKey who)
  let (more, s1) := s.commitSite r.2.1 r.2.2 who
  .next (if more then s1.push (.waypointCommitApply who) else { s1 with homes := { s1.homes with commits := s1.homes.commits.erase r } })

/-! ### Slices (R200, R204) -/

/-- A slice at its end: of a lookup thread, or of a dense tile's active bank. -/
def State.sliceOver (s : State) (a : Agent) : State :=
  match a with
  | .thread c t => s.expire c t
  | .bank j b => (s.mapBank j b fun i => { i with slice := 0 }).push (.denseBankSwitch j)

/-- Whether an agent's slice has run out: one of 0 never does (R200, R204). -/
def State.sliceSpent (s : State) (a : Agent) : Bool :=
  match a with
  | .thread c t => (s.slot c t).any fun sl => sl.slice = 0 && (s.taskAt c sl.task).slice ≠ 0
  | .bank j b => b = (s.dp j).active && (s.bankInfo j b).any fun i => i.slice = 0 && i.task.slice ≠ 0

def execSliceExpiry (who : Agent) (s : State) : Out := .next (if s.sliceSpent who then s.sliceOver who else s)

/-! ### Parking and fencing (R371, R375) -/

/-- Whether an agent runs a task's thread. -/
def State.occupied? (s : State) (a : Agent) : Bool :=
  match a with
  | .thread c t => (s.slot c t).isSome
  | .bank j b => (s.bankInfo j b).isSome

def execPark (who : Agent) (cause : Nat) (tval tinfo : BitVec 64) (dt uh : Bool) (s : State) : Out :=
  .next (if s.occupied? who then s.parkAgent who cause tval.toNat tinfo.toNat dt uh else s)

/-- The record of a context that a fence parks. R375 names no cause for it: a free number. -/
def State.fenceRecord (s : State) (u : CoreRef) (slot cause : Nat) (k : Task) (c : Ctx) : FaultRec where
  cause := cause
  ds := k.ds
  dt := isTile u
  slot := slot
  tag := k.tag
  core := coreNumber s.module u
  tval := c.tval.toNat
  tinfo := c.tinfo.toNat
  key := k.key
  epc := c.pc.toNat

/-- A resident thread or bank of a fenced core parked. -/
def State.fenceAgent (s : State) (a : Agent) : State :=
  if s.occupied? a then
    let (n, s1) := s.freeNat
    (s1.postFault (s1.fenceRecord (agentCore a) (agentSlot a) n (s1.task a) (s1.ctx a))).scrubBoth a
  else s

/-- A saved context of a fenced core parked: it counts as killed, and as ended or, for a visitor, as gone. -/
def State.fenceSaved (s : State) (c : Nat) (x : SavedCtx) : State :=
  let k := s.taskAt c x.task
  let (n, s1) := s.freeNat
  let s2 := s1.postFault (s1.fenceRecord (.lc c) 0 n k x.ctx)
  let s3 := (s2.discardOf (coreNumber s2.module (.lc c)) (s2.lp c).key (savedAgent c x.code)).setLaunch k.tag fun l => { l with killed := l.killed + 1 }
  if x.visitor then s3.lowerTravel k.tag else s3

/-- A task entry of a fenced core freed: its task ends, and its threads that never started count as killed. -/
def State.fenceTask (s : State) (c idx : Nat) : State :=
  let k := s.taskAt c idx
  if k.valid = false then s
  else
    let s1 := s.setTaskAt c idx { Task.reset with inc := (k.inc + 1) % 256 }
    (s1.setLaunch k.tag fun l => { l with killed := l.killed + k.unstarted.length }).taskEnded k.tag

/-- Operations pending at this module refused: each of their threads rolls back with 0x15, one of another module when it hears of it (R361, R375). -/
def State.refusePending (s : State) (f : Pending → Bool) (core : Nat) : State :=
  (s.homes.pending.filter f).foldl (fun x p =>
    let (c, key) := (payloadCore p.body, payloadKey p.body)
    if moduleOfNumber c = x.module then x.rollbackAt p.who 0x15
    else (x.discardOf c key p.who).sendPacket c core key 0 0 0 0 0 (.done (.agent p.who) 0x39 [0x15])) s

/-- Whether a pending operation is held for a core's window or tasks. -/
def Pending.isAt (m : Nat) (u : CoreRef) (p : Pending) : Bool :=
  match p.body with
  | .req r => spaceOf r.pa = 4 && windowCore (offsetOf r.pa) = some u
  | .segment g => g.dst = coreNumber m u
  | .task t => t.ref % 2 ^ 24 = coreNumber m u
  | _ => false

/-- A context that the dispatch core has displaced from a fenced tile parked, by its image (R204, R375). -/
def State.fenceDisplaced (s : State) (j : Nat) (e : Nat × BankInfo × Nat) : State :=
  let c := imageCtx true (s.read (canon e.2.2) (imageBytes true)) (Ctx.resetOf (.bank j 0))
  let k := e.2.1.task
  let (n, s1) := s.freeNat
  let s2 := (s1.postFault (s1.fenceRecord (.dt j) 0 n k c)).setLaunch k.tag fun l => { l with killed := l.killed + 1, ended := l.ended + 1 }
  { s2 with disp := { s2.disp with displaced := s2.disp.displaced.erase e } }.push (.launchComplete k.tag)

/-- A lookup core's plane emptied by a fence: threads, saved contexts, waiting arrivals and task entries. -/
def State.fencePlane (s : State) (c : Nat) : State :=
  let s1 := (List.range 16).foldl (fun x t => x.fenceAgent (.thread c t)) s
  let s2 := (s1.lp c).saved.foldl (fun x v => x.fenceSaved c v) s1
  let back := (s2.lp c).arrivals ++ (s2.lc c).spill ++ (s2.lc c).stalled
  let s3 := s2.setLc c { s2.lc c with spill := [], stalled := [], plane := { s2.lp c with cache := [], area := [], arrivals := [] } }
  let s4 := back.foldl (fun x v => (if moduleOfNumber v.src = x.module then x.moreOutbound (coreIndex v.src) else x).returnTravel v ⟨0x13, 0x20, coreNumber x.module (.lc c)⟩) s3
  let s5 := (List.range 64).foldl (fun x i => x.fenceTask c i) s4
  s5.setLp c { s5.lp c with
    readyQ := []
    chans := []
    mappings := []
    watch := []
    pairs := [] }

end Sys2Proof.Machine
end

