-- ==== Sys2Proof/Machine/Deliver.lean ====
section
/-! DEFINITION. What a packet from another module does here, and how one that is refused, late or without a path is answered (R15, R173,
R389, R396, R406, R407). Gang messages have their own file. -/

namespace Sys2Proof.Machine

/-- An answer from another module reaches what waits for it (R25, R73, R148, R172, R274, R348, R361). `src` is the core that sent it. -/
def State.doneAt (s : State) (who : Who) (kind : Nat) (args : List Nat) : State :=
  match who, kind, args with
  | .agent _, 0x4E, [n] => s.spawnStarted n
  | .host, 0x4F, [pa, core, gen] => if core < 2 ^ 24 then s.push (.watchNotify (coreIndex core) pa) else s.dependenceNews pa gen
  | .host, 0x4E, [core] =>
    let c := coreIndex core
    s.setLp c { s.lp c with outbound := (s.lp c).outbound - 1 }
  | w, 0x38, [jent, tok, module, ok] => s.announceAnswer w jent tok module (ok = 1)
  | w, 0x27, [key, lo, hi, scope, module, id] =>
    s.ackRevocation (Revocation.mk key lo hi scope w id) fun v => { v with mods := v.mods.erase module }
  | .copy unit cmd, 0xA5, [detail, value, last] =>
    s.copyServed (coreNumber s.module (.lc 0)) 0 unit cmd (if detail = 0 then none else some (detail, value)) (last = 1)
  | .agent a, 0x39, [cause] => s.rollbackAt a cause
  | .agent a, 0x3B, [j] => s.noteHeld a j
  | .agent a, 0xDD, _ => s.wake a 0xDD
  | .agent a, top, res => s.commandAnswer a top res
  | _, _, _ => s

/-- An answer sent to the core that a packet came from. -/
def State.answerTo (s : State) (p : Packet) (who : Who) (kind : Nat) (args : List Nat) : State :=
  if moduleOfNumber p.src = s.module then s.doneAt who kind args
  else s.sendPacket p.src (coreNumber s.module (.lc 0)) p.key 0 0 0 0 0 (.done who kind args)

/-- A command of a thread of another module (R274, R348, R362). -/
def State.deliverCommand (s : State) (p : Packet) (a : Agent) (top : Nat) (args : List Nat) : State :=
  match top, args with
  | 0x39, [core] => s.discardOf core p.key a
  | 0x3C, [core, slot] => s.renameHeld core p.key a (.thread (coreIndex core) slot)
  | 0x4F, [pa, seen, core] => s.watchWord pa seen core p.key
  | 0xDD, [n, resume] =>
    let s1 := match coreOfNumber n with
      | some u => s.haltCore u (resume = 1)
      | none => s
    s1.answerTo p (.agent a) 0xDD []
  | _, _ =>
    let (res, s0) := s.serveCommand a p.src p.key top args
    -- the rows of a mapping that has ended let the waiting commands go on (R62)
    let s1 := if top = 0x36 then s0.serveWaiting else s0
    if res = [] then s1 else s1.answerTo p (.agent a) top res

/-- What a delivered packet does (R396, R398, R406). -/
def State.deliverPacket (s : State) (p : Packet) : State :=
  match p.body with
  | .req r => s.push (if spaceOf r.pa = 4 then .tileWindowAccess r else .homeRequest r)
  | .reply r => s.push (replyStep r)
  | .gather g => s.push (if moduleOfNumber g.core = s.module then .gatherResend { g with since := s.cycle } else .homeGather g)
  | .accum a => s.push (.homeAccumulate a)
  | .rowWrite w => s.push (.homeRowWriteback w)
  | .rowZero z => s.push (.homeZero z)
  | .travel t => s.push (if t.back.isSome then .contextReturn t else .travelContextArrival t)
  | .task t => s.push (.taskOperationArrival t)
  | .segment g => s.push (.lsendSegmentArrival g)
  | .delivery d => s.push (.subscriberDelivery d)
  | .revoke r => s.startRevocation r (.lc 0) (some (moduleOfNumber p.src))
  | .commit who => s.startCommit p.src p.key who
  | .ack who j x last => s.push (match x with
    | none => .journalAck who j
    | some r => .refusalArrival who j r last)
  | .done who kind args => s.doneAt who kind args
  | .command a top args => s.deliverCommand p a top args
  | .gangStart _ _ _ => s
  | .marker _ => s
  | .gkeyRemove _ => s

/-- A refusal for a row where a port refuses its key (R289, R291): tval is the row. -/
def atRow (x : Refused) (row : Nat) : Refused := if x.cause = 0x15 ∧ x.detail = 0 then { x with tval := row } else x

/-- A refusal of an LTAB command where a port refuses its key (R282): tval is the number of the module's first home. -/
def atTable (x : Refused) (d : BitVec 512) : Refused := atRow x (descOf d).pair0

/-- A packet refused to its sender (R15, R173, R389, R407): the cause reaches what waits, the journal entry, or the batch. A response is
dropped, and what awaits it here meets the cause instead. -/
def State.refusePacket (s : State) (p : Packet) (x : Refused) : State :=
  let ack (core key : Nat) (a : Agent) : Option Nat → State
    | some j => s.sendAck core key a j (some x) true
    | none => s
  match p.body with
  | .req r => s.refuseRequest r x
  | .gather g => s.answerOne (.refused (atRow x g.row)) g
  | .accum a => s.answerAccum a (some (atRow x a.row))
  | .rowWrite w => s.sendReply w.core w.key { who := .agent w.who, dest := .count w.d, data := natToBytes 1 0, refused := some (atRow x w.row) }
  | .rowZero z => s.sendReply z.core z.key { who := .agent z.who, dest := .area 0 z.d 0, refused := some (atRow x z.row) }
  | .task t => ack t.core t.key t.who t.jent
  | .segment g => ack g.core g.key g.who g.jent
  | .delivery d => s.answerTo p d.who 0x38 [d.jent.getD 0, d.token, s.module, 0]
  | .travel t =>
    let d := if x.cause = 0x17 then 0x28 else 0x21
    if t.back.isSome then s.push (.contextReturn { t with back := some ⟨0x13, d, t.dst⟩ }) else s.returnTravel t ⟨0x13, d, t.dst⟩
  | .commit who => s.answerTo p (.agent who) 0x39 [x.cause]
  | .command a top args =>
    (match top, args with
      | 0x38, [_, _, _, j, _] => s.sendAck p.src p.key a j (some x) true
      | 0xA5, [_, _, _, unit, cmd] => s.answerTo p (.copy unit cmd) 0xA5 [copyDetail x, 0, 1]
      | 0x39, _ => s
      | 0x3C, _ => s
      | 0x4F, _ => s
      | 0x40, [_, d] =>
        let y := atTable x (BitVec.ofNat 512 d)
        s.answerTo p (.agent a) 0x40 [6, y.cause, y.detail, y.tval]
      | _, _ => s.answerTo p (.agent a) top [1, x.cause, x.tval, x.detail])
  | .reply r => if moduleOfNumber p.dst = s.module then s.push (replyStep { r with data := [], refused := some (r.row.elim x (atRow x)) }) else s
  | .ack who j _ last => if moduleOfNumber p.dst = s.module then s.push (.refusalArrival who j x last) else s
  | .done who kind args =>
    if moduleOfNumber p.dst ≠ s.module then s
    else match who, kind, args with
      | _, 0x38, [jent, tok, module, _] => s.announceAnswer who jent tok module false
      | .copy _ _, 0xA5, [_, _, last] => s.doneAt who 0xA5 [copyDetail x, 0, last]
      | .agent _, 0x39, _ => s
      | .host, 0x4F, _ => s
      | .agent a, 0xDD, _ => s.failStep a 0xDD { cause := x.cause, tval := BitVec.ofNat 64 x.tval, tinfo := BitVec.ofNat 64 x.detail }
      | .agent a, 0x40, _ =>
        let y := ((s.homes.tableRuns.find? fun (r : TableRun) => r.who = a).map (·.desc)).elim x (atTable x)
        s.commandAnswer a 0x40 [6, y.cause, y.detail, y.tval]
      | .agent a, top, _ => if top = 0x4E then s else s.commandAnswer a top [1, x.cause, x.tval, x.detail]
      | _, _, _ => s
  | .revoke _ => s
  | .gangStart _ _ _ => s
  | .marker _ => s
  | .gkeyRemove _ => s

end Sys2Proof.Machine
end

