-- ==== Sys2Proof/Machine/Gang.lean ====
section
/-! DEFINITION. Gang switches, plane pages, and the admission and removal of partition keys (R347, R377 to R394). -/

namespace Sys2Proof.Machine

/-! ### Partition register sets and allow lists (R347, R380) -/

/-- A key admitted at every port of the module. -/
def State.admitHere (s : State) (k : Nat) : State :=
  let p := s.part k
  let s1 := s.setPart k { p with admitted := true, removed := false }
  { s1 with fabric := { s1.fabric with
    ports := (List.range 16).foldl (fun m i =>
      let q := getAt m i Port.reset
      setAt m i { q with allow := if q.allow.contains k then q.allow else q.allow ++ [k] }) s1.fabric.ports } }

/-- Whether a key has a set, or a set is free for it. -/
def State.setFor (s : State) (k : Nat) : Bool := (findAt s.parts k).isSome || decide (s.parts.length < maxSets)

/-- Whether the module holds anything of a key: its set, or an allow list that admits it. -/
def State.holdsSet (s : State) (k : Nat) : Bool :=
  (findAt s.parts k).isSome || s.fabric.ports.any fun e => e.2.allow.contains k

/-- A key removed: its traffic is refused from now on (R347, R380). -/
def State.removeHere1 (s : State) (k : Nat) : State :=
  let s1 := { s with fabric := { s.fabric with
    ports := s.fabric.ports.map fun (e : Nat × Port) => (e.1, { e.2 with allow := e.2.allow.filter (· ≠ k) }) } }
  -- gathers of the key that wait at this module's homes are refused (R296)
  let s2 := s1.refuseWaiting (fun w => w.2.key = k) fun r => ⟨0x15, 0, r.row⟩
  -- and the pending operations of its threads on other modules (R361, R375)
  let s3 := s2.refusePending (fun p => payloadKey p.body = k && moduleOfNumber (payloadCore p.body) ≠ s2.module) (coreNumber s2.module (.lc 0))
  if (findAt s3.parts k).isSome then s3.setPart k { s3.part k with admitted := false, removed := true } else s3

/-- Whether the module holds a plane, a launch or a paged image of a key (R380). -/
def State.keyInUse (s : State) (k : Nat) : Bool :=
  s.lcs.any (fun e => (e.2.plane.key = k && e.2.plane.tasks.any fun t => t.2.valid) || (match e.2.shadow with
    | some h => h.key = k
    | none => false)) ||
  s.dts.any (fun e => (e.2.plane.key = k && e.2.plane.banks ≠ []) || (match e.2.shadow with
    | some h => h.key = k
    | none => false)) ||
  s.disp.launches.any (fun l => recKey l.2.record = k) ||
  s.gang.images.any (fun i => i.key = k && i.paged)

/-- Sets of removed keys go once nothing of the key is left (R380). -/
def State.reapSets (s : State) : State :=
  { s with parts := s.parts.filter fun (e : Nat × PartSet) => !(e.2.removed && !s.keyInUse e.1) }

/-- GKEY's key, or its refusal of other bits. -/
def State.gkey (s : State) (a : BitVec 5) (w : Word) (f : Nat → State) : State :=
  if 65536 ≤ (s.x a).toNat then s.illegal w 0x09 else f (s.x a).toNat

def execGkeyAdd (d a : BitVec 5) (s : State) : Out :=
  .next (s.gkey a (wordOf (.gkeyAdd d a)) fun k =>
    if s.setFor k then ((s.admitHere k).setX 1 d 0#64).complete else (s.setX 1 d 1#64).complete)

/-- One module's answer to a key removal (R347). -/
def State.removalAnswer (s : State) (k m : Nat) (held : Bool) : State :=
  match s.gang.removals.find? (fun r => r.key = k && r.left.contains m) with
  | none => s
  | some r =>
    let q : Removal := { r with left := r.left.erase m, count := r.count + bit held }
    let rest := s.gang.removals.erase r
    if q.left = [] then
      ({ s with gang := { s.gang with removals := rest } }).answerWord r.who 0xD2 (BitVec.ofNat 64 q.count)
    else { s with gang := { s.gang with removals := rest ++ [q] } }

def execGkeyRm (d a : BitVec 5) (s : State) : Out :=
  .next (s.gkey a (wordOf (.gkeyRm d a)) fun k =>
    let me := s.focus
    let held := s.holdsSet k
    let s1 := ((s.removeHere1 k).setCur { s.cur with opnd := (d.setWidth 64, 0#3) }).awaitStep 0xD2
    let s2 := { s1 with gang := { s1.gang with
      removals := s1.gang.removals ++ [Removal.mk k me (s1.module :: s1.otherModules) 0] } }
    let s3 := s2.otherModules.foldl (fun x m =>
      x.sendPacket (coreNumber m (.lc 0)) (x.coreNo me) k 0xD2 0 0 0 0 (.gkeyRemove k)) s2
    s3.removalAnswer k s3.module held)

/-- The broadcast removal applied, and acknowledged to the core that sent it (R347). -/
def State.removalHere (s : State) (k src : Nat) : State :=
  (s.removeHere1 k).sendPacket src (coreNumber s.module (.lc 0)) k 0 0 0 0 0
    (.done .host 0xD2 [k, s.module, bit (s.holdsSet k)])

def execGkeyRemoveMessage (key src : Nat) (s : State) : Out := .next (s.removalHere key src)

def execPartitionPortAdmit (s : State) : Out :=
  let k := s.regs.psel.toNat
  .next (if s.setFor k then s.admitHere k else { s with regs := { s.regs with pEr := true } })

def execPartitionPortCreate (s : State) : Out :=
  let k := s.regs.psel.toNat
  .next (if (findAt s.parts k).isSome then s
    else if s.setFor k then s.setPart k PartSet.reset
    else { s with regs := { s.regs with pEr := true } })

/-! ### Runs -/

def State.runOf (s : State) (k : Nat) : Option GangRun := s.gang.runs.find? fun r => r.out = k

def State.mapRun (s : State) (k : Nat) (f : GangRun → GangRun) : State :=
  { s with gang := { s.gang with runs := s.gang.runs.map fun r => if r.out = k then f r else r } }

/-- gangstat's word (R382). -/
def gangWord (akey skey sv phase status scount ovf sl elapsed : Nat) : BitVec 64 :=
  BitVec.ofNat 64 (akey % 65536 * 2 ^ 48 + skey % 65536 * 2 ^ 32 + sv % 2 * 2 ^ 31 + phase % 16 * 2 ^ 27 + status % 8 * 2 ^ 24
    + scount % 16 * 2 ^ 20 + ovf % 2 * 2 ^ 19 + sl % 2 * 2 ^ 18 + min elapsed 0x3FFFF)

/-- The cores whose active plane holds a key's tasks (R377). -/
def State.coreSet (s : State) (k : Nat) : List CoreRef :=
  ((s.lcs.filter fun e => e.2.plane.key = k && e.2.plane.tasks.any fun t => t.2.valid).map fun e => CoreRef.lc e.1) ++
  ((s.dts.filter fun e => e.2.plane.key = k && e.2.plane.banks ≠ []).map fun e => CoreRef.dt e.1)

/-- The key in a core's shadow plane. -/
def State.shadowKey (s : State) (u : CoreRef) : Option Nat :=
  match u with
  | .lc c => (s.lc c).shadow.map fun h => h.key
  | .dt j => (s.dt j).shadow.map fun h => h.key

/-- Every core whose shadow plane holds a key. -/
def State.shadowsOf (s : State) (k : Nat) : List CoreRef :=
  ((s.lcs.map fun e => CoreRef.lc e.1) ++ s.dts.map fun e => CoreRef.dt e.1).filter fun u => s.shadowKey u = some k

/-- The incoming key, where condition 2 of R381 holds. -/
def State.incomingOf (s : State) (k : Nat) : Except Unit (Option Nat) :=
  let us := s.coreSet k
  match us with
  | [] => .ok none
  | u :: _ =>
    let n := s.shadowKey u
    if us.any fun v => s.shadowKey v ≠ n then .error ()
    else match n with
      | none => .ok none
      | some k1 => if (s.shadowsOf k1).any fun v => !us.contains v then .error () else .ok (some k1)

/-- gangstat as a run leaves it at this module. -/
def State.showRun (s : State) (r : GangRun) (phase : Nat) : State :=
  let us := s.coreSet r.out
  let inn := r.incoming.getD 0
  let swapped : Bool := (decide (3 ≤ phase) || phase = 0) && (r.status = 0 || r.status = 3)
  let akey := if swapped then inn else r.out
  let skey := if swapped then r.out else inn
  let sv : Bool := if swapped then (s.shadowsOf r.out) ≠ [] else us.any fun u => (s.shadowKey u).isSome
  { s with regs := { s.regs with
    gangstat := gangWord akey skey (bit sv) phase r.status (s.part akey).scount.toNat (bit r.overflow) (bit r.took)
      (if phase = 0 && swapped then (s.timeNs - r.start) / 10 else 0) } }

/-- A run in another phase. -/
def State.setPhase (s : State) (k n : Nat) : State :=
  let s1 := s.mapRun k fun r => { r with phase := n }
  match s1.runOf k with
  | some r => s1.showRun r n
  | none => s1

/-- The end of a switch at the module that started it (R347, R391). -/
def State.completeRun (s : State) (r : GangRun) : State :=
  let s0 := { s with gang := { s.gang with runs := s.gang.runs.filter fun x => x.out ≠ r.out } }
  let s1 := s0.showRun r 0
  let s2 := { s1 with regs := { s1.regs with gcap := if r.status = 0 ∨ r.status = 3 then BitVec.ofNat 64 r.most else s1.regs.gcap } }
  let s3 := match r.waiter with
    | some a => s2.answerWord a 0xD1 s2.regs.gangstat
    | none => s2
  if r.host then
    ({ s3 with regs := { s3.regs with gDn := true, gEr := s3.regs.gEr || r.status ≠ 0 } }).raiseVector 258
  else s3

/-- The message of a switch or page to every other module of the gang: 0 ask, 1 go, 2 call off, 3 page out, 4 page in; a go also names the
incoming key. -/
def State.tellGang (s : State) (k code : Nat) (slow : Bool) : State :=
  s.otherModules.foldl (fun x m => x.sendPacket (coreNumber m (.lc 0)) (coreNumber x.module (.lc 0)) k 0 0 0 0 0 (.gangStart k code slow)) s

/-! ### Capture (R385) -/

/-- The bytes that a packet takes in a selvage area. -/
def packetBytes (p : Packet) : Nat := 64 * (1 + p.nd)

/-- A packet captured, or held in its link where both areas are full. -/
def State.capture (s : State) (port : Nat) (p : Packet) : State :=
  let used := ((s.gang.captured.filter fun q => q.key = p.key).map packetBytes).sum
  let room := 0x4000000 + (if (s.part p.key).selovf = 0#64 then 0 else 0x40000000)
  if room < used + packetBytes p then { s with gang := { s.gang with inLink := s.gang.inLink ++ [(port, p)] } }
  else
    let s1 := { s with gang := { s.gang with captured := s.gang.captured ++ [p] } }
    s1.mapRun p.key fun r => { r with
      bytes := r.bytes + packetBytes p
      overflow := r.overflow || decide (0x4000000 < used + packetBytes p) }

/-! ### The plane swap (R387) -/

/-- Whether an address lies in a core's tile memory. -/
def inTile (lo n : Nat) (a : Nat) : Bool := decide (lo ≤ a) && decide (a < lo + n)

/-- The resident contexts of an incoming plane meet the revocations of the time they were out (R27, R361). -/
def State.revivePlane (s : State) (u : CoreRef) (seq : Nat) : State :=
  let newer := (s.revLog.filter fun e => decide (seq < e.1)).map (·.2)
  let stop (q : List CopyCmd) : List CopyCmd := newer.foldl (fun l r => l.map (stopCmd r)) q
  let s1 := match u with
    | .lc c => s.setLp c { s.lp c with copyQ := stop (s.lp c).copyQ }
    | .dt j => s.setDp j { s.dp j with copyQ := stop (s.dp j).copyQ }
  (residents u).foldl (fun x a =>
    match findAt x.ctxs (agentId a) with
    | none => x
    | some c =>
      let c1 := x.reviveHandles u c seq
      let lost := c.wayOpen && c.journal.any fun e => e.2.held && x.handleLost u e.2.hval seq
      let y := x.setCtx a c1
      if lost then y.rollback a 0x04 else y) s1

/-- Cycles that do not count for a waypoint's pending operations, or for a command's waits (R388). -/
def Ctx.unclock (c : Ctx) (n : Nat) : Ctx := { c with journal := c.journal.map fun e => (e.1, { e.2 with since := e.2.since + n }) }
def CopyCmd.unclock (n : Nat) (c : CopyCmd) : CopyCmd := { c with since := c.since + n, retryAt := c.retryAt.map (· + n) }

/-- A gather of a core that waits to be sent again counts no time while its key is out (R79). -/
def resendLater (core n : Nat) (i : Instr) : Instr :=
  match i with
  | .gatherResend g => if g.core = core then .gatherResend { g with since := g.since + n } else i
  | _ => i

/-- A core's contexts, commands and returned gathers after `n` cycles that do not count. -/
def State.unclock (s0 : State) (u : CoreRef) (n : Nat) : State :=
  let unit := engineNo u
  let s := { s0 with agenda := s0.agenda.map (resendLater (coreNumber s0.module u) n) }
  let s1 := s.setCopies unit ((s.copies unit).map (CopyCmd.unclock n))
  (residents u).foldl (fun x a => if (x.ctx a).journal = [] then x else x.setCtx a ((x.ctx a).unclock n)) s1

/-- The part of the state that goes with a core's plane: contexts, tile memory and its poison. -/
def State.takeTile (s : State) (u : CoreRef) : SMap Ctx × Mem × List Nat × State :=
  let (lo, n) : Nat × Nat := (windowAddr s.module u 0, if isTile u then 0x300000 else 0x50000)
  let mine (i : Nat) : Bool := match u with
    | .lc c => decide (i < 8192) && i / 16 = c
    | .dt j => decide (8192 ≤ i) && (i - 8192) / 2 = j
  let pin (g : Nat) : Bool := inTile lo n (g * 64)
  (s.ctxs.filter fun e => mine e.1, s.mem.filter fun e => inTile lo n e.1, s.poison.filter pin,
    { s with
      ctxs := s.ctxs.filter fun e => !mine e.1
      mem := s.mem.filter fun e => !inTile lo n e.1
      poison := s.poison.filter fun g => !pin g })

def State.putTile (s : State) (ctxs : SMap Ctx) (mem : Mem) (poison : List Nat) : State :=
  { s with
    ctxs := ctxs.foldl (fun m e => setAt m e.1 e.2) s.ctxs
    mem := mem.foldl (fun m e => memSet m e.1 e.2) s.mem
    poison := s.poison ++ poison }

/-- The active and shadow planes of a core exchanged. -/
def State.swapPlane (s : State) (k : Nat) (u : CoreRef) : State :=
  let (cs, ms, ps, s1) := s.takeTile u
  match u with
  | .lc c =>
    let l := s1.lc c
    let old : LShadow := { key := k, plane := l.plane, ctxs := cs, mem := ms, poison := ps, seq := s.revSeq, out := s.cycle }
    (match l.shadow with
      | none => s1.setLc c { l with plane := LPlane.reset, shadow := some old }
      | some h => (((s1.setLc c { l with plane := h.plane, shadow := some old }).putTile h.ctxs h.mem h.poison).acquireL1 c).revivePlane u h.seq |>.unclock u (s.cycle - h.out))
  | .dt j =>
    let t := s1.dt j
    let old : DShadow := { key := k, plane := t.plane, ctxs := cs, mem := ms, poison := ps, seq := s.revSeq, out := s.cycle }
    (match t.shadow with
      | none => s1.setDt j { t with plane := DPlane.reset, shadow := some old }
      | some h => ((s1.setDt j { t with plane := h.plane, shadow := some old }).putTile h.ctxs h.mem h.poison).revivePlane u h.seq |>.unclock u (s.cycle - h.out))

/-- Captured packets of a key delivered in capture order (R387). -/
def State.reinject (s : State) (k : Nat) : State :=
  let ps := s.gang.captured.filter fun p => p.key = k
  ps.foldl (fun x p => x.deliverPacket p) { s with gang := { s.gang with captured := s.gang.captured.filter fun p => p.key ≠ k } }

/-- A key that is back goes on: its cores issue, its engines and queues go on, and its sleepers look again (R387). -/
def State.resumeKey (s : State) (k : Nat) : State :=
  let s1 := { s with gang := { s.gang with suspended := s.gang.suspended.erase k } }
  let s2 := (s1.coreSet k).foldl (fun x u =>
    match u with
    | .lc c =>
      let p := x.lp c
      let met := p.watch.filter fun w => p.saved.any fun v => v.code = w.2.1 && v.asleep && x.conditionMet v.ctx
      (x.pushAll (met.map fun w => .watchNotify c w.2.2)).pushAll
        ([.slotGrant c] ++ (if (x.lc c).spill = [] then [] else [.spillReturn c]) ++ (if p.copyQ = [] then [] else [.copyBeat c]))
    | .dt j =>
      let p := x.dp j
      let y := if (x.dt j).halted then x else x.restartMsq j
      y.pushAll ((if p.traps = [] then [] else [.trapDrain j]) ++ [.denseBankSwitch j] ++ (if p.copyQ = [] then [] else [.copyBeat (512 + j)]))) s1
  let s3 := s2.pushAll ((s2.edges.filter fun e => e.2.any fun c => c.key = k).map fun e => .copyBeat e.1)
  let held := s3.gang.inLink.filter fun e => e.2.key = k
  let s4 := { s3 with gang := { s3.gang with inLink := s3.gang.inLink.filter fun e => e.2.key ≠ k } }
  (held.foldl (fun x e => (x.freeFlits e.1 e.2).deliverPacket e.2) s4).retryBinds

/-! ### The stop (R383) -/

/-- Whether a step that is due belongs to a key: the stop awaits it (R383). -/
def State.belongs (s : State) (k : Nat) (i : Instr) : Bool :=
  let own (a : Agent) : Bool := s.coreKey a = k
  let lc (c : Nat) : Bool := (s.lp c).key = k
  match i with
  | .homeRequest r => r.key = k
  | .tileWindowAccess r => r.key = k
  | .forwardedOperation _ _ r => r.key = k
  | .replyWritten r => (match r.who with
    | .agent a => own a
    | _ => false)
  | .lateReplyArrival r => (match r.who with
    | .agent a => own a
    | _ => false)
  | .homeGather g => g.key = k
  | .homeAccumulate a => a.key = k
  | .homeRowWriteback w => w.key = k
  | .homeZero z => z.key = k
  | .subscriberDelivery d => d.key = k
  | .journalAck a _ => own a
  | .refusalArrival a _ _ _ => own a
  | .waypointCommitApply a => own a
  | .translationWalkComplete a _ _ _ => own a
  | .taskOperationArrival t => t.key = k
  | .lsendSegmentArrival g => g.key = k
  | .travelContextArrival t => t.key = k
  | .storeBufferDrain c => lc c
  | .contextSwapComplete c _ => lc c
  | .contextAreaReadback c _ _ => lc c
  | .pflFillArrival c _ _ _ => lc c
  | .rdoneEndMarker c _ _ => lc c
  | .revocationApply _ r => r.key = k
  | .copyCommandComplete u c => (s.copies u).any fun x => x.id = c && x.key = k
  | _ => false

/-- Every engine that holds commands. -/
def State.engines (s : State) : List Nat := s.lcs.map (·.1) ++ s.dts.map (fun e => 512 + e.1) ++ s.edges.map (·.1)

/-- Whether anything of a key is still on its way inside the module, or an engine is in the middle of a beat (R383). -/
def State.stopping (s : State) (k : Nat) : Bool :=
  s.agenda.any (s.belongs k) ||
  s.engines.any (fun u => (s.copies u).any fun c => c.key = k && c.mid && !c.busy) ||
  s.homes.heldWrites.any (fun w => w.2.key = k) ||
  s.disp.issued.any (fun i => match i.who with
    | some a => s.coreKey a = k
    | none => false) ||
  s.revs.any (fun v => v.rev.key = k && v.mods = [] && v.origin = none)

/-- The release of a stopped core, or its drain; waiting gathers go back to their cores (R79, R112, R383). -/
def State.stopCore (s : State) (u : CoreRef) : State :=
  match u with
  | .lc c =>
    let s1 := s.drainN c (s.lp c).sbuf.length
    (List.range 16).foldl (fun x t => if (x.slot c t).isSome then x.writeBackAll c t true else x) s1
  | .dt j =>
    let (m, s1) := s.drainTile j
    s1.keepMsq j m

/-- A module stops a key (R383). -/
def State.stopKey (s : State) (k : Nat) : State :=
  let s0 := { s with gang := { s.gang with suspended := if s.gang.suspended.contains k then s.gang.suspended else s.gang.suspended ++ [k] } }
  let s1 := s0.setPhase k 1
  let s2 := (s1.coreSet k).foldl (fun x u => x.stopCore u) s1
  let back := s2.homes.waiting.filter fun w => w.2.key = k
  let s3 := back.foldl (fun y w =>
    ({ y with homes := { y.homes with waiting := y.homes.waiting.erase w } }).answerGather w.2 .returned) s2
  (s3.pushAll ((s3.engines.filter fun u => (s3.copies u).any fun c => c.key = k && c.mid).map .copyBeat)).push (.gangStopComplete k)

/-! ### The module that started a switch (R381) -/

/-- One module's report of a run started here. -/
def State.gangReport (s : State) (k stage m status : Nat) (inc : Option Nat) (took : Bool) (bytes : Nat) : State :=
  match s.runOf k with
  | none => s
  | some r0 =>
    let r : GangRun := { r0 with
      left := r0.left.erase m
      status := if r0.status = 0 then status else r0.status
      took := r0.took || took
      incoming := if r0.incoming = none ∧ s.coreSet k = [] then inc else r0.incoming
      most := max r0.most bytes }
    let s1 := s.mapRun k fun _ => r
    if r.left ≠ [] then s1
    else if stage = 1 then s1.completeRun r
    else if r.status ≠ 0 then (s1.tellGang k 2 r.slow).completeRun r
    else
      let s2 := (s1.mapRun k fun x => { x with left := s1.module :: s1.otherModules }).tellGang k (1 + 8 * (match r.incoming with
        | some n => n + 1
        | none => 0)) r.slow
      s2.stopKey k

/-- What a module reports to the one that started the run: stage 0 its conditions, 1 its end. -/
def State.reportRun (s : State) (r : GangRun) (stage status : Nat) : State :=
  if r.origin = s.module then s.gangReport r.out stage s.module status r.incoming r.took r.bytes
  else s.sendPacket (coreNumber r.origin (.lc 0)) (coreNumber s.module (.lc 0)) r.out 0 0 0 0 0
    (.done .host 0xD1 [r.out, stage, s.module, status, (match r.incoming with
      | some n => n + 1
      | none => 0), bit r.took, r.bytes])

/-! ### The end of a run, and the sweep (R384, R387) -/

/-- The module's part in a run is over. -/
def State.finishRun (s : State) (k : Nat) : State :=
  match s.runOf k with
  | none => s
  | some r =>
    let s1 := s.showRun r 0
    let s2 := if r.origin = s1.module then s1.mapRun k fun x => { x with phase := 7 }
      else { s1 with gang := { s1.gang with runs := s1.gang.runs.filter fun x => x.out ≠ k } }
    -- a key with no plane here is not switched out here
    let s3 := if (s2.shadowsOf k) = [] ∧ (s2.coreSet k) = [] ∧ (s2.gang.images.all fun i => !(i.key = k && i.paged)) = true
      then (s2.reinject k).resumeKey k else s2
    s3.reportRun r 1 r.status

/-- A sweep marker put behind a port's packets of one channel. -/
def State.markPort (s : State) (k vc n : Nat) : State :=
  let q := getAt s.fabric.ports n Port.reset
  if q.state = .up ∧ q.dis = false ∧ q.susp.getLsbD vc = false then
    let p : Packet := {
      dst := 0
      src := coreNumber s.module (.lc 0)
      key := k
      scnt := (s.part k).scount.toNat
      vc := vc
      nd := 0
      kind := 0
      tag := 0
      jent := 0
      seq := 0
      addr := 0
      body := .marker k }
    { s with fabric := { s.fabric with ports := setAt s.fabric.ports n (pumpPort { q with queue := q.queue ++ [p] }) } }
  else s

/-- Whether an input counts in a sweep (R384, R386). -/
def State.counts (s : State) (r : GangRun) (n vc : Nat) : Bool :=
  let q := getAt s.fabric.ports n Port.reset
  q.allow.contains r.out && (q.state = .up || (r.ports.contains n && q.state ≠ .disabled)) && !r.gone.contains n && !q.susp.getLsbD vc

/-- Whether every counted input of a channel has sent its marker. -/
def State.sweptOn (s : State) (r : GangRun) (vc : Nat) : Bool :=
  (List.range 16).all fun n => !s.counts r n vc || r.markers.contains (n, vc)

/-- Markers go on, once for each channel, when every counted input has sent its own (R384). -/
def State.forwardMarkers (s : State) (k : Nat) : State :=
  (List.range 6).foldl (fun x vc =>
    match x.runOf k with
    | none => x
    | some r =>
      if r.phase = 2 && r.ports ≠ [] && x.sweptOn r vc && !r.markers.contains (16, vc) then
        (List.range 16).foldl (fun y n => y.markPort k vc n) (x.mapRun k fun q => { q with markers := q.markers ++ [(16, vc)] })
      else x) s

/-- The sweep has ended: the plane swap and the switch-in (R387). -/
def State.swapIn (s : State) (k : Nat) : State :=
  match s.runOf k with
  | none => s
  | some r =>
    let us := s.coreSet k
    let s1 := us.foldl (fun x u => x.swapPlane k u) (s.setPhase k 3)
    match r.incoming with
    | none => s1.retryBinds.finishRun k
    | some n =>
      let p := s1.part n
      let s2 := if (findAt s1.parts n).isSome then s1.setPart n { p with scount := p.scount + 1#4 } else s1
      ((s2.setPhase k 4).reinject n).push (.reinjectionComplete n)

def State.sweepStep (s : State) (k : Nat) : State :=
  let s1 := s.forwardMarkers k
  match s1.runOf k with
  | none => s1
  | some r => if r.phase = 2 && (List.range 6).all fun vc => s1.sweptOn r vc then s1.swapIn k else s1

/-! ### Starting a run (R381) -/

/-- A run begun: at the module that starts it, or at another that is asked. -/
def State.beginRun (s : State) (k : Nat) (slow : Bool) (origin : Nat) (waiter : Option Agent) (host : Bool) : State :=
  let r : GangRun := {
    out := k
    incoming := none
    phase := 0
    origin := origin
    waiter := waiter
    host := host
    left := if origin = s.module then s.module :: s.otherModules else []
    status := 0
    slow := slow
    took := false
    markers := []
    ports := []
    gone := []
    bytes := 0
    most := 0
    overflow := false
    start := s.timeNs }
  ({ s with gang := { s.gang with runs := s.gang.runs ++ [r] } }).push (.gangStartMessage k slow)

/-- Whether a switch or plane page of a key is under way at the module, besides the run of `k` itself. -/
def State.underWay (s : State) (k key : Nat) : Bool :=
  s.gang.runs.any fun r => r.out ≠ k && (r.out = key || r.incoming = some key)

def State.pageOf1 (s : State) (key : Nat) : Bool :=
  match s.gang.paging with
  | some p => p.key = key
  | none => false

/-- A module checks the conditions of R381 in their order; it reports, and changes nothing. -/
def execGangStartMessage (k : Nat) (slow : Bool) (s : State) : Out :=
  let inc := s.incomingOf k
  let k1 : Option Nat := match inc with
    | .ok n => n
    | .error _ => none
  let busy : Bool := s.underWay k k || (match k1 with
    | some n => s.underWay k n || (s.runOf n).isSome
    | none => false)
  let paged : Bool := s.pageOf1 k || (match k1 with
    | some n => s.pageOf1 n
    | none => false)
  let noArea : Bool := ((findAt s.parts k).isSome && (s.part k).selbase = 0#64) || (match k1 with
    | some n => (s.part n).selbase = 0#64
    | none => false)
  let bad : Bool := match inc with
    | .error _ => true
    | .ok _ => false
  .next (match s.runOf k with
    | none => s
    | some r =>
      if r.phase ≠ 0 then s
      else if !busy && paged && slow then (s.mapRun k fun x => { x with took := true }).push (.gangStartMessage k slow)
      else
        let st := if busy || paged then 4 else if bad then 1 else if !slow && s.gang.paging.isSome then 2 else if noArea then 5 else 0
        let r1 : GangRun := { r with incoming := k1 }
        (s.mapRun k fun _ => r1).reportRun r1 0 st)

/-- A module's stop ends once all of the key inside it has been delivered (R383); it sends its markers (R384). -/
def execGangStopComplete (k : Nat) (s : State) : Out :=
  .next (if s.stopping k then s.push (.gangStopComplete k)
    else
      let up := (s.fabric.ports.filter fun e => e.2.state = .up || e.2.state = .training).map (·.1)
      let s1 := (s.mapRun k fun r => { r with start := s.timeNs, ports := up }).setPhase k 2
      let s2 := (List.range 6).foldl (fun x vc => (List.range 16).foldl (fun y n => y.markPort k vc n) x) s1
      s2.sweepStep k)

/-- A marker arrives at this module (R384); one of a key that no sweep is under way for is logged only (R389). -/
def execSweepMarker (k port vc : Nat) (s : State) : Out :=
  .next (match s.runOf k with
    | none => s
    | some r =>
      if r.markers.contains (port, vc) then s
      else (s.mapRun k fun x => { x with markers := x.markers ++ [(port, vc)] }).sweepStep k)

/-- A link that has been down for 2^16 memory cycles leaves the count (R386); a module that no path reaches is waited for no longer. -/
def State.linkTimedOut (s : State) (k port : Nat) : State :=
  let q := getAt s.fabric.ports port Port.reset
  match s.runOf k with
    | none => s
    | some r =>
      if q.state = .up ∨ r.gone.contains port = true then s
      else
        let s1 := s.mapRun k fun x => { x with gone := x.gone ++ [port], status := if x.status = 0 then 3 else x.status }
        let s2 := s1.sweepStep k
        if r.origin = s2.module ∧ s2.usablePorts 0 k = [] then
          (match s2.runOf k with
            | some x => (x.left.filter (· ≠ s2.module)).foldl (fun y m => y.gangReport k (if x.phase = 0 then 0 else 1) m (if x.phase = 0 then 0 else 3) none false 0) s2
            | none => s2)
        else s2

def execSweepLinkTimeout (k port : Nat) (s : State) : Out := .next (s.linkTimedOut k port)

/-- The last packet re-injected is delivered, and what it asked for is performed: the incoming key's cores go on (R114, R387). Packets captured meanwhile
follow first. -/
def execReinjectionComplete (k : Nat) (s : State) : Out :=
  let old (e : Nat × Packet) : Bool := e.2.key = k && e.2.scnt ≠ (s.part k).scount.toNat
  .next (if s.gang.captured.any (fun p => p.key = k) || s.gang.inLink.any old then
      let more := (s.gang.inLink.filter old).map (·.2)
      let s0 := (s.gang.inLink.filter old).foldl (fun x e => x.freeFlits e.1 e.2) s
      let s1 := { s0 with gang := { s0.gang with
        captured := s0.gang.captured ++ more
        inLink := s0.gang.inLink.filter fun e => !old e } }
      (s1.reinject k).push (.reinjectionComplete k)
    else if s.agenda.any (s.belongs k) || s.homes.heldWrites.any (fun w => w.2.key = k) then s.push (.reinjectionComplete k)
    else
      let s1 := s.resumeKey k
      match s1.gang.runs.find? (fun r => r.incoming = some k) with
      | some r => s1.finishRun r.out
      | none => s1)

/-! ### Starting a switch (R347, R381, R391) -/

def execGang (d a : BitVec 5) (s : State) : Out :=
  let v := (s.x a).toNat
  let k := v % 65536
  let slow : Bool := bitsOf v 16 16 = 1
  .next (if 2 ^ 17 ≤ v then s.illegal (wordOf (.gang d a)) 0x09
    else if k = s.curKey then s.trap 0x15 0#64 0
    else if (s.runOf k).isSome || s.underWay k k then
      (s.setX 1 d (gangWord k 0 0 0 4 (s.part k).scount.toNat 0 0 0)).complete
    else
      let me := s.focus
      let s1 := (s.setCur { s.cur with opnd := (d.setWidth 64, 0#3) }).awaitStep 0xD1
      (s1.beginRun k slow s1.module (some me) false).tellGang k 0 slow)

/-- Whether a command of the gang port is under way, or a switch: a second command is ignored with ER (R391). -/
def State.gangBusy (s : State) : Bool := s.gang.runs ≠ [] || s.gang.paging.isSome

def State.gangEr (s : State) : State := { s with regs := { s.regs with gEr := true } }

def execGangPortSwitch (key : Nat) (slow : Bool) (s : State) : Out :=
  .next (if s.gangBusy then s.gangEr else (s.beginRun key slow s.module none true).tellGang key 0 slow)

/-! ### Plane pages (R392, R393) -/

/-- The 64 bytes of a partition register set in the partition port's order (R393). -/
def PartSet.bytes (p : PartSet) : List Byte := (List.range 8).flatMap fun i => natToBytes 8 (p.reg i).toNat

/-- A bitmap of `n` bytes with the bits of a list set. -/
def bitmap (n : Nat) (is : List Nat) : List Byte := natToBytes n ((is.map fun i => 2 ^ i).sum)

/-- An image's slots, as offset and size, in index order. -/
def imageSlots (ls ds : List Nat) : List (Nat × Nat) :=
  ls.map (fun i => (0x100000 + i * 0x80000, 0x80000)) ++ ds.map fun j => (0x11000000 + j * 0x600000, 0x600000)

/-- A slot's bytes: their format is the part's own (DESIGN CHOICE, log 26). -/
def slotBytes (n size : Nat) : List Byte := (List.range size).map fun i => Config.freeByte (n + i)

/-- A key's shadow planes moved to an image at gimg. -/
def State.writePlanes (s : State) (k : Nat) : State :=
  let ls := s.lcs.filterMap fun e => match e.2.shadow with
    | some h => if h.key = k then some (e.1, h) else none
    | none => none
  let ds := s.dts.filterMap fun e => match e.2.shadow with
    | some h => if h.key = k then some (e.1, h) else none
    | none => none
  let base := s.regs.gimg.toNat
  let head := natToBytes 8 (2 ^ 63 + (s.part k).scount.toNat * 65536 + k) ++ bitmap 64 (ls.map (·.1)) ++ bitmap 8 (ds.map (·.1)) ++
    (s.part k).bytes ++ natToBytes 16 s.revSeq
  let slots := imageSlots (ls.map (·.1)) (ds.map (·.1))
  let body := slots.map fun p => (p.1, slotBytes (s.free * 2 ^ 32 + p.1) p.2)
  let digest := Config.sm3 (head ++ body.flatMap (·.2))
  let s1 := (s.write (canon base) (head ++ natToBytes 32 digest.toNat ++ List.replicate (0x100000 - 0xC0) 0#8))
  let s2 := body.foldl (fun x p => x.write (canon base + p.1) p.2) s1
  let cells := memWrite (body.foldl (fun m p => memWrite m p.1 p.2) []) 0 (head ++ natToBytes 32 digest.toNat)
  let image : Image := {
    key := k
    paged := true
    lookup := ls
    dense := ds
    set := s.part k
    seq := s.revSeq
    cells := cells }
  { s2 with
    free := s.free + 1
    lcs := s2.lcs.map fun (e : Nat × LCore) => if s.shadowKey (.lc e.1) = some k then (e.1, { e.2 with shadow := none }) else e
    dts := s2.dts.map fun (e : Nat × DTile) => if s.shadowKey (.dt e.1) = some k then (e.1, { e.2 with shadow := none }) else e
    gang := { s2.gang with images := s2.gang.images ++ [image] } }

/-- Whether memory at gimg still holds an image's bytes. -/
def State.imageAt (s : State) (i : Image) : Bool :=
  let base := canon s.regs.gimg.toNat
  ((0, 0xC0) :: imageSlots (i.lookup.map (·.1)) (i.dense.map (·.1))).all fun p =>
    s.read (base + p.1) p.2 = memRead i.cells p.1 p.2

/-- A key's image loaded into empty shadow planes; the status of R382. -/
def State.readPlanes (s : State) (k : Nat) : Nat × State :=
  match s.gang.images.find? (fun i => i.key = k && s.imageAt i) with
  | none => (6, s)
  | some i =>
    if i.lookup.any (fun e => (s.lc e.1).shadow.isSome) || i.dense.any (fun e => (s.dt e.1).shadow.isSome) then (1, s)
    else
      let s1 := i.lookup.foldl (fun x e => x.setLc e.1 { x.lc e.1 with shadow := some e.2 }) s
      let s2 := i.dense.foldl (fun x e => x.setDt e.1 { x.dt e.1 with shadow := some e.2 }) s1
      (0, { s2.setPart k { i.set with scount := (s.part k).scount, admitted := (s.part k).admitted, removed := (s.part k).removed } with
        gang := { s2.gang with
          images := s2.gang.images.map fun (x : Image) => if x = i then { x with paged := false } else x
          suspended := if s2.gang.suspended.contains k then s2.gang.suspended else s2.gang.suspended ++ [k] } })

/-- gangstat in and after a page: the shadow key and whether the shadow planes hold a partition. -/
def State.showPage (s : State) (p : PageRun) (phase : Nat) : State :=
  let g := s.regs.gangstat.toNat
  { s with regs := { s.regs with
    gangstat := gangWord (bitsOf g 63 48) p.key (bit ((s.shadowsOf p.key) ≠ [])) phase p.status (bitsOf g 23 20) 0 0 0 } }

/-- A page begun at the module that starts it, or at another. -/
def State.beginPage (s : State) (key op : Nat) (origin : Option Nat) : State :=
  let p : PageRun := {
    key := key
    op := op
    left := if origin.isNone then s.module :: s.otherModules else [s.module]
    status := if s.gang.runs.any fun r => r.out = key || r.incoming = some key then 4 else 0
    moved := false
    origin := origin }
  let s1 := { s with gang := { s.gang with paging := some p } }
  ((if origin.isNone then s1.tellGang key (2 + op) false else s1).showPage p (4 + op)).push .planePageComplete

def execGangPortPageOut (key : Nat) (s : State) : Out :=
  .next (if s.gangBusy then s.gangEr else s.beginPage key 1 none)

def execGangPortPageIn (key : Nat) (s : State) : Out :=
  .next (if s.gangBusy then s.gangEr else s.beginPage key 2 none)

/-- One module's part of a page is done; the last ends the command (R391, R392). -/
def State.pageReport (s : State) (m status : Nat) : State :=
  match s.gang.paging with
  | none => s
  | some p0 =>
    let p : PageRun := { p0 with left := p0.left.erase m, status := if p0.status = 0 then status else p0.status }
    if p.left ≠ [] then { s with gang := { s.gang with paging := some p } }
    else
      let s1 := ({ s with gang := { s.gang with paging := none } }).showPage p 0
      match p.origin with
      | some o => s1.sendPacket (coreNumber o (.lc 0)) (coreNumber s1.module (.lc 0)) p.key 0 0 0 0 0 (.done .host 0xD1 [p.key, 2, s1.module, p.status])
      | none => ({ s1 with regs := { s1.regs with gDn := true, gEr := s1.regs.gEr || p.status ≠ 0 } }).raiseVector 258

/-- A page of this module is done (R392). -/
def execPlanePageComplete (s : State) : Out :=
  .next (match s.gang.paging with
    | none => s
    | some p =>
      if p.moved then s
      else
        let (st, s1) : Nat × State := if p.status ≠ 0 then (p.status, s) else if p.op = 1 then (0, s.writePlanes p.key) else s.readPlanes p.key
        ({ s1 with gang := { s1.gang with paging := some { p with moved := true } } }).pageReport s1.module st)

/-! ### Messages of a gang from other modules -/

/-- A gang message arrives (R381, R392): asked, it checks; told to go, it stops the key; called off, it forgets; told to page, it does. -/
def State.gangMessage (s : State) (origin k code : Nat) (slow : Bool) : State :=
  match code % 8 with
  | 0 =>
    if (s.runOf k).isSome then
      s.sendPacket (coreNumber origin (.lc 0)) (coreNumber s.module (.lc 0)) k 0 0 0 0 0 (.done .host 0xD1 [k, 0, s.module, 4, 0, 0, 0])
    else s.beginRun k slow origin none false
  | 1 =>
    let inc := if code / 8 = 0 then none else some (code / 8 - 1)
    (s.mapRun k fun r => { r with incoming := if s.coreSet k = [] then inc else r.incoming }).stopKey k
  | 2 =>
    (match s.runOf k with
      | some r => if r.phase = 0 ∧ r.origin = origin then { s with gang := { s.gang with runs := s.gang.runs.filter fun x => x.out ≠ k } } else s
      | none => s)
  | n =>
    if s.gang.paging.isSome then
      s.sendPacket (coreNumber origin (.lc 0)) (coreNumber s.module (.lc 0)) k 0 0 0 0 0 (.done .host 0xD1 [k, 2, s.module, 4])
    else s.beginPage k (n - 2) (some origin)

/-- An answer of another module to a gang message or a key removal. -/
def State.gangAnswer (s : State) (who : Who) (kind : Nat) (args : List Nat) : State :=
  match who, kind, args with
  | .host, 0xD1, [_, 2, m, status] => s.pageReport m status
  | .host, 0xD1, [k, stage, m, status, inc, took, bytes] =>
    s.gangReport k stage m status (if inc = 0 then none else some (inc - 1)) (took = 1) bytes
  | .host, 0xD2, [k, m, held] => s.removalAnswer k m (held = 1)
  | w, n, l => s.doneAt w n l

/-! ### Fencing a core (R375) -/

/-- The key of a core's active plane. -/
def State.planeKey (s : State) (u : CoreRef) : Nat :=
  match u with
  | .lc c => (s.lp c).key
  | .dt j => (s.dp j).key

/-- What is done to a core's active plane, and to its shadow plane where it holds one. -/
def State.onPlanes (s : State) (u : CoreRef) (f : State → State) : State :=
  let shadow : Option Nat := match u with
    | .lc c => (s.lc c).shadow.map (·.key)
    | .dt j => (s.dt j).shadow.map (·.key)
  match shadow with
  | none => f s
  | some k => (f ((f s).swapPlane (s.planeKey u) u)).swapPlane k u

/-- F written (R375): 1 fences the core, 0 lets it run again. -/
def State.fence (s : State) (u : CoreRef) (f : Bool) : State :=
  let was : Bool := match u with
    | .lc i => (s.lc i).fenced
    | .dt j => (s.dt j).fenced
  let s1 := match u with
    | .lc i => s.setLc i { s.lc i with fenced := f }
    | .dt j => s.setDt j { s.dt j with fenced := f }
  if f = false ∨ was = true then s1
  else
    let s2 := s1.refusePending (Pending.isAt s1.module u) (coreNumber s1.module u)
    match u with
    -- the ranges that it maps lose their mapper (R70)
    | .lc c => s2.onPlanes u fun x => (x.loseMappings c fun _ => true).fencePlane c
    | .dt j =>
      let s3 := s2.onPlanes u fun x => ((x.drainTile j).2.fenceAgent (.bank j 0)).fenceAgent (.bank j 1)
      (s3.disp.displaced.filter fun e => e.1 = j).foldl (fun x e => x.fenceDisplaced j e) s3

def execCoreFence (u : CoreRef) (value : BitVec 64) (s : State) : Out := .next (s.fence u (value.getLsbD 0))

end Sys2Proof.Machine
end

