-- ==== Sys2Proof/Machine/Fabric.lean ====
section
/-! DEFINITION. The Laralair side of the junction router: arrival in order, capture and late packets, flits and replay, flow control, lanes,
retraining, and packets without a path (R378, R385, R389, R390, R396 to R407). -/

namespace Sys2Proof.Machine

/-! ### The late-packet log (R390) -/

/-- A late packet logged in the ring of 16. -/
def State.logLate (s : State) (port : Nat) (p : Packet) : State :=
  let e : LateEntry := {
    key := p.key
    scnt := p.scnt
    rcnt := (s.part p.key).scount.toNat
    port := port
    vc := p.vc
    src := p.src
    dst := p.dst
    kind := p.kind
    addr := p.addr }
  let q := s.regs
  let i := q.lateCount.toNat % 16
  { s with regs := { q with
    late := if i < q.late.length then q.late.set i e else q.late ++ [e]
    lateCount := if q.lateCount = BitVec.allOnes 32 then q.lateCount else q.lateCount + 1#32 } }

/-- Whether a packet is older than the module's count for its key (R378). -/
def State.older (s : State) (p : Packet) : Bool :=
  let d := ((s.part p.key).scount.toNat + 16 - p.scnt % 16) % 16
  decide (1 ≤ d) && decide (d ≤ 7)

/-- Whether the re-injection of a key's captured packets is under way (R385). -/
def State.reinjecting (s : State) (k : Nat) : Bool := s.gang.runs.any fun r => r.incoming = some k && r.phase = 4

/-! ### Arrival (R378, R385, R389, R406, R408) -/

/-- A control packet: gang messages, revocations and their answers. Late revocations are logged only (R389). -/
def State.controlPacket (s : State) (port : Nat) (p : Packet) : State :=
  match p.body with
  | .gangStart k code slow => s.gangMessage (moduleOfNumber p.src) k code slow
  | .gkeyRemove k => s.removalHere k p.src
  | .done who kind args => s.gangAnswer who kind args
  | _ => if s.older p && !s.keyOut p.key then s.logLate port p else s.deliverPacket p

/-- A packet whose turn has come is delivered, captured, held in its link, or refused: by the allow list, or as late. -/
def State.acceptPacket (s : State) (port : Nat) (p : Packet) : State :=
  if p.vc = 0 then s.controlPacket port p
  else if (getAt s.fabric.ports port Port.reset).allow.contains p.key = false then s.refusePacket p ⟨0x15, 0, 0⟩
  else if s.reinjecting p.key then
    (if s.older p then s.capture port p else { s with gang := { s.gang with inLink := s.gang.inLink ++ [(port, p)] } })
  else if s.keyOut p.key then s.capture port p
  else if s.older p then (s.logLate port p).refusePacket p ⟨0x17, 0, 0⟩
  else s.deliverPacket p

/-- A packet accepted; its flits leave the link's buffer unless it is held there. -/
def State.takePacket (s : State) (port : Nat) (p : Packet) : State :=
  let s1 := s.acceptPacket port p
  if s1.gang.inLink.length = s.gang.inLink.length then s1.freeFlits port p else s1

/-- The packets of one source, destination and channel that were held behind the one just delivered (R406). -/
def State.releaseHeld (fuel : Nat) (s : State) (ix : Nat) : State :=
  match fuel with
  | 0 => s
  | n + 1 =>
    let want := getAt s.fabric.seqIn ix 0
    match s.fabric.held.find? (fun e => seqIndex (moduleOfNumber e.2.src) (moduleOfNumber e.2.dst) e.2.vc = ix && e.2.seq = want) with
    | none => s
    | some e =>
      let s1 := { s with fabric := { s.fabric with
        held := s.fabric.held.erase e
        seqIn := setAt s.fabric.seqIn ix ((want + 1) % 65536) } }
      State.releaseHeld n (s1.takePacket e.1 e.2) ix

/-- A packet reaches the junction router (R406). Markers belong to their link; a packet of another module goes on. -/
def State.packetArrives (s : State) (port : Nat) (p : Packet) : State :=
  match p.body with
  | .marker k =>
    let s1 := s.freeFlits port p
    if (s1.runOf k).isSome then
      (match s1.runOf k with
        | some r => if r.markers.contains (port, p.vc) then s1
          else (s1.mapRun k fun x => { x with markers := x.markers ++ [(port, p.vc)] }).sweepStep k
        | none => s1)
    else s1.logLate port p
  | _ =>
    if moduleOfNumber p.dst ≠ s.module then (s.freeFlits port p).route1 { p with since := 0 }
    else
      let ix := seqIndex (moduleOfNumber p.src) s.module p.vc
      let want := getAt s.fabric.seqIn ix 0
      if p.seq = want then
        let s1 := { s with fabric := { s.fabric with seqIn := setAt s.fabric.seqIn ix ((want + 1) % 65536) } }
        State.releaseHeld s1.fabric.held.length (s1.takePacket port p) ix
      else if (p.seq + 65536 - want % 65536) % 65536 < 2 ^ 15 then
        { s with fabric := { s.fabric with held := s.fabric.held ++ [(port, { p with since := s.cycle })] } }
      else s.freeFlits port p

def execPacketArrival (port : Nat) (p : Packet) (s : State) : Out :=
  if 16 ≤ port then .fault .noSuchUnit else .next (s.packetArrives port p)

/-- The hold behind a gap ends (R406): delivery goes on at the first packet behind it. -/
def State.gapTimedOut (s : State) (src dst vc : Nat) : State :=
  let ix := seqIndex src dst vc
  let want := getAt s.fabric.seqIn ix 0
  let mine := (s.fabric.held.filter fun e => seqIndex (moduleOfNumber e.2.src) (moduleOfNumber e.2.dst) e.2.vc = ix).map fun e =>
    (e.2.seq + 65536 - want % 65536) % 65536
  match mine with
    | [] => s
    | d :: ds =>
      let first := ds.foldl min d
      State.releaseHeld s.fabric.held.length { s with fabric := { s.fabric with seqIn := setAt s.fabric.seqIn ix ((want + first) % 65536) } } ix

def execSeqGapTimeout (src dst vc : Nat) (s : State) : Out := .next (s.gapTimedOut src dst vc)

/-! ### Packets without a path (R407) -/

/-- Packets that wait for a path, and those queued at a port that cannot carry them, look for one again. -/
def State.reroute (s : State) : State :=
  let stranded (e : Nat × Port) : List Packet :=
    if e.2.state = .down ∨ e.2.state = .disabled then e.2.queue else e.2.queue.filter fun p => e.2.susp.getLsbD p.vc
  let keep (q : Port) : Port :=
    if q.state = .down ∨ q.state = .disabled then { q with queue := [] } else { q with queue := q.queue.filter fun p => !q.susp.getLsbD p.vc }
  let moved := s.fabric.waiting ++ s.fabric.ports.flatMap stranded
  let s1 := { s with fabric := { s.fabric with
    waiting := []
    ports := s.fabric.ports.map fun (e : Nat × Port) => (e.1, keep e.2) } }
  moved.foldl (fun x p => match p.body with
    | .marker _ => x
    | _ => x.route1 p) s1

/-- What becomes of a packet that has waited 2^20 memory cycles for a path (R407); control packets and travel contexts wait on, but a context
whose destination no longer admits its key goes back. -/
def State.pathTimedOut (s : State) (index : Nat) : State :=
  match s.fabric.waiting[index]? with
    | none => s
    | some p =>
      let gone := { s with fabric := { s.fabric with waiting := s.fabric.waiting.eraseIdx index } }
      match p.vc with
      | 0 => s
      | 4 => if s.admits (moduleOfNumber p.dst) p.key then s else gone.refusePacket p ⟨0x15, 0, 0⟩
      | 2 => gone
      | _ => gone.refusePacket p ⟨0x15, 1, p.dst⟩

def execUnreachableTimeout (index : Nat) (s : State) : Out := .next (s.pathTimedOut index)

/-! ### Links (R397 to R403) -/

def State.setPort (s : State) (n : Nat) (q : Port) : State := { s with fabric := { s.fabric with ports := setAt s.fabric.ports n q } }

/-- A port changed; a change of its state, width or suspended channels raises vector 259 (R402, R413). -/
def State.changePort (s : State) (n : Nat) (f : Port → Port) : State :=
  let q := getAt s.fabric.ports n Port.reset
  let r0 := f q
  let r := if q.state = .up ∧ r0.state ≠ .up then { r0 with downAt := s.cycle } else r0
  if r.state = q.state ∧ r.width = q.width ∧ r.susp = q.susp then s.setPort n r
  else (s.setPort n { r with changed := true }).raiseVector 259

/-- Every unacknowledged flit is sent again (R397). -/
def replayAll (q : Port) : Port := { q with replays := min (q.replays + q.replay.length) 0xFFFF }

/-- A flit is received (R397): an accepted one is acknowledged, and its packet goes on; one out of turn is not, and a duplicate is
acknowledged again. -/
def execFlitArrival (port : Nat) (crcOk : Bool) (f : Flit) (s : State) : Out :=
  let q := getAt s.fabric.ports port Port.reset
  if 16 ≤ port then .fault .noSuchUnit
  else .next (if q.state ≠ .up ∨ crcOk = false ∨ q.expect < f.num then s
    else if f.num < q.expect then s.setPort port { q with acks := q.acks ++ [f.num] }
    else
      let q1 := occupy1 { q with expect := q.expect + 1, acks := q.acks ++ [f.num] } f.vc (getAt q.occupancy f.vc 0 + 1)
      match f.pkt with
      | none => s.setPort port q1
      | some p => (s.setPort port q1).packetArrives port p)

/-- An acknowledgement frees the flits up to its number (R397). -/
def execFlitAck (port num : Nat) (s : State) : Out :=
  let q := getAt s.fabric.ports port Port.reset
  if 16 ≤ port then .fault .noSuchUnit
  else .next (s.setPort port { q with replay := q.replay.filter fun f => decide (num < f.num) })

/-- Stop or go for a channel (R399). -/
def execFlowControlSignal (port vc : Nat) (stop : Bool) (s : State) : Out :=
  let q := getAt s.fabric.ports port Port.reset
  if 16 ≤ port then .fault .noSuchUnit
  else .next (s.setPort port (pumpPort { q with
    stopped := if stop then q.stopped ||| (1#6 <<< vc) else q.stopped &&& ~~~(1#6 <<< vc) }))

/-- A link that is up sends its unacknowledged flits again (R397, R402). -/
def State.replayPort (s : State) (port : Nat) : State :=
  let q := getAt s.fabric.ports port Port.reset
  if q.state = .up then s.setPort port (replayAll q) else s

def execReplayTimeout (port : Nat) (s : State) : Out := if 16 ≤ port then .fault .noSuchUnit else .next (s.replayPort port)

/-- A lane fails (R401): the width steps down by one and the link retrains, or goes down at quarter width. -/
def execLaneFailure (port lane : Nat) (s : State) : Out :=
  if 16 ≤ port ∨ 8 ≤ lane then .fault .noSuchUnit
  else .next ((s.changePort port fun q =>
    let q1 := { q with failed := q.failed ||| (1#8 <<< lane) }
    if q.state = .down ∨ q.state = .disabled ∨ q.failed.getLsbD lane = true then q1
    else if 2 ≤ q.width then { q1 with state := .down, width := 3 }
    else { q1 with state := .training, width := q.width + 1 }).reroute)

/-- The channels of the first set of R400 that the link can carry; none: the link is taken down. -/
def carriedSet (width rtt : Nat) : Option (BitVec 6) :=
  let fits (n : Nat) : Bool := decide (skidReserve width rtt + 5 ≤ channelShare width n)
  if fits 6 then some 0b000000#6
  else if fits 5 then some 0b100000#6
  else if fits 4 then some 0b110000#6
  else none

/-- A link has trained (R399 to R402): its round trip, thresholds and channels take effect together, and the sender resumes with its replay
buffer. -/
def execRetrainComplete (port rtt : Nat) (s : State) : Out :=
  if 16 ≤ port then .fault .noSuchUnit
  else .next ((s.changePort port fun q =>
    if q.state ≠ .training then q
    else
      let w := if q.full then 0 else q.width
      let q1 := { q with width := w, rtt := rtt, full := false, retrains := min (q.retrains + 1) 255 }
      match carriedSet w rtt with
      | none => { q1 with state := .down, width := 3 }
      | some v => pumpPort (replayAll { q1 with state := .up, susp := v })).reroute)

/-- A full retrain on all eight lanes (R401, R403): failed lanes are tried again. -/
def execLctlFullRetrain (port : Nat) (s : State) : Out :=
  if 16 ≤ port then .fault .noSuchUnit
  else .next (s.changePort port fun q => if q.dis then q else { q with state := .training, full := true, failed := 0#8 })

/-- A port disabled, or enabled to train again (R403). -/
def execLctlDisable (port : Nat) (dis : Bool) (s : State) : Out :=
  if 16 ≤ port then .fault .noSuchUnit
  else .next ((s.changePort port fun q =>
    if dis then { q with dis := true, state := .disabled }
    else if q.dis then { q with dis := false, state := .training, full := true, failed := 0#8 }
    else q).reroute)

end Sys2Proof.Machine
end

