-- ==== Sys2Proof/Machine/HostLink.lean ====
section
/-! DEFINITION. The CXL link to the host: the HBM window, snoops, CXL.cache answers, back-invalidates and the link's fall (R53, R58, R74, R118,
R410, R411). -/

namespace Sys2Proof.Machine

/-- The fields that hwin keeps (R410). -/
def hwinMask : BitVec 64 := 0x000001FF000001FF#64

/-- hwin written (R410): ignored past 384 GiB, and while the HDM decoder is committed. -/
def execHwinWrite (value : BitVec 64) (s : State) : Out :=
  .next (if s.regs.hdmCommitted ∨ 384 < bitsOf value.toNat 40 32 + bitsOf value.toNat 8 0 then s
    else { s with regs := { s.regs with hwin := value &&& hwinMask } })

/-- An access of the host through the HBM window, at its home slice (R118, R410). It carries no key, and ranges never check it. Before stage C
it completes with CXL poison (R425). -/
def execHostWindowAccess (a : HostAccess) (s : State) : Out :=
  let h := s.regs.hwin.toNat
  let pa := s.module * 2 ^ 52 + bitsOf h 8 0 * 2 ^ 30 + a.addr
  let n := if a.write then a.data.length else a.len
  if bitsOf h 40 32 * 2 ^ 30 < a.addr + n then .fault .noSuchAddress
  else .next (if s.boot.stage < 2 then
      (if a.write then s
       else
         let (k, s1) := s.freeNat
         { s1 with boot := { s1.boot with
            hostReads := s1.boot.hostReads ++ [((List.range n).map fun i => Config.freeByte (k + i), true)] } })
    else
      let r : Request := {
        who := .host
        core := coreNumber s.module (.lc 0)
        key := hostKey
        op := if a.write then .store else .load
        pa := pa
        len := n
        data := a.data
        dest := if a.write then .none else .inbox 0 }
      let lines := (List.range ((pa + n + 63) / 64 - pa / 64)).map (· + pa / 64)
      let s1 := if a.write then s else { s with homes := { s.homes with
        hostLines := s.homes.hostLines ++ lines.filter fun l => !s.homes.hostLines.contains l } }
      ((s1.countAccess pa).countL2 pa).atHome r)

/-- A snoop of the host answered (R53, R411): with the line's bytes where its home holds it, which gives it up. -/
def execHostSnoop (line : Nat) (s : State) : Out :=
  let s1 := s.gatherLine line
  .next (match s1.homes.l2.find? (fun l => l.line = line) with
    | none => { s1 with boot := { s1.boot with snoops := s1.boot.snoops ++ [(line, [], false)] } }
    | some l =>
      { s1 with
        boot := { s1.boot with snoops := s1.boot.snoops ++ [(line, s1.read (line * 64) 64, l.dirty)] }
        homes := { s1.homes with l2 := s1.homes.l2.filter fun x => x.line ≠ line } })

/-- The requests that waited for the host's answer about a line, in order. -/
def State.takeHeld (s : State) (line : Nat) : List Request × State :=
  ((s.homes.heldWrites.filter fun w => w.1 = line).map (·.2),
    { s with homes := { s.homes with heldWrites := s.homes.heldWrites.filter fun w => w.1 ≠ line } })

/-- A request that waited for ownership which the host has refused: its bytes are lost, and a result is poisoned (R411). -/
def State.loseWrite (s : State) (r : Request) : State :=
  match r.op with
  | .amo _ _ => (s.addPoison (canon r.pa) r.len).performReq r fun _ => false
  | .cas _ => (s.addPoison (canon r.pa) r.len).performReq r fun _ => false
  | .load => s.atHome r
  | .fill _ _ => s.atHome r
  | _ => s.performReq { r with mask := List.replicate r.len false } fun _ => false

/-- A CXL.cache request completes (R411): its line is placed and what waited for it goes on. In error a read delivers a poisoned line, and a
write's bytes are lost and counted. -/
def execHostCacheReply (line : Nat) (kind : CacheReq) (data : List Byte) (error : Bool) (s : State) : Out :=
  let s1 := { s with boot := { s.boot with cacheReqs := s.boot.cacheReqs.erase (line, kind) } }
  let counted (x : State) : State := { x with regs := { x.regs with
    hostErrors := if x.regs.hostErrors = BitVec.allOnes 32 then x.regs.hostErrors else x.regs.hostErrors + 1#32 } }
  .next (if s.boot.cacheReqs.contains (line, kind) = false then s
    else match kind with
      | .writeBack => if error then counted s1 else s1
      | .read =>
        let (rs, s2) := s1.takeHeld line
        let (k, s3) := s2.freeNat
        let s4 := if error then (s3.write (line * 64) ((List.range 64).map fun i => Config.freeByte (k + i))).addPoison (line * 64) 64
          else s3.write (line * 64) (data.take 64)
        rs.foldl (fun x r => x.atHome r) (s4.placeLine line false)
      | .own =>
        let (rs, s2) := s1.takeHeld line
        if error then rs.foldl (fun x r => x.loseWrite r) (counted s2)
        else
          let had := s2.homes.l2.any fun l => l.line = line
          let s3 := if had ∨ data = [] then s2 else s2.write (line * 64) (data.take 64)
          rs.foldl (fun x r => x.atHome r) (s3.placeLine line true))

/-- The host has given up its copy of a window line: the writes that the home was holding are performed (R410). -/
def execBackInvalidateResponse (line : Nat) (s : State) : Out :=
  let s1 := { s with
    boot := { s.boot with backInvalidates := s.boot.backInvalidates.erase line }
    homes := { s.homes with hostLines := s.homes.hostLines.filter (· ≠ line) } }
  let (rs, s2) := s1.takeHeld line
  .next (if s.boot.backInvalidates.contains line then rs.foldl (fun x r => x.atHome r) s2 else s)

/-- The CXL link goes down (R411): what waits for the host is answered as unreachable (R407), and copy beats fail. -/
def execCxlLinkDown (s : State) : Out :=
  let host (w : Nat × Request) : Bool := spaceOf w.2.pa = 5
  let rs := (s.homes.heldWrites.filter host).map (·.2)
  let s1 := { s with
    boot := { s.boot with cxlUp := false, cacheReqs := [] }
    homes := { s.homes with heldWrites := s.homes.heldWrites.filter fun w => !host w } }
  .next (rs.foldl (fun x r => x.refuseRequest r ⟨0x15, 1, coreNumber x.module (.lc (homeCore r.pa))⟩) s1 |>.pushAll (s1.engines.map .copyBeat))

end Sys2Proof.Machine
end

