-- ==== Sys2Proof/Machine/Boot.lean ====
section
/-! DEFINITION. Bring-up, attestation, health and storage errors (R58, R425 to R431). -/

namespace Sys2Proof.Machine

/-- Power good starts the module in stage A, everything at reset; the part's place in its domain and its fuses stay (R425, R427). -/
def execPowerGood (s : State) : Out :=
  .next { State.reset with
    module := s.module
    free := s.free
    fabric := { Fabric.reset with domain := s.fabric.domain }
    boot := { Boot.reset with
      powered := true
      fuseVersion := s.boot.fuseVersion } }

/-- Whether the boot ROM takes a firmware image (R427). -/
def imageOk (fuse : BitVec 32) (f : Firmware) : Bool :=
  Config.sm3 f.keyBytes = Config.romKeyDigest && Config.sm2Verify f.keyBytes (Config.sm3 f.body) f.signature && decide (fuse ≤ f.version)

/-- Stage B: Yoben boots once its signature verifies; a fatal failure holds the module in stage A (R425 to R427). `fail` names a failed
training or scrub. -/
def execFirmwareVerify (image : Firmware) (fail : Nat) (s : State) : Out :=
  let b := s.boot
  .next (if b.powered = false ∨ b.stage ≠ 0 ∨ b.tripped ∨ b.fail ≠ 0 then s
    else if imageOk b.fuseVersion image = false then { s with boot := { b with fail := 0x01 } }
    else if 2 ≤ fail ∧ fail ≤ 4 then { s with boot := { b with fail := fail } }
    else { s with boot := { b with
      stage := 1
      yobenDigest := Config.sm3 image.body
      version := image.version
      fuseVersion := image.version } })

/-- Stage C: the Laralair ports train; those that fail stay down, and that is not fatal (R425, R426). -/
def execStageCReached (failedPorts : List Nat) (s : State) : Out :=
  .next (if s.boot.stage ≠ 1 then s
    else
      let s1 := { s with boot := { s.boot with stage := 2, fail := if failedPorts = [] then s.boot.fail else 0x05 } }
      (List.range 16).foldl (fun x n =>
        if failedPorts.contains n then x
        else x.changePort n fun q => if q.dis then q else { q with state := .training, full := true }) s1)

/-! ### Attestation (R428) -/

/-- bstat (R426). -/
def State.bstat (s : State) : Nat := s.boot.fail % 256 * 256 + s.boot.stage % 4

/-- The reply to an attestation request: replies are given in request order (R428). -/
def execAttestationRequest (nonce : BitVec 256) (s : State) : Out :=
  let (n, s1) := (s.free, { s with free := s.free + 1 })
  let body := natToBytes 32 nonce.toNat ++ natToBytes 32 Config.romDigest.toNat ++
    natToBytes 32 (if s.boot.stage = 0 then 0 else s.boot.yobenDigest.toNat) ++ natToBytes 4 s.boot.version.toNat ++ natToBytes 4 s.bstat
  let reply := body ++ natToBytes 64 (Config.sm2Sign n (Config.sm3 body)).toNat
  .next (if s.boot.powered then { s1 with boot := { s1.boot with replies := s1.boot.replies ++ [reply] } } else s)

def execCertificateRead (s : State) : Out :=
  .next (if s.boot.powered then { s with boot := { s.boot with replies := s.boot.replies ++ [Config.certificate] } } else s)

/-! ### Health (R430, R431) -/

/-- Whether a reading passes the limits of R431. -/
def overLimit (tmax pwr : Nat) : Bool := decide (95 < tmax) || decide (2400 < pwr)

/-- The monitors' readings, and a throttle level; a change of the level sets TW and raises vector 261 (R431). -/
def State.health (s : State) (tmax pwr thbm thr : Nat) : State :=
  let s1 := { s with boot := { s.boot with tmax := tmax, pwr := pwr, thbm := thbm, thr := thr, tw := s.boot.tw || thr ≠ s.boot.thr } }
  if thr = s.boot.thr then s1 else s1.raiseVector 261

def execThrottleRaise (tmax pwr thbm : Nat) (s : State) : Out :=
  .next (s.health tmax pwr thbm (if overLimit tmax pwr then min (s.boot.thr + 1) 3 else s.boot.thr))

def execThrottleLower (tmax pwr thbm : Nat) (s : State) : Out :=
  .next (s.health tmax pwr thbm (if decide (tmax < 90) && decide (pwr ≤ 2400) then s.boot.thr - 1 else s.boot.thr))

/-- At 110 °C every core halts as HALT does, and only stage A is left (R431). -/
def execThermalTrip (tmax : Nat) (s : State) : Out :=
  .next (if tmax < 110 then { s with boot := { s.boot with tmax := tmax } }
    else
      let s1 := (List.range 512).foldl (fun x i => x.haltCore (.lc i) false) s
      let s2 := ((List.range 64).foldl (fun x j => x.haltCore (.dt j) false) s1).raiseVector 261
      { s2 with
        agenda := []
        boot := { s2.boot with tmax := tmax, tp := true, tripped := true, stage := 0 }
        disp := { s2.disp with ports := s2.disp.ports.map fun (e : Nat × LaunchPort) => (e.1, { e.2 with en := false }) }
        fabric := { s2.fabric with ports := s2.fabric.ports.map fun (e : Nat × Port) => (e.1, { e.2 with state := .down }) } })

/-! ### Storage errors (R58, R429) -/

/-- The place in a core's L1 that an address of its tile memory beyond the scratchpad banks names: core, set and way (R35, R39). -/
def State.l1Place (s : State) (pa : Nat) : Option (Nat × Nat × Nat) :=
  if spaceOf pa = 4 ∧ moduleOf pa = s.module then
    match windowCore (offsetOf pa) with
    | some (.lc c) =>
      let o := offsetOf pa % 0x400000
      if (s.lp c).banks * 0x4000 ≤ o ∧ o < 0x50000 then some (c, o % 0x4000 / 64, o / 0x4000) else none
    | _ => none
  else none

/-- A line of an L1 struck by an uncorrectable error. -/
def State.poisonL1 (s : State) (c set way : Nat) : State :=
  s.setLp c { s.lp c with l1 := (s.lp c).l1.map fun l => if setOf l.line = set ∧ l.way = way then { l with poison := true } else l }

/-- A soft error: repaired in place and counted, or its granule or L1 line poisoned. -/
def execStorageError (pa : Nat) (corrected : Bool) (s : State) : Out :=
  let sec := homeCore pa / 16
  .next (if corrected then s.countSector sec 0x0107 1
    else (match s.l1Place pa with
      | some (c, set, way) => s.poisonL1 c set way
      | none => s.addPoison (canon pa / 64 * 64) 64).countSector sec 0x0108 1)

end Sys2Proof.Machine
end

