-- ==== Sys2Proof/Machine/Regs.lean ====
section
/-! DEFINITION. Writes of control-space and BAR 2 registers, the two rings' heads, decay, and an L1's eviction (R9, R28 to R30, R40, R85,
R156, R187, R373, R379, R380, R390, R391, R403, R410 to R413, R425, R429, R430). -/

namespace Sys2Proof.Machine

/-- Bits of value `v` cleared where `w` has a 1 (R9, W1C). -/
def clear1 {n : Nat} (v : BitVec n) (w : BitVec 64) : BitVec n := v &&& ~~~(w.setWidth n)

/-! ### The rings (R29, R30, R373) -/

/-- A notice consumed: its region's entry counts again (R29, R31). -/
def State.consumeNotice (s : State) (e : Nat) : State :=
  let w := s.readNat (canon (s.regs.nqbase.toNat + 16 * e)) 16
  s.setCounters (s.homes.counters.map fun (c : AccessCounter) =>
    if c.pair = bitsOf w 84 76 ∧ c.region = bitsOf w 127 85 ∧ c.queued = true then { c with count := 0, queued := false } else c)

/-- Writing nqhead consumes the notices up to the new head; a value outside the filled entries is ignored (R30). -/
def execNqheadWrite (value : BitVec 64) (s : State) : Out :=
  let h : BitVec 12 := value.setWidth 12
  let q := s.regs
  let n := (h - q.nqhead).toNat
  .next (if (q.nqtail - q.nqhead).toNat < n then s
    else
      let s1 := (List.range n).foldl (fun x i => x.consumeNotice (q.nqhead + BitVec.ofNat 12 i).toNat) s
      let s2 := { s1 with regs := { s1.regs with nqhead := h } }
      if h = q.nqtail then s2.ackVector 257 else s2)

/-- Writing fqhead consumes fault records under the same rule (R373). -/
def execFqheadWrite (value : BitVec 64) (s : State) : Out :=
  let h : BitVec 11 := value.setWidth 11
  let q := s.regs
  .next (if (q.fqtail - q.fqhead).toNat < (h - q.fqhead).toNat then s
    else
      let s1 := { s with regs := { q with fqhead := h } }
      if h = q.fqtail then s1.ackVector 256 else s1)

/-- The threshold of a region (R30). -/
def State.regionThreshold (s : State) (region : Nat) : Nat := s.threshold (region * 2 ^ 21)

/-- The decay interval ends (R29): every count is halved, a held or queued one not below its threshold. -/
def State.decayCounters (s : State) : State :=
  if s.regs.decay = 0#32 then s
    else s.setCounters (s.homes.counters.map fun (c : AccessCounter) =>
      { c with count := if c.queued || c.overflow then max (c.count / 2) (min c.count (s.regionThreshold c.region)) else c.count / 2 })

def execCounterDecay (s : State) : Out := .next s.decayCounters

/-- An L1 gives up a line (R40). A locked line stays (R45). -/
def execL1Eviction (core set way : Nat) (s : State) : Out :=
  .next (match (s.lp core).l1.find? (fun l => setOf l.line = set && l.way = way) with
    | some l => if l.lock = 0 then s.evict core l else s
    | none => s)

/-! ### Registers (R9) -/

/-- Whether a value is one that a partition register takes (R20, R156, R353, R379, R380). -/
def State.partOk (s : State) (i : Nat) (v : BitVec 64) : Bool :=
  match i with
  | 0 =>
    let root := pointed s.module (v.extractLsb' 0 48).toNat
    v &&& srReserved 0x052 = 0#64 && (v.getLsbD 63 = false || (root % 0x20000 = 0 && decide (spaceOf root ≤ 3)))
  | 1 => v &&& srReserved 0x02C = 0#64 && v.toNat % 4 = 0
  | 2 => v &&& srReserved 0x02F = 0#64 && v.toNat % 16 = 0
  | 3 => v &&& srReserved 0x02D = 0#64
  | 6 => s.selbaseOk v
  | 7 => s.selovfOk v
  | _ => true

def PartSet.put (p : PartSet) (i : Nat) (v : BitVec 64) : PartSet :=
  match i with
  | 0 => { p with ptroot := v }
  | 1 => { p with svpc := v }
  | 2 => { p with svpcd := v }
  | 3 => { p with tdeleg := v }
  | 4 => { p with owbase := v }
  | 5 => { p with owlimit := v }
  | 6 => { p with selbase := v }
  | 7 => { p with selovf := v }
  | _ => p

/-- A register of a key's set written, where the key has a set and the register takes the value. -/
def State.putPart (s : State) (key i : Nat) (v : BitVec 64) : Option State :=
  if (findAt s.parts key).isSome && s.partOk i v then some (s.setPart key ((s.part key).put i v)) else none

def State.setRegs (s : State) (r : Regs) : State := { s with regs := r }

/-- The revocation port's registers but GO (R28); clearing DN acknowledges vector 260 (R413). -/
def State.revWrite (s : State) (ofs : Nat) (v : BitVec 64) : State :=
  let q := s.regs
  match ofs with
  | 0x00 => s.setRegs { q with rvScope := v.extractLsb' 16 4, rvKey := v.setWidth 16 }
  | 0x08 => s.setRegs { q with rvBase := v }
  | 0x10 => s.setRegs { q with rvLen := v }
  | 0x20 =>
    let s1 := s.setRegs { q with
      rvEr := q.rvEr && !v.getLsbD 2
      rvDn := q.rvDn && !v.getLsbD 1 }
    if v.getLsbD 1 then s1.ackVector 260 else s1
  | _ => s

/-- serr's four counts, each bit cleared by a 1 (R429). -/
def State.serrWrite (s : State) (sec : Nat) (v : BitVec 64) : State :=
  let e := getAt s.sectors sec Sector.reset
  { s with sectors := setAt s.sectors sec { e with
    ce := clear1 e.ce v
    ue := clear1 e.ue (v >>> 16)
    ck := clear1 e.ck (v >>> 32)
    rm := clear1 e.rm (v >>> 48) } }

/-- A control-space register written by a thread of `key` (R9, R30, R85, R156, R373, R379, R390, R429); reserved and RO fields stay. nqbase and fqbase take
any value: R30 names the ring's alignment and space and no check of the write (DESIGN CHOICE, log 112). -/
def State.controlWrite (s : State) (key ofs : Nat) (v : BitVec 64) : State :=
  let q := s.regs
  if 0x1000000 ≤ ofs ∧ ofs < 0x1000000 + 32 * 0x10000 then
    (if ofs % 0x10000 = 0xD000 then s.serrWrite ((ofs - 0x1000000) / 0x10000) v else s)
  else if 0x10700 ≤ ofs ∧ ofs < 0x10728 then s.revWrite (ofs - 0x10700) v
  else match ofs with
    | 0x10000 => s.setRegs { q with nqbase := v }
    | 0x10018 => s.setRegs { q with nqen := v.getLsbD 32, nqlost := clear1 q.nqlost v }
    | 0x10020 => s.setRegs { q with
        thost := v.extractLsb' 32 16
        tbulk := v.extractLsb' 16 16
        thbm := v.extractLsb' 0 16 }
    | 0x10028 => s.setRegs { q with decay := v.setWidth 32 }
    | 0x10100 => s.setRegs { q with rcontrol := v &&& 0x1FFFFFFFF#64 }
    | 0x10200 => (s.putPart key 4 v).getD s
    | 0x10208 => (s.putPart key 5 v).getD s
    | 0x10210 => (s.putPart key 6 v).getD s
    | 0x10218 => (s.putPart key 7 v).getD s
    | 0x10300 => s.setRegs { q with fqbase := v }
    | 0x10318 => s.setRegs { q with fqen := v.getLsbD 32, fqlost := clear1 q.fqlost v }
    | 0x10600 => s.setRegs { q with lateCount := clear1 q.lateCount v }
    | _ => s

/-- A launch port's registers (R187, R412); EN stays 0 before stage C (R425). -/
def State.portWrite (s : State) (n ofs : Nat) (v : BitVec 64) : State :=
  let p := getAt s.disp.ports n LaunchPort.reset
  let put (x : LaunchPort) : State := { s with disp := { s.disp with ports := setAt s.disp.ports n x } }
  match ofs with
  | 0x040 => put { p with
      key := (v.setWidth 16).toNat
      en := if s.boot.stage < 2 then false else v.getLsbD 16 }
  | 0x048 => put { p with
      nr := p.nr && !v.getLsbD 3
      dropped := p.dropped && !v.getLsbD 2
      mf := p.mf && !v.getLsbD 1
      ov := p.ov && !v.getLsbD 0 }
  | 0x050 => put { p with ie := v.getLsbD 0 }
  -- no whole 64-byte write of a record (R188)
  | o => if o < 0x40 then put { p with mf := true } else s

/-- gcmd (R391): a command, or ER for a reserved value; none before stage C (R425). -/
def State.gangCommand (s : State) (v : BitVec 64) : Out :=
  let key := (v.setWidth 16).toNat
  if s.boot.stage < 2 then .next s
  else if v.extractLsb' 17 45 ≠ 0#45 then .next s.gangEr
  else match (v.extractLsb' 62 2).toNat with
    | 0 => execGangPortSwitch key (v.getLsbD 16) s
    | 1 => execGangPortPageOut key s
    | 2 => execGangPortPageIn key s
    | _ => .next s.gangEr

/-- The partition port (R380). -/
def State.partitionWrite (s : State) (ofs : Nat) (v : BitVec 64) : Out :=
  if ofs = 0x000 then .next (s.setRegs { s.regs with psel := v.setWidth 16, pEr := s.regs.pEr && !v.getLsbD 17 })
  else if ofs = 0x008 then
    (if v.getLsbD 1 then execPartitionPortAdmit s else if v.getLsbD 0 then execPartitionPortCreate s else .next s)
  else if 0x100 ≤ ofs ∧ ofs ≤ 0x138 ∧ ofs % 8 = 0 then
    .next ((s.putPart s.regs.psel.toNat ((ofs - 0x100) / 8) v).getD (s.setRegs { s.regs with pEr := true }))
  else .next s

/-- A BAR 2 register written by the host. -/
def State.barWrite (s : State) (ofs : Nat) (v : BitVec 64) : Out :=
  let q := s.regs
  if ofs < 0x100000 then .next (s.portWrite (ofs / 0x1000) (ofs % 0x1000) v)
  else if ofs = 0x100000 then .next (s.setRegs { q with gimg := v })
  else if ofs = 0x100008 then s.gangCommand v
  else if ofs = 0x100018 then
    let s1 := s.setRegs { q with gEr := q.gEr && !v.getLsbD 1, gDn := q.gDn && !v.getLsbD 0 }
    .next (if v.getLsbD 0 then s1.ackVector 258 else s1)
  else if ofs = 0x110000 then execHwinWrite v s
  else if ofs = 0x110008 then .next (s.setRegs { q with hostErrors := clear1 q.hostErrors v })
  else if ofs = 0x110200 then
    let s1 := { s with boot := { s.boot with tp := s.boot.tp && !v.getLsbD 33, tw := s.boot.tw && !v.getLsbD 32 } }
    .next (if s1.boot.tp || s1.boot.tw then s1 else s1.ackVector 261)
  else if ofs = 0x120018 then execRevocationPortGo none v s
  else if 0x120000 ≤ ofs ∧ ofs < 0x120028 then .next (s.revWrite (ofs - 0x120000) v)
  else if 0x130000 ≤ ofs ∧ ofs < 0x131000 then s.partitionWrite (ofs - 0x130000) v
  else .next s

/-- A register written (R9), by a thread of a key in control space or by the host in BAR 2. -/
def execRegisterWrite (space : RegSpace) (key : Option Nat) (ofs : Nat) (value : BitVec 64) (s : State) : Out :=
  match space with
  | .control => .next (s.controlWrite (key.getD 0) ofs value)
  | .bar2 => s.barWrite ofs value

/-! ### Reads of BAR 2 (R9) -/

/-- hstat (R430). -/
def State.hstat (s : State) : Nat :=
  bit s.boot.tp * 2 ^ 33 + bit s.boot.tw * 2 ^ 32 + s.boot.thr % 4 * 2 ^ 30 + s.boot.pwr % 2 ^ 14 * 2 ^ 16 + s.boot.tmax % 256 * 256 + s.boot.thbm % 256

/-- A 64-bit register of BAR 2 as the host reads it; WO fields and reserved offsets read 0. -/
def State.barReg (s : State) (ofs : Nat) : Nat :=
  let q := s.regs
  if ofs < 0x100000 then
    let p := getAt s.disp.ports (ofs / 0x1000) LaunchPort.reset
    match ofs % 0x1000 with
    | 0x040 => bit p.en * 2 ^ 16 + p.key
    | 0x048 => p.accepted.toNat * 2 ^ 32 + (16 - p.queue.length) * 2 ^ 16 + bit p.nr * 8 + bit p.dropped * 4 + bit p.mf * 2 + bit p.ov
    | 0x050 => bit p.ie
    | _ => 0
  else if 0x120000 ≤ ofs ∧ ofs < 0x120028 then s.revPort (ofs - 0x120000)
  else if 0x130100 ≤ ofs ∧ ofs ≤ 0x130138 then ((s.part q.psel.toNat).reg ((ofs - 0x130100) / 8)).toNat
  else match ofs with
    | 0x100000 => q.gimg.toNat
    | 0x100010 => q.gangstat.toNat
    | 0x100018 => bit q.gEr * 2 + bit q.gDn
    | 0x100020 => q.gcap.toNat
    | 0x110000 => q.hwin.toNat
    | 0x110008 => q.hostErrors.toNat
    | 0x110100 => s.bstat
    | 0x110200 => s.hstat
    | 0x130000 => bit q.pEr * 2 ^ 17 + bit (findAt s.parts q.psel.toNat).isSome * 2 ^ 16 + q.psel.toNat
    | _ => 0

end Sys2Proof.Machine
end

