-- ==== Sys2Proof/Machine/Scl.lean ====
section
/-! DEFINITION. Scalar and control instructions (R243 to R259). -/

namespace Sys2Proof.Machine

/-- A scalar result written and the instruction completed (R243): its latency on a dense tile is `lat` (R177). -/
def State.scalar (s : State) (lat : Nat) (d : BitVec 5) (v : BitVec 64) : Out := .next (s.setX lat d v).complete

/-- A condition of R222 on a register's value. -/
def condHolds (c : BitVec 3) (v : BitVec 64) : Bool :=
  match c.toNat with
  | 0 => v = 0#64
  | 1 => v ≠ 0#64
  | 2 => v.slt 0#64
  | 3 => BitVec.sle 0#64 v
  | 4 => BitVec.slt 0#64 v
  | 5 => v.sle 0#64
  | _ => true

/-- A shift of R247 by an amount 0 to 63. -/
def shiftOp (f : BitVec 2) (v : BitVec 64) (n : Nat) : BitVec 64 :=
  match f.toNat with
  | 0 => v <<< n
  | 1 => v >>> n
  | 2 => v.sshiftRight n
  | _ => v.rotateLeft n

/-- A logic code of R242. -/
def logicOp (f : BitVec 3) (a b : BitVec 64) : BitVec 64 :=
  match f.toNat with
  | 0 => a &&& b
  | 1 => a ||| b
  | 2 => a ^^^ b
  | 3 => a &&& ~~~b
  | 4 => a ||| ~~~b
  | 5 => ~~~(a ^^^ b)
  | _ => ~~~(a ||| b)

/-- A compare code of R242 on registers. -/
def compareOp (f : BitVec 3) (a b : BitVec 64) : Bool :=
  match f.toNat with
  | 0 => a = b
  | 1 => a ≠ b
  | 2 => a.slt b
  | 3 => a.sle b
  | 4 => a.ult b
  | _ => a.ule b

/-- A truth value as a register's value. -/
def flagWord (b : Bool) : BitVec 64 := if b then 1#64 else 0#64

/-- Quotient, remainder and DZ (R246). -/
def divrem (a b : BitVec 64) (signed : Bool) : BitVec 64 × BitVec 64 × Bool :=
  if b = 0#64 then (BitVec.allOnes 64, a, true)
  else if signed then (a.sdiv b, a.srem b, false)
  else (a / b, a % b, false)

def execNop (s : State) : Out := .next s.complete

def execAdd (d a b : BitVec 5) (n : BitVec 3) (s : State) : Out := s.scalar 1 d (s.x a + (s.x b <<< n.toNat))

def execSub (d a b : BitVec 5) (n : BitVec 3) (s : State) : Out := s.scalar 1 d (s.x a - (s.x b <<< n.toNat))

def execAddi (d a : BitVec 5) (i : BitVec 14) (s : State) : Out := s.scalar 1 d (s.x a + i.signExtend 64)

def execMul (d a b : BitVec 5) (s : State) : Out := s.scalar 3 d (s.x a * s.x b)

def execMulh (d a b : BitVec 5) (u : BitVec 1) (s : State) : Out :=
  s.scalar 3 d (if u = 0#1 then ((s.x a).signExtend 128 * (s.x b).signExtend 128).extractLsb' 64 64
    else ((s.x a).setWidth 128 * (s.x b).setWidth 128).extractLsb' 64 64)

def execDiv (d a b : BitVec 5) (u : BitVec 1) (s : State) : Out :=
  let r := divrem (s.x a) (s.x b) (u = 0#1)
  .next ((s.setX 12 d r.1).raiseFlags 12 (if r.2.2 then 8#64 else 0#64)).complete

def execRem (d a b : BitVec 5) (u : BitVec 1) (s : State) : Out :=
  let r := divrem (s.x a) (s.x b) (u = 0#1)
  .next ((s.setX 12 d r.2.1).raiseFlags 12 (if r.2.2 then 8#64 else 0#64)).complete

def execAnd (d a b : BitVec 5) (s : State) : Out := s.scalar 1 d (s.x a &&& s.x b)

def execOr (d a b : BitVec 5) (s : State) : Out := s.scalar 1 d (s.x a ||| s.x b)

def execXor (d a b : BitVec 5) (s : State) : Out := s.scalar 1 d (s.x a ^^^ s.x b)

def execLogi (d a : BitVec 5) (f : BitVec 3) (i : BitVec 11) (s : State) : Out :=
  s.scalar 1 d (logicOp f (s.x a) (i.setWidth 64))

def execShift (d a b : BitVec 5) (f : BitVec 2) (s : State) : Out :=
  s.scalar 1 d (shiftOp f (s.x a) ((s.x b).setWidth 6).toNat)

def execShifti (d a : BitVec 5) (f : BitVec 2) (n : BitVec 6) (s : State) : Out :=
  s.scalar 1 d (shiftOp f (s.x a) n.toNat)

def execCmp (d a b : BitVec 5) (f : BitVec 3) (s : State) : Out :=
  s.scalar 1 d (flagWord (compareOp f (s.x a) (s.x b)))

def execCmpi (d a : BitVec 5) (f : BitVec 3) (i : BitVec 11) (s : State) : Out :=
  s.scalar 1 d (flagWord (compareOp f (s.x a) (i.signExtend 64)))

def execMin (d a b : BitVec 5) (u : BitVec 1) (s : State) : Out :=
  s.scalar 1 d (if (if u = 0#1 then (s.x b).slt (s.x a) else (s.x b).ult (s.x a)) then s.x b else s.x a)

def execMax (d a b : BitVec 5) (u : BitVec 1) (s : State) : Out :=
  s.scalar 1 d (if (if u = 0#1 then (s.x a).slt (s.x b) else (s.x a).ult (s.x b)) then s.x b else s.x a)

def execSel (d a b : BitVec 5) (c : BitVec 3) (x : BitVec 5) (s : State) : Out :=
  s.scalar 1 d (if condHolds c (s.x x) then s.x a else s.x b)

def execBitc (d a : BitVec 5) (w : BitVec 1) (o : BitVec 2) (s : State) : Out :=
  s.scalar 1 d (BitVec.ofNat 64 (if w = 0#1 then bitCount 64 o.toNat (s.x a).toNat
    else bitCount 32 o.toNat ((s.x a).setWidth 32).toNat))

/-- The field of `len + 1` bits from bit `pos` (R248). -/
def fieldMask (p l : BitVec 6) : BitVec 64 := BitVec.ofNat 64 ((2 ^ (l.toNat + 1) - 1) * 2 ^ p.toNat)

def execExtr (d a : BitVec 5) (g : BitVec 1) (p l : BitVec 6) (s : State) : Out :=
  let sh := 63 - l.toNat
  let f := (s.x a >>> p.toNat) <<< sh
  s.scalar 1 d (if g = 1#1 then f.sshiftRight sh else f >>> sh)

def execInsr (d a : BitVec 5) (p l : BitVec 6) (s : State) : Out :=
  s.scalar 1 d ((s.x d &&& ~~~(fieldMask p l)) ||| ((s.x a <<< p.toNat) &&& fieldMask p l))

def execLi (d : BitVec 5) (i : BitVec 19) (s : State) : Out := s.scalar 1 d (i.signExtend 64)

def execLih (d : BitVec 5) (p : BitVec 3) (c : BitVec 16) (s : State) : Out :=
  let sh := 16 * p.toNat
  s.scalar 1 d ((s.x d &&& ~~~(0xFFFF#64 <<< sh)) ||| (c.setWidth 64 <<< sh))

def execBr (c : BitVec 3) (a : BitVec 5) (o : BitVec 16) (s : State) : Out :=
  .next (if condHolds c (s.x a) then s.goTo (s.cur.pc + o.signExtend 48 * stepBytes s.focus) else s.complete)

def execJmp (l : BitVec 1) (o : BitVec 23) (s : State) : Out :=
  let u := stepBytes s.focus
  let s1 := if l = 1#1 then s.setX 1 31#5 ((s.cur.pc + u).setWidth 64) else s
  .next (s1.goTo (s.cur.pc + o.signExtend 48 * u))

def execJmpr (d a : BitVec 5) (s : State) : Out :=
  let u := stepBytes s.focus
  let t := (s.x a).setWidth 48
  .next (if t.toNat % u.toNat ≠ 0 then s.trap 0x07 (t.setWidth 64) 0
    else (s.setX 1 d ((s.cur.pc + u).setWidth 64)).goTo t)

/-- Entries of the hardware loop stack (R254). -/
def maxLoops : Nat := 6

def execLoop (a : BitVec 5) (i : BitVec 14) (s : State) : Out :=
  let u := stepBytes s.focus
  let c := s.cur
  let far := i.setWidth 48 * u
  .next (if s.x a = 0#64 then s.goTo (c.pc + far + u)
    else if maxLoops ≤ c.loops.length then s.trap 0x1C (c.pc.setWidth 64) 0
    else s.setCur { c with loops := ⟨s.x a, 0#64, c.pc + u, c.pc + far⟩ :: c.loops, pc := c.pc + u })

def execLexit (a : BitVec 5) (n : BitVec 3) (s : State) : Out :=
  let c := s.cur
  .next (if a ≠ 0#5 ∧ s.x a = 0#64 then s.complete
    else match c.loops[n.toNat]? with
      | none => s.trap 0x1C (c.pc.setWidth 64) 1
      | some e => (s.setCur { c with loops := c.loops.drop (n.toNat + 1) }).goTo (e.last + stepBytes s.focus))

def execLidx (d : BitVec 5) (l : BitVec 3) (s : State) : Out :=
  s.scalar 1 d (match s.cur.loops[l.toNat]? with
    | some e => e.idx
    | none => 0#64)

end Sys2Proof.Machine
end

