-- ==== Sys2Proof/Machine/Dispatch.lean ====
section
/-! DEFINITION. The dispatch: one arm per constructor of Instr, each one direct call of its meaning. -/

namespace Sys2Proof.Machine

def exec (i : Instr) (s : State) : Host.Outcome State Fault Refusal :=
  match i with
  | .nop => Sys2Proof.Machine.execNop s
  | .add d a b s1 => Sys2Proof.Machine.execAdd d a b s1 s
  | .sub d a b s1 => Sys2Proof.Machine.execSub d a b s1 s
  | .addi d a i1 => Sys2Proof.Machine.execAddi d a i1 s
  | .mul d a b => Sys2Proof.Machine.execMul d a b s
  | .mulh d a b u => Sys2Proof.Machine.execMulh d a b u s
  | .div d a b u => Sys2Proof.Machine.execDiv d a b u s
  | .rem d a b u => Sys2Proof.Machine.execRem d a b u s
  | .and d a b => Sys2Proof.Machine.execAnd d a b s
  | .or d a b => Sys2Proof.Machine.execOr d a b s
  | .xor d a b => Sys2Proof.Machine.execXor d a b s
  | .logi d a f i1 => Sys2Proof.Machine.execLogi d a f i1 s
  | .shift d a b f => Sys2Proof.Machine.execShift d a b f s
  | .shifti d a f n => Sys2Proof.Machine.execShifti d a f n s
  | .cmp d a b f => Sys2Proof.Machine.execCmp d a b f s
  | .cmpi d a f i1 => Sys2Proof.Machine.execCmpi d a f i1 s
  | .min d a b u => Sys2Proof.Machine.execMin d a b u s
  | .max d a b u => Sys2Proof.Machine.execMax d a b u s
  | .sel d a b c x => Sys2Proof.Machine.execSel d a b c x s
  | .bitc d a w o => Sys2Proof.Machine.execBitc d a w o s
  | .extr d a s1 p l => Sys2Proof.Machine.execExtr d a s1 p l s
  | .insr d a p l => Sys2Proof.Machine.execInsr d a p l s
  | .li d i1 => Sys2Proof.Machine.execLi d i1 s
  | .lih d p c => Sys2Proof.Machine.execLih d p c s
  | .br c a o => Sys2Proof.Machine.execBr c a o s
  | .jmp l o => Sys2Proof.Machine.execJmp l o s
  | .jmpr d a => Sys2Proof.Machine.execJmpr d a s
  | .loop a i1 => Sys2Proof.Machine.execLoop a i1 s
  | .lexit a n => Sys2Proof.Machine.execLexit a n s
  | .lidx d l => Sys2Proof.Machine.execLidx d l s
  | .ld d h a w o i1 => Sys2Proof.Machine.execLd d h a w o i1 s
  | .st d h a w o i1 => Sys2Proof.Machine.execSt d h a w o i1 s
  | .ldv d h a o i1 => Sys2Proof.Machine.execLdv d h a o i1 s
  | .stv d h a o i1 => Sys2Proof.Machine.execStv d h a o i1 s
  | .ldvs d a b m q e => Sys2Proof.Machine.execLdvs d a b m q e s
  | .stvs d a b m q e => Sys2Proof.Machine.execStvs d a b m q e s
  | .trns d a => Sys2Proof.Machine.execTrns d a s
  | .trnsPhys d a r l => Sys2Proof.Machine.execTrnsPhys d a r l s
  | .hinv a b s1 => Sys2Proof.Machine.execHinv a b s1 s
  | .hop d n o => Sys2Proof.Machine.execHop d n o s
  | .drop a b => Sys2Proof.Machine.execDrop a b s
  | .amo d a b m o z f => Sys2Proof.Machine.execAmo d a b m o z f s
  | .cas d a b m o z => Sys2Proof.Machine.execCas d a b m o z s
  | .radd d a m t q => Sys2Proof.Machine.execRadd d a m t q s
  | .raddTable d a b t q => Sys2Proof.Machine.execRaddTable d a b t q s
  | .rst d h a w o i1 => Sys2Proof.Machine.execRst d h a w o i1 s
  | .rld d h a w o i1 => Sys2Proof.Machine.execRld d h a w o i1 s
  | .rldMigrate h a w i1 => Sys2Proof.Machine.execRldMigrate h a w i1 s
  | .fence k s1 => Sys2Proof.Machine.execFence k s1 s
  | .msarm a b m r => Sys2Proof.Machine.execMsarm a b m r s
  | .mswait d a b m => Sys2Proof.Machine.execMswait d a b m s
  | .mspost a b m => Sys2Proof.Machine.execMspost a b m s
  | .rbind d a b m r w x => Sys2Proof.Machine.execRbind d a b m r w x s
  | .rfree a => Sys2Proof.Machine.execRfree a s
  | .rmap a b => Sys2Proof.Machine.execRmap a b s
  | .rdone a => Sys2Proof.Machine.execRdone a s
  | .lstn d a b m q => Sys2Proof.Machine.execLstn d a b m q s
  | .lstnCancel d => Sys2Proof.Machine.execLstnCancel d s
  | .annc d a b => Sys2Proof.Machine.execAnnc d a b s
  | .wpb d => Sys2Proof.Machine.execWpb d s
  | .wpc => Sys2Proof.Machine.execWpc s
  | .pfl d h a i1 => Sys2Proof.Machine.execPfl d h a i1 s
  | .plu h a i1 => Sys2Proof.Machine.execPlu h a i1 s
  | .mstest d a m => Sys2Proof.Machine.execMstest d a m s
  | .ltabSel d a => Sys2Proof.Machine.execLtabSel d a s
  | .ltabInst d a => Sys2Proof.Machine.execLtabInst d a s
  | .ltabRm d a => Sys2Proof.Machine.execLtabRm d a s
  | .lgath d a b => Sys2Proof.Machine.execLgath d a b s
  | .luniq d a b => Sys2Proof.Machine.execLuniq d a b s
  | .lred d a b o f => Sys2Proof.Machine.execLred d a b o f s
  | .lscat d a b => Sys2Proof.Machine.execLscat d a b s
  | .lseg d a b => Sys2Proof.Machine.execLseg d a b s
  | .lhome d a b c => Sys2Proof.Machine.execLhome d a b c s
  | .lpart d a b => Sys2Proof.Machine.execLpart d a b s
  | .lsend a b m => Sys2Proof.Machine.execLsend a b m s
  | .lrecv d a b => Sys2Proof.Machine.execLrecv d a b s
  | .lexp d a b f => Sys2Proof.Machine.execLexp d a b f s
  | .lacc a f => Sys2Proof.Machine.execLacc a f s
  | .lcnt d a b => Sys2Proof.Machine.execLcnt d a b s
  | .lsort d a b p => Sys2Proof.Machine.execLsort d a b p s
  | .lmrg d a b m => Sys2Proof.Machine.execLmrg d a b m s
  | .lfilt d a b i1 => Sys2Proof.Machine.execLfilt d a b i1 s
  | .lzero d a b => Sys2Proof.Machine.execLzero d a b s
  | .lstep d a i1 => Sys2Proof.Machine.execLstep d a i1 s
  | .lpeek d a b => Sys2Proof.Machine.execLpeek d a b s
  | .lwb d a b => Sys2Proof.Machine.execLwb d a b s
  | .vadd d a b t q v => Sys2Proof.Machine.execVadd d a b t q v s
  | .vsub d a b t q v => Sys2Proof.Machine.execVsub d a b t q v s
  | .vmul d a b t q v => Sys2Proof.Machine.execVmul d a b t q v s
  | .vfma d a b t q v => Sys2Proof.Machine.execVfma d a b t q v s
  | .vdiv d a b t q v => Sys2Proof.Machine.execVdiv d a b t q v s
  | .vmin d a b t q v => Sys2Proof.Machine.execVmin d a b t q v s
  | .vmax d a b t q v => Sys2Proof.Machine.execVmax d a b t q v s
  | .vneg d a t q v => Sys2Proof.Machine.execVneg d a t q v s
  | .vcmp d a b t q f => Sys2Proof.Machine.execVcmp d a b t q f s
  | .vsel d a b t q => Sys2Proof.Machine.execVsel d a b t q s
  | .vand d a b t q => Sys2Proof.Machine.execVand d a b t q s
  | .vor d a b t q => Sys2Proof.Machine.execVor d a b t q s
  | .vxor d a b t q => Sys2Proof.Machine.execVxor d a b t q s
  | .vshf d a b t q f => Sys2Proof.Machine.execVshf d a b t q f s
  | .vcvt d a x y q r => Sys2Proof.Machine.execVcvt d a x y q r s
  | .vsca d a b t q v => Sys2Proof.Machine.execVsca d a b t q v s
  | .vred d a c t q v => Sys2Proof.Machine.execVred d a c t q v s
  | .vbcst d a t q => Sys2Proof.Machine.execVbcst d a t q s
  | .vmovxGet d a b t s1 => Sys2Proof.Machine.execVmovxGet d a b t s1 s
  | .vmovxPut d a b t => Sys2Proof.Machine.execVmovxPut d a b t s
  | .vperm d a b t q => Sys2Proof.Machine.execVperm d a b t q s
  | .vexp2 d a t q v => Sys2Proof.Machine.execVexp2 d a t q v s
  | .vlog2 d a t q v => Sys2Proof.Machine.execVlog2 d a t q v s
  | .vrcp d a t q v => Sys2Proof.Machine.execVrcp d a t q v s
  | .vrsq d a t q v => Sys2Proof.Machine.execVrsq d a t q v s
  | .vsqrt d a t q v => Sys2Proof.Machine.execVsqrt d a t q v s
  | .viota d a b t q => Sys2Proof.Machine.execViota d a b t q s
  | .vcnt d a t q v => Sys2Proof.Machine.execVcnt d a t q v s
  | .vpack d a b m s1 p => Sys2Proof.Machine.execVpack d a b m s1 p s
  | .vunpk d a b m s1 p => Sys2Proof.Machine.execVunpk d a b m s1 p s
  | .vrng d t q => Sys2Proof.Machine.execVrng d t q s
  | .vkop d a b l => Sys2Proof.Machine.execVkop d a b l s
  | .vsetl d a t => Sys2Proof.Machine.execVsetl d a t s
  | .mcfg d a => Sys2Proof.Machine.execMcfg d a s
  | .mfda d a b n => Sys2Proof.Machine.execMfda d a b n s
  | .mfdb d a b n => Sys2Proof.Machine.execMfdb d a b n s
  | .msq d a b => Sys2Proof.Machine.execMsq d a b s
  | .mhem a => Sys2Proof.Machine.execMhem a s
  | .msa d a b => Sys2Proof.Machine.execMsa d a b s
  | .mchk => Sys2Proof.Machine.execMchk s
  | .mzero d => Sys2Proof.Machine.execMzero d s
  | .mst d a b r f => Sys2Proof.Machine.execMst d a b r f s
  | .mld d a b f => Sys2Proof.Machine.execMld d a b f s
  | .mswap d a => Sys2Proof.Machine.execMswap d a s
  | .mspec d a z => Sys2Proof.Machine.execMspec d a z s
  | .mrdv d a b h => Sys2Proof.Machine.execMrdv d a b h s
  | .mwrv d a b p h => Sys2Proof.Machine.execMwrv d a b p h s
  | .cpl d a k => Sys2Proof.Machine.execCpl d a k s
  | .cps d a k => Sys2Proof.Machine.execCps d a k s
  | .cpg d a k => Sys2Proof.Machine.execCpg d a k s
  | .cpx d a k => Sys2Proof.Machine.execCpx d a k s
  | .cpbc d a k => Sys2Proof.Machine.execCpbc d a k s
  | .cpmc d a k => Sys2Proof.Machine.execCpmc d a k s
  | .cpqt d a k => Sys2Proof.Machine.execCpqt d a k s
  | .cpfl d a k => Sys2Proof.Machine.execCpfl d a k s
  | .cpof d a k => Sys2Proof.Machine.execCpof d a k s
  | .cpin d a k => Sys2Proof.Machine.execCpin d a k s
  | .cseal d => Sys2Proof.Machine.execCseal d s
  | .cwait n => Sys2Proof.Machine.execCwait n s
  | .cwaitTok d a => Sys2Proof.Machine.execCwaitTok d a s
  | .cstat d a k => Sys2Proof.Machine.execCstat d a k s
  | .ccan a l => Sys2Proof.Machine.execCcan a l s
  | .ctok d a => Sys2Proof.Machine.execCtok d a s
  | .cpri p => Sys2Proof.Machine.execCpri p s
  | .cpck d a k => Sys2Proof.Machine.execCpck d a k s
  | .cpmg d a k => Sys2Proof.Machine.execCpmg d a k s
  | .cpvl d a k => Sys2Proof.Machine.execCpvl d a k s
  | .cbko d a => Sys2Proof.Machine.execCbko d a s
  | .trap c => Sys2Proof.Machine.execTrap c s
  | .tret => Sys2Proof.Machine.execTret s
  | .srget d r => Sys2Proof.Machine.execSrget d r s
  | .srset a r => Sys2Proof.Machine.execSrset a r s
  | .srxch d a r => Sys2Proof.Machine.execSrxch d a r s
  | .wait => Sys2Proof.Machine.execWait s
  | .yield => Sys2Proof.Machine.execYield s
  | .tspawn d a b h p w => Sys2Proof.Machine.execTspawn d a b h p w s
  | .thold a s1 => Sys2Proof.Machine.execThold a s1 s
  | .trdy a => Sys2Proof.Machine.execTrdy a s
  | .tend => Sys2Proof.Machine.execTend s
  | .tchan d u c => Sys2Proof.Machine.execTchan d u c s
  | .msg d a c => Sys2Proof.Machine.execMsg d a c s
  | .migr a => Sys2Proof.Machine.execMigr a s
  | .migrHandle a n => Sys2Proof.Machine.execMigrHandle a n s
  | .spawn a b => Sys2Proof.Machine.execSpawn a b s
  | .spawnHandle a b n => Sys2Proof.Machine.execSpawnHandle a b n s
  | .tkpri a b => Sys2Proof.Machine.execTkpri a b s
  | .timer d a => Sys2Proof.Machine.execTimer d a s
  | .gang d a => Sys2Proof.Machine.execGang d a s
  | .gkeyAdd d a => Sys2Proof.Machine.execGkeyAdd d a s
  | .gkeyRm d a => Sys2Proof.Machine.execGkeyRm d a s
  | .redn d c => Sys2Proof.Machine.execRedn d c s
  | .vcgrp d a => Sys2Proof.Machine.execVcgrp d a s
  | .vcsyn => Sys2Proof.Machine.execVcsyn s
  | .ctxs d a n => Sys2Proof.Machine.execCtxs d a n s
  | .ctxl a n => Sys2Proof.Machine.execCtxl a n s
  | .scrub d a b n => Sys2Proof.Machine.execScrub d a b n s
  | .brk c => Sys2Proof.Machine.execBrk c s
  | .evsel d a n => Sys2Proof.Machine.execEvsel d a n s
  | .dreg a b m n => Sys2Proof.Machine.execDreg a b m n s
  | .launch d a n => Sys2Proof.Machine.execLaunch d a n s
  | .halt a => Sys2Proof.Machine.execHalt a s
  | .translationWalkComplete who d va start => Sys2Proof.Machine.execTranslationWalkComplete who d va start s
  | .launchValidate port => Sys2Proof.Machine.execLaunchValidate port s
  | .bindRecord die => Sys2Proof.Machine.execBindRecord die s
  | .dependenceMet tag => Sys2Proof.Machine.execDependenceMet tag s
  | .slotGrant core => Sys2Proof.Machine.execSlotGrant core s
  | .repartition core banks => Sys2Proof.Machine.execRepartition core banks s
  | .contextSwapComplete core slot => Sys2Proof.Machine.execContextSwapComplete core slot s
  | .contextAreaReadback core task tid => Sys2Proof.Machine.execContextAreaReadback core task tid s
  | .watchNotify core pa => Sys2Proof.Machine.execWatchNotify core pa s
  | .timerExpiry u task => Sys2Proof.Machine.execTimerExpiry u task s
  | .taskEnd core task => Sys2Proof.Machine.execTaskEnd core task s
  | .launchComplete tag => Sys2Proof.Machine.execLaunchComplete tag s
  | .denseBankSwitch tile => Sys2Proof.Machine.execDenseBankSwitch tile s
  | .replyWritten r => Sys2Proof.Machine.execReplyWritten r s
  | .lateReplyArrival r => Sys2Proof.Machine.execLateReplyArrival r s
  | .storeBufferDrain core => Sys2Proof.Machine.execStoreBufferDrain core s
  | .homeRequest r => Sys2Proof.Machine.execHomeRequest r s
  | .forwardedOperation core token r => Sys2Proof.Machine.execForwardedOperation core token r s
  | .rdoneEndMarker core token who => Sys2Proof.Machine.execRdoneEndMarker core token who s
  | .homeGather g => Sys2Proof.Machine.execHomeGather g s
  | .gatherResend g => Sys2Proof.Machine.execGatherResend g s
  | .homeAccumulate a => Sys2Proof.Machine.execHomeAccumulate a s
  | .homeRowWriteback w => Sys2Proof.Machine.execHomeRowWriteback w s
  | .homeZero z => Sys2Proof.Machine.execHomeZero z s
  | .subscriberDelivery d => Sys2Proof.Machine.execSubscriberDelivery d s
  | .milestoneContribution pa n => Sys2Proof.Machine.execMilestoneContribution pa n s
  | .journalAck who jent => Sys2Proof.Machine.execJournalAck who jent s
  | .refusalArrival who jent r last => Sys2Proof.Machine.execRefusalArrival who jent r last s
  | .waypointCommitApply who => Sys2Proof.Machine.execWaypointCommitApply who s
  | .revocationPortGo control value => Sys2Proof.Machine.execRevocationPortGo control value s
  | .revocationApply u r => Sys2Proof.Machine.execRevocationApply u r s
  | .revocationAck u r => Sys2Proof.Machine.execRevocationAck u r s
  | .revocationComplete r => Sys2Proof.Machine.execRevocationComplete r s
  | .copyBeat engine => Sys2Proof.Machine.execCopyBeat engine s
  | .copyCommandComplete engine cmd => Sys2Proof.Machine.execCopyCommandComplete engine cmd s
  | .edgeAccept u cmd => Sys2Proof.Machine.execEdgeAccept u cmd s
  | .producerEnd key granule => Sys2Proof.Machine.execProducerEnd key granule s
  | .travelContextArrival t => Sys2Proof.Machine.execTravelContextArrival t s
  | .spillReturn core => Sys2Proof.Machine.execSpillReturn core s
  | .contextReturn t => Sys2Proof.Machine.execContextReturn t s
  | .trapDrain tile => Sys2Proof.Machine.execTrapDrain tile s
  | .coreFence u value => Sys2Proof.Machine.execCoreFence u value s
  | .nqheadWrite value => Sys2Proof.Machine.execNqheadWrite value s
  | .fqheadWrite value => Sys2Proof.Machine.execFqheadWrite value s
  | .gangStartMessage k slow => Sys2Proof.Machine.execGangStartMessage k slow s
  | .gangStopComplete k => Sys2Proof.Machine.execGangStopComplete k s
  | .reinjectionComplete k => Sys2Proof.Machine.execReinjectionComplete k s
  | .lctlFullRetrain port => Sys2Proof.Machine.execLctlFullRetrain port s
  | .lctlDisable port dis => Sys2Proof.Machine.execLctlDisable port dis s
  | .registerWrite space key ofs value => Sys2Proof.Machine.execRegisterWrite space key ofs value s
  | .pflFillArrival core line data noAlloc => Sys2Proof.Machine.execPflFillArrival core line data noAlloc s
  | .tileWindowAccess r => Sys2Proof.Machine.execTileWindowAccess r s
  | .lsendSegmentArrival g => Sys2Proof.Machine.execLsendSegmentArrival g s
  | .taskOperationArrival t => Sys2Proof.Machine.execTaskOperationArrival t s
  | .launchPortRecord port record whole => Sys2Proof.Machine.execLaunchPortRecord port record whole s
  | .companionTimeout tag => Sys2Proof.Machine.execCompanionTimeout tag s
  | .dispatchPlacement die record => Sys2Proof.Machine.execDispatchPlacement die record s
  | .ageTick core => Sys2Proof.Machine.execAgeTick core s
  | .sliceExpiry who => Sys2Proof.Machine.execSliceExpiry who s
  | .contextAreaWriteback core => Sys2Proof.Machine.execContextAreaWriteback core s
  | .l1Eviction core set way => Sys2Proof.Machine.execL1Eviction core set way s
  | .gatherWaitTimeout pair index => Sys2Proof.Machine.execGatherWaitTimeout pair index s
  | .mergeWindowExpiry id => Sys2Proof.Machine.execMergeWindowExpiry id s
  | .refusalTaken who => Sys2Proof.Machine.execRefusalTaken who s
  | .waypointHoldTimeout who => Sys2Proof.Machine.execWaypointHoldTimeout who s
  | .waypointRollback who cause => Sys2Proof.Machine.execWaypointRollback who cause s
  | .copyPriorityAging engine cmd => Sys2Proof.Machine.execCopyPriorityAging engine cmd s
  | .edgeRefusal u cmd hint => Sys2Proof.Machine.execEdgeRefusal u cmd hint s
  | .edgeRetry u cmd => Sys2Proof.Machine.execEdgeRetry u cmd s
  | .park who cause tval tinfo dt uh => Sys2Proof.Machine.execPark who cause tval tinfo dt uh s
  | .gangPortSwitch key slow => Sys2Proof.Machine.execGangPortSwitch key slow s
  | .gangPortPageOut key => Sys2Proof.Machine.execGangPortPageOut key s
  | .gangPortPageIn key => Sys2Proof.Machine.execGangPortPageIn key s
  | .sweepMarker k port vc => Sys2Proof.Machine.execSweepMarker k port vc s
  | .sweepLinkTimeout k port => Sys2Proof.Machine.execSweepLinkTimeout k port s
  | .gkeyRemoveMessage key src => Sys2Proof.Machine.execGkeyRemoveMessage key src s
  | .packetArrival port p => Sys2Proof.Machine.execPacketArrival port p s
  | .seqGapTimeout src dst vc => Sys2Proof.Machine.execSeqGapTimeout src dst vc s
  | .unreachableTimeout index => Sys2Proof.Machine.execUnreachableTimeout index s
  | .flitArrival port crcOk f => Sys2Proof.Machine.execFlitArrival port crcOk f s
  | .flitAck port num => Sys2Proof.Machine.execFlitAck port num s
  | .flowControlSignal port vc stop => Sys2Proof.Machine.execFlowControlSignal port vc stop s
  | .laneFailure port lane => Sys2Proof.Machine.execLaneFailure port lane s
  | .retrainComplete port rtt => Sys2Proof.Machine.execRetrainComplete port rtt s
  | .hwinWrite value => Sys2Proof.Machine.execHwinWrite value s
  | .hostWindowAccess a => Sys2Proof.Machine.execHostWindowAccess a s
  | .hostSnoop line => Sys2Proof.Machine.execHostSnoop line s
  | .hostCacheReply line kind data error => Sys2Proof.Machine.execHostCacheReply line kind data error s
  | .attestationRequest nonce => Sys2Proof.Machine.execAttestationRequest nonce s
  | .firmwareVerify image fail => Sys2Proof.Machine.execFirmwareVerify image fail s
  | .stageCReached failedPorts => Sys2Proof.Machine.execStageCReached failedPorts s
  | .throttleRaise tmax pwr thbm => Sys2Proof.Machine.execThrottleRaise tmax pwr thbm s
  | .throttleLower tmax pwr thbm => Sys2Proof.Machine.execThrottleLower tmax pwr thbm s
  | .thermalTrip tmax => Sys2Proof.Machine.execThermalTrip tmax s
  | .storageError pa corrected => Sys2Proof.Machine.execStorageError pa corrected s
  | .backInvalidateResponse line => Sys2Proof.Machine.execBackInvalidateResponse line s
  | .replayTimeout port => Sys2Proof.Machine.execReplayTimeout port s
  | .counterDecay => Sys2Proof.Machine.execCounterDecay s
  | .planePageComplete => Sys2Proof.Machine.execPlanePageComplete s
  | .partitionPortAdmit => Sys2Proof.Machine.execPartitionPortAdmit s
  | .partitionPortCreate => Sys2Proof.Machine.execPartitionPortCreate s
  | .certificateRead => Sys2Proof.Machine.execCertificateRead s
  | .powerGood => Sys2Proof.Machine.execPowerGood s
  | .cxlLinkDown => Sys2Proof.Machine.execCxlLinkDown s

end Sys2Proof.Machine
end

