-- ==== Sys2Proof/Machine/Clocks.lean ====
section
/-! DEFINITION. What the passing of time brings about at the end of a cycle: decay, waits of gathers, merge windows, unacknowledged pending
operations, aging and retries of copy commands, gaps and missing paths of the fabric, replays and sweeps (R29, R83, R85, R143, R152, R361,
R386, R388, R402, R406, R407). Each is the step that the row of its name performs. -/

namespace Sys2Proof.Machine

/-- Whether `n` memory cycles have passed since a cycle. -/
def State.past (s : State) (since n : Nat) : Bool := decide (since + memoryCycles n ≤ s.cycle)

/-- The end of a decay interval (R29, R30). The intervals are counted from reset. -/
def State.tickDecay (s : State) : State :=
  let n := s.regs.decay.toNat * 1024
  let count (c : Nat) : Nat := c * 16 / 13 / n
  if n = 0 ∨ s.cycle = 0 ∨ count s.cycle = count (s.cycle - 1) then s else s.decayCounters

/-- A gather that has waited beyond the limit is refused (R85), the oldest first; `fuel` bounds their number. -/
def State.tickWaiting (fuel : Nat) (s : State) : State :=
  let limit := (s.regs.rcontrol.extractLsb' 0 32).toNat * 1024
  match fuel, s.homes.waiting.find? fun (w : Nat × Gather) => limit ≠ 0 && s.past w.2.since limit with
  | n + 1, some w => State.tickWaiting n (s.gatherTimedOut w.1 ((s.homes.waiting.filter fun (v : Nat × Gather) => v.1 = w.1).idxOf w))
  | _, _ => s

/-- Merge entries take no request later than 256 memory cycles after their first (R83). -/
def State.tickMerges (s : State) : State :=
  let old (m : MergeEntry) : Bool := !m.closed && decide (m.born + memoryCycles 256 < s.cycle)
  (s.homes.merges.filter old).foldl (fun x m => x.closeMerge m.id) s

/-- A thread whose pending operation has not been acknowledged as held within 2^20 memory cycles (R361). -/
def State.tickWaypoints (s : State) : State :=
  let late (e : Nat × Ctx) : Bool := e.2.journal.any fun j => j.2.held && decide (j.2.atSite < j.2.parts) && s.past j.2.since (2 ^ 20)
  ((s.ctxs.filter late).map fun e => agentOfId e.1).foldl (fun x a =>
    if x.gang.suspended.contains (x.coreKey a) then x else x.holdTimedOut a) s

/-- The commands of an engine: 2^16 memory cycles without a beat raise a command's priority (R143), and a refused one is offered again after its wait
(R152). Cycles of a key that is out do not count (R388). -/
def State.tickEngine (s : State) (unit : Nat) : State :=
  let out (c : CopyCmd) : Bool := s.gang.suspended.contains c.key
  let aged := (s.copies unit).filter fun c => !out c && c.prio ≠ 0 && s.past c.since (2 ^ 16)
  let again := (s.copies unit).filter fun c => !out c && c.retryAt.any fun t => decide (t ≤ s.cycle)
  let due (c : CopyCmd) : Bool := again.any fun d => d.id = c.id
  let s1 := s.setCopies unit ((s.copies unit).map fun c => if out c then CopyCmd.unclock 1 c else if due c then { c with retryAt := none } else c)
  again.foldl (fun x c => x.offerEdge (agentCore c.who) c.id) (aged.foldl (fun x c => x.agePriority unit c.id) s1)

def State.tickEngines (s : State) : State :=
  s.engines.foldl (fun x u => if x.copies u = [] then x else x.tickEngine u) s

/-- A packet held behind a gap for 2^20 memory cycles (R406). -/
def State.tickGaps (s : State) : State :=
  let gaps := ((s.fabric.held.filter fun e => s.past e.2.since (2 ^ 20)).map fun e => (moduleOfNumber e.2.src, moduleOfNumber e.2.dst, e.2.vc)).eraseDups
  gaps.foldl (fun x g => x.gapTimedOut g.1 g.2.1 g.2.2) s

/-- Packets that have waited for a path for 2^20 memory cycles (R407); `fuel` bounds their number. Control packets wait on, and travel contexts while
their destination admits their key. -/
def State.tickPaths (fuel : Nat) (s : State) : State :=
  let ends (p : Packet) : Bool := s.past p.since (2 ^ 20) && p.vc ≠ 0 && (p.vc ≠ 4 || !s.admits (moduleOfNumber p.dst) p.key)
  match fuel, s.fabric.waiting.findIdx? ends with
  | n + 1, some i => State.tickPaths n (s.pathTimedOut i)
  | _, _ => s

/-- A link: its oldest flit unacknowledged for 2t + 200 ns is sent again with those behind it (R397, R402), and 2^16 memory cycles down end its count
in a sweep (R386). -/
def State.tickPort (s : State) (n : Nat) : State :=
  let q := getAt s.fabric.ports n Port.reset
  let s1 := match q.replay with
    | [] => s
    | f :: _ =>
      if q.state ≠ .up then s
      else if f.num ≠ q.oldest ∨ q.sentAt = 0 then s.setPort n { q with oldest := f.num, sentAt := s.timeNs }
      else if q.sentAt + 2 * q.rtt + 200 ≤ s.timeNs then (s.setPort n { q with sentAt := s.timeNs }).replayPort n
      else s
  let waits (r : GangRun) : Bool := r.phase = 2 && r.ports.contains n && !r.gone.contains n
  if q.state = .up || !s.past q.downAt (2 ^ 16) then s1
  else (s.gang.runs.filter waits).foldl (fun x r => x.linkTimedOut r.out n) s1

/-- What the passing of a cycle brings about. -/
def State.tickClocks (s : State) : State :=
  let s1 := (State.tickWaiting s.homes.waiting.length s.tickDecay).tickMerges.tickWaypoints.tickEngines.tickGaps
  let s2 := State.tickPaths s1.fabric.waiting.length s1
  (s2.fabric.ports.map (·.1)).foldl (fun x n => x.tickPort n) s2

end Sys2Proof.Machine
end

