-- ==== Sys2Proof/Machine/Stitch.lean ====
section
/-! DEFINITION. Double stitch (R43, R102, R165 to R168, R346): what the two threads of a pair do alone, what passes through the load-value
queue and the store comparator, and how a pair traps, takes refusals and mismatches. -/

namespace Sys2Proof.Machine

/-! ### What an instruction passes (R166, R167) -/

/-- How the threads of a pair perform an instruction: each for itself; once, its value passed to the trailing thread; once, as an effect
that the first thread goes on from; once, as an effect whose end both wait for; or each, where both have come to it. -/
inductive Passing where
  | own
  | value
  | posted
  | shared
  | meet
  deriving DecidableEq, Repr

/-- The state registers whose value comes from outside the pair's registers, or whose write is seen outside (R166, R167). -/
def srOutside (n : Nat) : Bool := [0x026, 0x027, 0x029, 0x02C, 0x02D, 0x02F, 0x030, 0x031, 0x051, 0x052].contains n || decide (0x080 ≤ n)

def passing (i : Instr) : Passing :=
  match i with
  | .ld .. | .ldv .. | .ldvs .. | .rld .. | .trns .. | .trnsPhys .. | .pfl .. | .plu .. | .mswait .. | .mstest .. | .cwait .. | .cwaitTok ..
  | .cstat .. | .ctok .. => .value
  | .srget _ r => if srOutside r.toNat then .value else .own
  | .st .. | .stv .. | .stvs .. | .rst .. | .radd .. | .raddTable .. | .mspost .. | .annc .. | .lacc .. | .lsend .. | .msg .. | .thold ..
  | .trdy .. | .tkpri .. | .spawn .. | .spawnHandle .. => .posted
  | .amo d .. => if d = 0#5 then .posted else .shared
  | .srset _ r => if srOutside r.toNat then .shared else .own
  | .srxch _ _ r => if srOutside r.toNat then .shared else .own
  | .cas .. | .hinv .. | .drop .. | .fence .. | .msarm .. | .rbind .. | .rfree .. | .rmap .. | .rdone .. | .lstn .. | .lstnCancel ..
  | .wpc | .rldMigrate .. | .ltabSel .. | .ltabInst .. | .ltabRm .. | .lgath .. | .luniq .. | .lred .. | .lscat .. | .lseg .. | .lhome ..
  | .lpart .. | .lrecv .. | .lexp .. | .lcnt .. | .lsort .. | .lmrg .. | .lfilt .. | .lzero .. | .lstep .. | .lpeek .. | .lwb ..
  | .cpl .. | .cps .. | .cpg .. | .cpx .. | .cpbc .. | .cpmc .. | .cpqt .. | .cpfl .. | .cpof .. | .cpin .. | .cpck .. | .cpmg .. | .cpvl ..
  | .cseal .. | .ccan .. | .wait | .yield | .tspawn .. | .tend | .tchan .. | .migr .. | .migrHandle ..
  | .timer .. | .gang .. | .gkeyAdd .. | .gkeyRm .. | .ctxs .. | .ctxl .. | .scrub .. | .evsel .. | .dreg .. | .launch .. | .halt .. => .shared
  | .wpb .. => .meet
  | .redn _ c => if c = 1#1 then .meet else .own
  | _ => .own

/-- The values that an instruction puts into its effect, in the order address, data: what the store comparator compares beside the
instruction's own fields (R167). A store and a remote operation put their bytes, an instruction with a descriptor, a list or a token
the registers that name it. -/
def State.effectValues (s : State) (i : Instr) : List Nat :=
  let x (d : BitVec 5) : Nat := (s.x d).toNat
  let group (g : BitVec 5 × Nat) : List Nat := (List.range g.2).map fun k => (s.xg g.1 k).toNat
  let lanes (d : BitVec 5) (es : Nat) (q : BitVec 3) : List Nat :=
    (s.activeLanes q (8 * es)).flatMap fun l => [l, laneOf (s.v d) (8 * es) l]
  match i with
  | .st d _ a w _ _ | .rst d _ a w _ _ => [x a, x d % 2 ^ (8 * widthBytes w)]
  | .stv d _ a _ _ => [x a, (s.v d).toNat % 2 ^ (8 * vectorBytes s.focus)]
  | .stvs d a b _ q e => [x a, x b] ++ lanes d (2 ^ e.toNat) q
  | .radd d a _ t q => x a :: lanes d (raddBytes t) q
  | .raddTable d a b t q => [x a, x b] ++ lanes d (raddBytes t) q
  | .amo _ a b _ _ z _ => [x a, x b % 2 ^ (32 * 2 ^ z.toNat)]
  | .cas d a b _ _ z => [x a, x d % 2 ^ (32 * 2 ^ z.toNat), x b % 2 ^ (32 * 2 ^ z.toNat)]
  | .annc d a b | .lstn d a b _ _ => [x d, x a, x b]
  | .msg d a _ => [x a, x d % 2 ^ 48]
  | .rdone a | .rfree a | .migr a | .migrHandle a _ | .ctxl a _ | .halt a | .thold a _ | .trdy a | .srset a _ | .srxch _ a _
  | .rldMigrate _ a _ _ | .ltabSel _ a | .ltabInst _ a | .ltabRm _ a | .lstep _ a _ | .lacc a _ | .ccan a _ | .timer _ a | .gang _ a
  | .gkeyAdd _ a | .gkeyRm _ a | .ctxs _ a _ | .evsel _ a _ | .launch _ a _
  | .cpl _ a _ | .cps _ a _ | .cpg _ a _ | .cpx _ a _ | .cpbc _ a _ | .cpmc _ a _ | .cpqt _ a _ | .cpfl _ a _ | .cpof _ a _
  | .cpin _ a _ | .cpck _ a _ | .cpmg _ a _ | .cpvl _ a _ => x a :: i.scalarGroups.flatMap group
  | .lstnCancel d => [x d]
  | .mspost a b _ | .tkpri a b | .hinv a b _ | .drop a b | .msarm a b _ _ | .rbind _ a b _ _ _ _ | .rmap a b | .spawn a b
  | .spawnHandle a b _ | .tspawn _ a b _ _ _ | .scrub _ a b _ | .lgath _ a b | .luniq _ a b | .lred _ a b _ _ | .lscat _ a b
  | .lseg _ a b | .lhome _ a b _ | .lpart _ a b | .lsend a b _ | .lrecv _ a b | .lexp _ a b _ | .lcnt _ a b | .lsort _ a b _
  | .lmrg _ a b _ | .lfilt _ a b _ | .lzero _ a b | .lpeek _ a b | .lwb _ a b | .dreg a b _ _ =>
    [x a, x b] ++ i.scalarGroups.flatMap group
  | _ => []

/-- The bytes of a handle that an access of the focused thread names. -/
def State.spanAt (s : State) (h : BitVec 3) (ofs : BitVec 64) (n : Nat) : Option (List (Nat × Nat)) :=
  some [(canon (hBase (s.h h) + ofs.toNat), n)]

/-- The bytes that an instruction reads, or that its effect writes; `none` where it may touch others. -/
def State.touches (s : State) (i : Instr) : Option (List (Nat × Nat)) :=
  match i with
  | .ld _ h a w _ i | .st _ h a w _ i | .rld _ h a w _ i | .rst _ h a w _ i => s.spanAt h (s.mOffset a i (widthBytes w)) (widthBytes w)
  | .ldv _ h a _ i | .stv _ h a _ i => s.spanAt h (s.mOffset a i (vectorBytes s.focus)) (vectorBytes s.focus)
  | .mspost a _ m | .mswait _ a _ m | .mstest _ a m => s.spanAt m (s.x a) 16
  | .srget .. | .trns .. | .trnsPhys .. | .pfl .. | .plu .. | .cwait .. | .cwaitTok .. | .cstat .. | .ctok .. => some []
  | .msg .. | .thold .. | .trdy .. | .tkpri .. | .spawn .. | .spawnHandle .. => some []
  | _ => none

/-- Whether two accesses may touch one byte. -/
def mayMeet (a b : Option (List (Nat × Nat))) : Bool :=
  match a, b with
  | some xs, some ys => xs.any fun x => ys.any fun y => decide (x.1 < y.1 + y.2 ∧ y.1 < x.1 + x.2)
  | some [], none => false
  | none, some [] => false
  | _, _ => true

/-- A lookup engine's result, with the flags, the stochastic stream and the selected table that it may leave. -/
def shareEngine (d : BitVec 5) (src dst : Ctx) : Ctx :=
  ({ dst with mflags := src.mflags, src := src.src, table := src.table, ltstep := src.ltstep } : Ctx).writeX d (src.readX d)

/-- The result registers of an instruction that the leading thread has performed, copied to the trailing thread. -/
def share (i : Instr) (src dst : Ctx) : Ctx :=
  let x (d : BitVec 5) : Ctx := dst.writeX d (src.readX d)
  match i with
  | .ld d .. | .rld d .. | .pfl d .. | .mswait d .. | .mstest d .. | .cwaitTok d .. | .cstat d .. | .ctok d .. | .srget d _
  | .amo d .. | .cas d .. | .rbind d .. | .srxch d .. | .cseal d | .tspawn d .. | .tchan d .. | .timer d .. | .gang d .. | .gkeyAdd d ..
  | .gkeyRm d .. | .ctxs d .. | .scrub d .. | .evsel d .. | .launch d ..
  | .cpl d .. | .cps d .. | .cpg d .. | .cpx d .. | .cpbc d .. | .cpmc d .. | .cpqt d .. | .cpfl d .. | .cpof d .. | .cpin d .. | .cpck d ..
  | .cpmg d .. | .cpvl d .. => x d
  | .ldv d .. | .ldvs d .. => dst.writeV d (src.readV d)
  | .trns d _ | .trnsPhys d .. => dst.writeH d (src.readH d)
  | .wpc => { dst with wayOpen := src.wayOpen, committing := false, checkpoint := src.checkpoint }
  | .ltabSel d _ | .ltabInst d _ | .ltabRm d _ | .lgath d .. | .luniq d .. | .lred d .. | .lscat d .. | .lseg d .. | .lhome d .. | .lpart d ..
  | .lrecv d .. | .lexp d .. | .lcnt d .. | .lsort d .. | .lmrg d .. | .lfilt d .. | .lzero d .. | .lstep d .. | .lpeek d .. | .lwb d .. =>
    shareEngine d src dst
  | _ => dst

/-! ### The queues of a pair -/

def State.pairOf (s : State) (c t : Nat) : Pair := getAt (s.lp c).pairs (t % 8) ⟨[], []⟩
def State.setPair (s : State) (c t : Nat) (p : Pair) : State := s.setLp c { s.lp c with pairs := setAt (s.lp c).pairs (t % 8) p }

/-- A thread of a pair waits for the other one. -/
def State.stay (s : State) (a : Agent) : State := s.setCtx a { s.ctx a with wait := .again }

/-- A thread of a pair has completed an instruction. -/
def State.counted (s : State) (a : Agent) : State := s.setCtx a { s.ctx a with wait := .none, flight := none, num := (s.ctx a).num + 1 }

/-- A difference between the threads of a pair: a rollback, or both are parked; nothing unmatched is released (R168, R372). -/
def State.mismatch (s0 : State) (a : Agent) : State :=
  let s := s0.countSector (sectorOf (agentCore a)) 0x010A 1
  if (s.ctx a).wayOpen then s.rollback a 0x11 else s.parkAgent a 0x11 0 0 false false

/-- Whether a thread of a pair is still there and in the middle of nothing. -/
def State.clearOf (s : State) (a : Agent) : Bool :=
  (match a with
    | .thread c t => (s.slot c t).isSome
    | .bank _ _ => false) && (s.ctx a).wait = .none && (s.ctx a).caught.isNone

/-- An instruction that the leading thread performs for the pair has ended: its value enters the load-value queue. -/
def State.landedPair (s : State) (c t : Nat) : State :=
  let a := Agent.thread c t
  match (s.ctx a).flight with
  | none => s
  | some pc =>
    if s.clearOf a then
      let p := s.pairOf c t
      (s.setPair c t { p with loads := p.loads ++ [⟨(s.ctx a).num, pc, t, { s.ctx a with journal := [], checkpoint := none, refusals := [] }, some []⟩] }).counted a
    else s

/-- What is told of the leading thread in its context, beside registers. -/
def Ctx.books (dst src : Ctx) : Ctx :=
  { dst with
    journal := src.journal
    jpos := src.jpos
    refusals := src.refusals
    openBatch := src.openBatch
    ncmd := src.ncmd
    sealedBatches := src.sealedBatches
    holder := src.holder
    locks := src.locks
    wbacks := src.wbacks
    spawned := src.spawned
    companion := src.companion
    companionEnd := src.companionEnd
    wayOpen := src.wayOpen
    committing := src.committing
    wayDest := src.wayDest
    checkpoint := src.checkpoint }

/-- The leading thread as it performs an effect with a thread's registers. -/
def Ctx.wear (lead r : Ctx) : Ctx :=
  { r.books lead with
    wait := .none
    undo := none
    inbox := none
    failed := none
    flight := none
    caught := none }

/-- The state in which the leading thread would perform an effect with the registers of `r`. -/
def State.wearing (s : State) (lead : Agent) (r : Ctx) : State := { s.setCtx lead ((s.ctx lead).wear r) with focus := lead }

/-- An effect performed under the leading thread's number with the registers of `r`. -/
def State.perform (s : State) (lead : Agent) (r : Ctx) (i : Instr) : Out :=
  exec i (s.wearing lead r)

/-- What an effect would do outside the pair, with a trap that it would raise: what the comparator compares (R167). -/
def State.effectOf (s : State) (lead : Agent) (r : Ctx) (i : Instr) : Option State :=
  match s.perform lead r i with
  | .next x => some (x.setCtx lead { Ctx.reset.books (x.ctx lead) with
      wait := (x.ctx lead).wait
      caught := (x.ctx lead).caught })
  | _ => none

/-- The trap that an effect would raise. -/
def State.effectTrap (s : State) (lead : Agent) (r : Ctx) (i : Instr) : Option (TrapInfo × BitVec 48) :=
  (s.effectOf lead r i).bind fun x => (x.ctx lead).caught

/-- Whether a deposited effect is that of a thread with registers `r` at `pc`: the same instruction with the same address and data,
and the same effect outside the pair (R167, R168). -/
def State.sameEffect (s : State) (lead : Agent) (i : Instr) (it : PairItem) (n : Nat) (pc : BitVec 48) (r : Ctx) : Bool :=
  it.num = n && it.pc = pc && (s.wearing lead it.regs).effectValues i = (s.wearing lead r).effectValues i &&
    s.effectOf lead it.regs i = s.effectOf lead r i

/-- The other thread's oldest unmatched effect. -/
def Pair.theirs (p : Pair) (t : Nat) : Option PairItem := p.effects.find? fun it => it.slot ≠ t

def Pair.without (p : Pair) (it : PairItem) : Pair := { p with effects := p.effects.erase it }

/-- An effect deposited; the comparator holds 16. -/
def State.deposit (s : State) (c t : Nat) (i : Instr) : State :=
  let p := s.pairOf c t
  let a := Agent.thread c t
  let x := s.ctx a
  s.setPair c t { p with effects := p.effects ++ [⟨x.num, x.pc, t, { x with journal := [], checkpoint := none, refusals := [] }, { s with focus := a }.touches i⟩] }

/-! ### The turn of a thread of a pair -/

/-- The trailing thread takes the value of the instruction that it stands at, or the trap that the leading thread raised there. -/
def State.takeValue (s : State) (c t : Nat) (i : Instr) : State :=
  let a := Agent.thread c t
  let lead := Agent.thread c (t % 8)
  let x := s.ctx a
  let l := s.ctx lead
  let p := s.pairOf c t
  match p.loads with
  | it :: rest =>
    if it.num = x.num ∧ it.pc = x.pc then
      (((s.setPair c t { p with loads := rest }).setCtx a ((share i it.regs x).advance 4#48))).counted a
    else s.mismatch a
  | [] =>
    if x.num < l.num then s.mismatch a
    else if l.num = x.num ∧ l.caught.isSome then
      -- a trap that follows the instruction comes with its result
      let y := if l.pc = x.pc then x else (share i l x).advance 4#48
      s.setCtx a { y with caught := l.caught, wait := .again }
    else s.stay a

/-- An instruction that each thread performs for itself. -/
def State.stitchOwn (s : State) (c t : Nat) (i : Instr) : Out :=
  let a := Agent.thread c t
  let n := (s.ctx a).num
  let p := s.pairOf c t
  if p.effects.any (fun it => it.num = n && it.slot ≠ t) || (decide (8 ≤ t) && p.loads.any fun it => it.num = n) then .next (s.mismatch a)
  else match exec i s with
    | .next x => .next (if x.clearOf a then x.counted a else x)
    | o => o

/-- The leading thread performs an instruction for the pair. -/
def State.stitchLead (s : State) (c t : Nat) (i : Instr) : Out :=
  let a := Agent.thread c t
  match exec i (s.setCtx a { s.ctx a with flight := some (s.ctx a).pc }) with
  | .next x => .next (x.landedPair c t)
  | o => o

/-- A value from outside the pair (R166). The leading thread reads after its own effects on those bytes have been matched, which keeps
its program order (R91; DEDUCED, log 109). -/
def State.stitchValue (s : State) (c t : Nat) (i : Instr) : Out :=
  let a := Agent.thread c t
  let p := s.pairOf c t
  if 8 ≤ t then .next (s.takeValue c t i)
  else if (s.ctx a).flight.isSome then s.stitchLead c t i
  else if p.effects.any (fun it => it.slot = t && mayMeet it.bytes ({ s with focus := a }.touches i)) || decide (maxLoadValues ≤ p.loads.length) then .next (s.stay a)
  else s.stitchLead c t i

/-- An effect that both threads wait for: it is performed, by the leading thread, once the two have met in the comparator. -/
def State.stitchShared (s : State) (c t : Nat) (i : Instr) : Out :=
  let a := Agent.thread c t
  let b := Agent.thread c ((t + 8) % 16)
  let lead := Agent.thread c (t % 8)
  let p := s.pairOf c t
  let x := s.ctx a
  let mine := p.effects.any fun it => it.slot = t
  let put : Out := .next (if mine ∨ maxCompared ≤ p.effects.length then s.stay a else (s.deposit c t i).stay a)
  if t < 8 ∧ x.flight.isSome then s.stitchLead c t i
  else if 8 ≤ t ∧ (p.loads ≠ [] ∨ ((s.ctx lead).num = x.num ∧ ((s.ctx lead).flight.isSome ∨ (s.ctx lead).caught.isSome))) then
    .next (s.takeValue c t i)
  else match p.theirs t with
    | some it =>
      if !s.sameEffect lead i it x.num x.pc x then .next (s.mismatch a)
      else if maxLoadValues ≤ p.loads.length then .next (s.stay a)
      else
        let s1 := s.setPair c t (p.without it)
        if t < 8 then s1.stitchLead c t i
        else .next ((s1.setCtx lead { s1.ctx lead with flight := some x.pc }).stay a)
    | none => if x.num < (s.ctx b).num then .next (s.mismatch a) else put

/-- An effect that the first thread to reach it goes on from (R167): the second thread's match releases it. -/
def State.stitchPosted (s : State) (c t : Nat) (i : Instr) : Out :=
  let a := Agent.thread c t
  let b := Agent.thread c ((t + 8) % 16)
  let lead := Agent.thread c (t % 8)
  let p := s.pairOf c t
  let x := s.ctx a
  match p.theirs t with
  | some it =>
    if !s.sameEffect lead i it x.num x.pc x then .next (s.mismatch a)
    else match s.perform lead x i with
      | .next y =>
        let l := y.ctx lead
        if (match y.slot c (t % 8) with
          | none => true
          | some _ => x.wayOpen && !l.wayOpen) then .next y
        else
          let y1 := { y.setCtx lead (if t < 8 then x.books l else (s.ctx lead).books l) with focus := a }
          let u := if t < 8 then x.books l else x
          .next (match l.caught, l.wait with
            | some e, _ => y1.setCtx a { u with caught := some e, wait := .again }
            | none, .none => ((y1.setPair c t (p.without it)).setCtx a (u.advance 4#48)).counted a
            | none, _ => y1.setCtx a { u with wait := .again })
      | o => o
  | none =>
    if x.num < (s.ctx b).num then .next (s.mismatch a)
    else match s.effectTrap lead x i with
      | some e => .next (s.setCtx a { x with caught := some e, wait := .again })
      | none =>
        if maxCompared ≤ p.effects.length then .next (s.stay a)
        else .next (((s.deposit c t i).setCtx a (x.advance 4#48)).counted a)

/-- The registers that redn.cmp compares (R346). -/
def sameRegisters (a b : Ctx) : Bool :=
  a.x = b.x && ((List.range 16).all fun r => (a.readV (BitVec.ofNat 5 r)).setWidth 512 = (b.readV (BitVec.ofNat 5 r)).setWidth 512) &&
    (List.range 8).all fun r => (a.readK (BitVec.ofNat 3 r)).setWidth 32 = (b.readK (BitVec.ofNat 3 r)).setWidth 32

/-- Both threads stand at the boundary before the same instruction, with nothing between them. -/
def State.together (s : State) (c t : Nat) : Bool :=
  let x := s.ctx (.thread c (t % 8))
  let y := s.ctx (.thread c (t % 8 + 8))
  x.num = y.num && x.flight.isNone && x.caught.isNone && y.caught.isNone && (s.pairOf c t).loads = []

def mustAgree (i : Instr) (x y : Ctx) : Bool :=
  match i with
  | .redn _ _ => sameRegisters x y
  | _ => true

/-- An instruction that each thread performs once both have come to it. -/
def State.stitchMeet (s : State) (c t : Nat) (i : Instr) : Out :=
  let a := Agent.thread c t
  let b := Agent.thread c ((t + 8) % 16)
  let x := s.ctx a
  let y := s.ctx b
  if x.num < y.num then .next (s.mismatch a)
  else if s.together c t = false then .next (s.stay a)
  else if y.pc ≠ x.pc ∨ mustAgree i x y = false then .next (s.mismatch a)
  else match s.stitchOwn c t i with
    | .next s1 =>
      (match { s1.setCtx b { s1.ctx b with wait := .none } with focus := b }.stitchOwn c ((t + 8) % 16) i with
        | .next s2 => .next { s2 with focus := a }
        | o => o)
    | o => o

/-- The next instruction of a thread of a pair. -/
def State.stitchIssue (s : State) (c t : Nat) (i : Instr) : Out :=
  match passing i with
  | .own => s.stitchOwn c t i
  | .value => s.stitchValue c t i
  | .posted => s.stitchPosted c t i
  | .shared => s.stitchShared c t i
  | .meet => s.stitchMeet c t i

/-- A trap that one thread has raised meets the other's (R168). -/
def State.meetTraps (s : State) (c t : Nat) (e : TrapInfo × BitVec 48) : State :=
  let a := Agent.thread c t
  let b := Agent.thread c ((t + 8) % 16)
  let x := s.ctx a
  let y := s.ctx b
  match y.caught with
  | some f =>
    if x.num = y.num then
      (if e.1.cause = f.1.cause ∧ e.1.tval = f.1.tval ∧ e.1.tinfo = f.1.tinfo ∧ e.2 = f.2 then s.enterBoth a e.1 e.2 else s.mismatch a)
    else s.stay a
  | none => if x.num < y.num then s.mismatch a else s.stay a

/-- What a thread of a pair does at its turn before an instruction: `none` where it goes on to issue. A refusal of the pair is taken where
both threads stand at one boundary. -/
def State.stitchFirst (s : State) (c t : Nat) : Option State :=
  let a := Agent.thread c t
  let b := Agent.thread c ((t + 8) % 16)
  let lead := Agent.thread c (t % 8)
  let l := s.ctx lead
  match (s.ctx a).caught with
  | some e => some (s.meetTraps c t e)
  | none =>
    if l.refusals = [] ∨ causeIH l.cause = true ∨ l.committing = true then none
    else if s.together c t then some ((s.setPair c t ⟨[], []⟩).takeRefusal lead)
    else if (s.ctx b).num < (s.ctx a).num then some (s.stay a)
    else none

end Sys2Proof.Machine
end

