-- ==== Sys2Proof/Machine/Issue.lean ====
section
/-! DEFINITION. Issue: the turns of lookup threads, the bundles of dense tiles, the order of turns, the end of a cycle, and one step of the
module (R161 to R163, R175 to R180, R200, R226, R228, R229, R335, R355, R358, R359, R364 to R369). -/

namespace Sys2Proof.Machine

/-! ### Fetch and decoding for a turn -/

/-- The trap of a word that fails decoding (R229, R230). -/
def decodeTrap (w : Word) (slot : Nat) (e : DecodeError) : TrapInfo where
  cause := e.cause
  tval := w.setWidth 64
  tinfo := BitVec.ofNat 64 (e.detail + 256 * slot)

/-- The words that bytes hold (R7). -/
def wordsOf (bs : List Byte) : List Word := (List.range (bs.length / 4)).map fun i => BitVec.ofNat 32 (bytesToNat ((bs.drop (4 * i)).take 4))

/-- What an agent's fetch at its pc gives it to do. -/
inductive Fetch where
  | word (w : Word) (i : Instr)
  | trap (t : TrapInfo)
  | miss (line : Nat)
  deriving DecidableEq, Repr

/-- The instruction at a lookup thread's pc (R226, R229). -/
def State.fetchWord (s : State) (a : Agent) : Fetch :=
  match s.fetch a (s.ctx a).pc with
  | .trap t => .trap t
  | .miss l => .miss l
  | .bytes bs =>
    let w : Word := BitVec.ofNat 32 (bytesToNat bs)
    match decode .lookup 0 (s.ctx a).sup w with
    | .error e => .trap (decodeTrap w 0 e)
    | .ok i => .word w i

/-- The state after a fetch: a walk counts where it reads (R29), and one that ends at a leaf fills the translation cache (R21, R226). -/
def State.fetchedAt (s : State) (a : Agent) (pc : BitVec 48) : State :=
  if pc.toNat % (stepBytes a).toNat ≠ 0 then s
  else match s.translate (agentCore a) (s.key a) (s.ctx a).sup (pc.setWidth 64) with
    | .hit _ _ => s
    | .walked e lg => ((s.countWalk (s.key a) pc.toNat).count (agentCore a) 0x0006 1).transLearn (agentCore a) (s.key a) pc.toNat e lg
    | .fault _ => (s.countWalk (s.key a) pc.toNat).count (agentCore a) 0x0006 1

/-- The state after the fetch at an agent's pc. -/
def State.fetched (s : State) (a : Agent) : State := s.fetchedAt a (s.ctx a).pc

/-- A fetch that misses asks the line's home for it (R226): a lookup thread leaves rotation as for a load that misses, and a dense tile's counter pauses. -/
def State.fetchMiss (s : State) (a : Agent) (line : Nat) : State :=
  let s1 := match a with
    | .thread _ _ => s.setCtx a { s.ctx a with wait := .code line }
    | .bank j b =>
      let p := s.dp j
      let late : Late := {
        bank := b
        dest := .code line
        due := p.vcc
        pc := (s.ctx a).pc
        slot := 0
        opnd := (0#64, 0#3)
        issued := p.vcc }
      s.setDp j { p with lates := p.lates ++ [late] }
  s1.sendRequest {
    who := .agent a
    core := s.coreNo a
    key := s.key a
    op := .load
    pa := line
    len := 64
    dest := .code line }

/-! ### Lookup threads (R161 to R163, R200) -/

/-- Whether a core or tile issues nothing at all: halted, fenced, or its key switched out (R348, R375, R383). -/
def State.idleCore (s : State) (u : CoreRef) : Bool :=
  match u with
  | .lc c => (s.lc c).halted || (s.lc c).fenced || s.gang.suspended.contains (s.lp c).key
  | .dt j => (s.dt j).halted || (s.dt j).fenced || s.gang.suspended.contains (s.dp j).key

/-- The first issue of a thread dates its launch (R190). -/
def State.dateLaunch (s : State) (tag : Nat) : State := s.setLaunch tag fun l => if l.tstart = 0 then { l with tstart := s.timeNs } else l

def State.markStarted (s : State) (c t : Nat) : State :=
  match s.slot c t with
  | some sl => if sl.started then s else (s.occupy c t { sl with started := true }).dateLaunch (s.taskAt c sl.task).tag
  | none => s

/-- Whether a wait is a sleep (R163, R200). -/
def Wait.asleep (w : Wait) : Bool :=
  match w with
  | .sleepMilestone _ _ => true
  | .sleepTask => true
  | .production _ => true
  | _ => false

/-- The time since when a thread sleeps, for the choice of a victim (R200). -/
def State.markAsleep (before : Wait) (s : State) (c t : Nat) : State :=
  match s.slot c t with
  | some sl => if (s.ctx (.thread c t)).wait.asleep && !before.asleep then s.occupy c t { sl with since := s.cycle } else s
  | none => s

/-- Whether a wait keeps its thread out of rotation until a step of another unit ends it (R163). -/
def Wait.blocked (w : Wait) : Bool :=
  match w with
  | .none => false
  | .again => false
  | _ => true

/-- The threads whose wait a step has ended re-enter rotation in a later cycle (R162). `s` is the state before the step. -/
def State.markWoken (s x : State) : State :=
  x.lcs.foldl (fun y e => e.2.plane.slots.foldl (fun z sl =>
    if (s.ctx (.thread e.1 sl.1)).wait.blocked && !(x.ctx (.thread e.1 sl.1)).wait.blocked then z.occupy e.1 sl.1 { sl.2 with since := x.cycle + 1 } else z) y) x

/-- Whether the thread in issue may try its instruction: it is in rotation, it tries again, or the word it sleeps on may have changed. -/
def State.tries (s : State) : Bool :=
  match s.cur.wait with
  | .none => true
  | .again => true
  | .sleepMilestone pa g =>
    (s.wordReport pa).isSome || (moduleOf pa = s.module && (reaches (s.milestone pa).gen g || s.poisoned (canon pa) 16))
  | _ => false

/-- Whether the thread in issue takes a refusal before its instruction (R359). A CTXS that has read part of its image goes on first. -/
def State.takesRefusal (s : State) : Bool :=
  s.cur.refusals ≠ [] && !causeIH s.cur.cause && !s.cur.committing && s.cur.inbox.isNone

/-- The agent in issue goes on from its wait. -/
def State.ready (s : State) : State := s.setCur { s.cur with wait := .none }

/-- The instruction of a thread of its own (R161). One that is tried again has been counted (R429). -/
def State.issueThread (s : State) : Out :=
  let a := s.focus
  let new := if s.cur.wait = .none then 1 else 0
  match s.fetchWord a with
  | .trap t => .next ((s.fetched a).takeTrap a t s.cur.pc)
  | .miss l => .next ((s.fetched a).fetchMiss a l)
  | .word _ i => exec i (((s.fetched a).ready).count (agentCore a) 0x0002 new)

/-- The instruction of a thread of a pair (R165). -/
def State.issuePair (s : State) (c t : Nat) : Out :=
  let a := Agent.thread c t
  let new := if (s.ctx a).wait = .none then 1 else 0
  -- an instruction that the leading thread performs for the pair may have ended
  let s0 := s.landedPair c (t % 8)
  let s1 := if (s0.ctx a).wait = .none then s0 else s0.ready
  match s1.stitchFirst c t with
  | some x => .next x
  | none =>
    match s1.fetchWord a with
    | .trap e => .next ((s1.fetched a).takeTrap a e (s1.ctx a).pc)
    | .miss l => .next ((s1.fetched a).fetchMiss a l)
    | .word _ i => ((s1.fetched a).count (agentCore a) 0x0002 new).stitchIssue c t i

/-- The slice of a slot counts its turns (R200). -/
def State.countSlice (s : State) (c t : Nat) : State :=
  match s.slot c t with
  | none => s
  | some sl =>
    if (s.taskAt c sl.task).slice = 0 then s
    else if sl.slice ≤ 1 then (s.occupy c t { sl with slice := 0 }).sliceOver (.thread c t)
    else s.occupy c t { sl with slice := sl.slice - 1 }

/-- What follows an instruction of a turn. A turn in which a waiting thread stays out of rotation is an idle one (R429). -/
def State.afterTurn (before : Wait) (s : State) (c t : Nat) : State :=
  let s1 := if before ≠ .none ∧ (s.ctx (.thread c t)).wait ≠ .none then s.count (.lc c) 0x0003 1 else s
  (s1.markAsleep before c t).countSlice c t

/-- One turn of a thread slot. -/
def State.threadTurn (s : State) (c t : Nat) : Out :=
  let a := Agent.thread c t
  let idle : State := s.count (.lc c) 0x0003 1
  match s.slot c t with
  | none => .next idle
  | some sl =>
    if s.idleCore (.lc c) then .next s
    else if sl.state ≠ .running then .next (idle.countSlice c t)
    else if s.tries = false ∨ (!(s.ctx a).wait.asleep && decide (s.cycle < sl.since)) = true then .next (idle.countSlice c t)
    else
      let before := (s.ctx a).wait
      let s1 := s.markStarted c t
      let done : Out := if (s1.partner a).isSome then s1.issuePair c t
        else if s1.takesRefusal then .next (s1.takeRefusal a)
        else s1.issueThread
      match done with
      | .next x => .next (x.afterTurn before c t)
      | o => o

/-! ### Dense tiles (R175 to R180, R364 to R369) -/

/-- Whether the active bank of a tile runs a handler. -/
def State.inHandler (s : State) (j : Nat) : Bool :=
  match s.bankInfo j (s.dp j).active with
  | some i => i.handler
  | none => false

/-- Whether a trap of a tile's active bank is due. -/
def State.trapDue (s : State) (j : Nat) : Bool := (s.dp j).traps.any fun t => t.bank = (s.dp j).active && s.ripe t j

/-- Whether the counter of a tile's group is held: for a trap or a switch, for another member that has not issued its bundle of this virtual
cycle, or while a handler runs (R179, R180, R368). -/
def State.groupHolds (s : State) (j : Nat) : Bool :=
  let js := s.groupOf j
  let handlers := js.any s.inHandler
  (handlers && !s.inHandler j) ||
  js.any fun i => s.trapDue i || (s.dp i).sync = 4 || s.agenda.contains (.trapDrain i) || s.agenda.contains (.denseBankSwitch i) ||
    (i ≠ j && (s.bankInfo i (s.dp i).active).isSome && (!handlers || s.inHandler i) && decide ((s.dp i).vcc < (s.dp j).vcc))

/-- Whether a word has to wait for an earlier one of its bank that another unit still answers: the answer names no more than the word's top byte
(DESIGN CHOICE, log 103). -/
def State.topBusy (s : State) (i : Instr) : Bool :=
  match s.focus with
  | .thread _ _ => false
  | .bank j b => (s.dp j).lates.any fun l => l.bank = b && l.top ≠ 0 && l.top = ((wordOf i).extractLsb' 24 8).toNat

/-- One slot's word executed at its bundle's address. -/
def State.runSlot (s : State) (slot : Nat) (i : Instr) : Out :=
  if s.topBusy i then .next { s.again with bslot := slot } else exec i { s with bslot := slot }

/-- What a word leaves that has to wait: it issues again alone. `loops` is the loop stack at the issue of its bundle. -/
def State.keepWord (s : State) (j : Nat) (pc : BitVec 48) (slot : Nat) (loops : List LoopEntry) : State :=
  match s.cur.wait with
  | .none => s
  | w =>
    let p := s.dp j
    (s.setDp j { p with again := p.again ++ [⟨pc, slot, loops⟩] }).setCur { s.cur with wait := match w with
      | .production g => .production g
      | _ => .none }

/-- The words of a bundle in issue, slot 3 first and slot 0, which moves the pc, last. Of two slots that use one scratchpad bank in one access cycle, the lower
is thereby the new use and the higher the reserved one that tinfo names, which the manual leaves open (DESIGN CHOICE, log 104). -/
def State.runSlots (j : Nat) (pc : BitVec 48) (is : List (Nat × Instr)) (s : State) : Out :=
  match is with
  | [] => .next s
  | (k, i) :: rest =>
    match s.runSlot k i with
    | .next x => if (match x.focus with
        | .bank t b => (x.bankInfo t b).isNone
        | _ => true) then .next x else State.runSlots j pc rest (x.keepWord j pc k x.cur.waitLoops)
    | o => o

/-- A trap found at a bundle's issue, which has no effect (R364). -/
def State.bundleTrap (s : State) (j : Nat) (t : DenseTrap) : State :=
  (s.setDp j { s.dp j with traps := (s.dp j).traps ++ [t] }).pushOnce (.trapDrain j)

def State.bundleCause (s : State) (j b slot : Nat) (t : TrapInfo) : DenseTrap where
  bank := b
  slot := slot
  cause := ⟨t.cause, 0, t.tval.toNat⟩
  tinfo := t.tinfo.toNat
  tfmt := t.tfmt.toNat
  tvec := t.tvec.toNat
  pc := (s.ctx (.bank j b)).pc
  atIssue := true
  replay := false
  async := false
  arrived := false
  vcc := (s.dp j).vcc
  batch := none

/-- The issue-detected trap of the lowest slot. -/
def lowestSlot (ts : List DenseTrap) : Option DenseTrap :=
  ts.foldl (fun best t => match best with
    | none => some t
    | some b => if t.slot < b.slot then some t else some b) none

/-- The slice of a bank counts virtual cycles (R204). -/
def State.countBankSlice (s : State) (j b n : Nat) : State :=
  match s.bankInfo j b with
  | none => s
  | some i =>
    if i.task.slice = 0 ∨ i.handler = true then s
    else if i.slice ≤ n then (s.mapBank j b fun x => { x with slice := 0 }).pushOnce (.denseBankSwitch j)
    else s.mapBank j b fun x => { x with slice := x.slice - n }

/-- The counter goes on by one once every word of the bundle has issued; a return from a handler leaves it where it held (R179, R367). -/
def State.nextCycle (s : State) (j b : Nat) (held : Bool) : State :=
  let p := s.dp j
  if p.active ≠ b ∨ (s.bankInfo j b).isNone ∨ p.again ≠ [] ∨ (held && p.hold.isNone) = true then s
  else (s.setDp j { p with vcc := p.vcc + 1 }).countBankSlice j b 1

/-- A bank's first bundle dates its launch. -/
def State.markBank (s : State) (j b : Nat) : State :=
  match s.bankInfo j b with
  | some i => if i.started then s else (s.mapBank j b fun x => { x with started := true }).dateLaunch i.task.tag
  | none => s

/-- The drain of traps found in a bundle becomes due. -/
def State.drainIfTrapped (s : State) (j : Nat) : State := if s.trapDue j then s.pushOnce (.trapDrain j) else s

/-- Of the NaNs that several slots of one bundle produce the lowest slot's alone traps (R139, R327). -/
def oneNan (ts : List DenseTrap) : List DenseTrap :=
  let low := (ts.filter fun t => t.cause.cause = 0x0F).map (·.slot) |>.min?
  ts.filter fun t => t.cause.cause ≠ 0x0F || some t.slot = low

/-- The registers that an SRGET reads as they stand now. -/
def State.showNow (s : State) (a : Agent) : State :=
  match findAt s.ctxs (agentId a) with
  | some c => s.setCtx a { c with shown := none }
  | none => s

/-- A bundle issues (R175, R228): an issue-detected cause in any slot stops all of it (R364). -/
def State.issueBundle (s : State) (j b : Nat) (is : List (Nat × Instr)) : Out :=
  let n := (s.dp j).traps.length
  let held := (s.dp j).hold.isSome
  match State.runSlots j s.cur.pc is (s.markBank j b) with
  | .next x =>
    let ts := (x.dp j).traps
    (match lowestSlot ((ts.drop n).filter (·.atIssue)) with
      | some t => .next (s.bundleTrap j t)
      | none =>
        let y := { x.setDp j { x.dp j with traps := ts.take n ++ oneNan (ts.drop n) } with bslot := 0 }
        -- a branch taken has moved the counter on by two (R177)
        let z := if (y.dp j).vcc = (s.dp j).vcc + 2 then y.countBankSlice j b 2 else y
        .next (((z.showNow (.bank j b)).drainIfTrapped j).nextCycle j b held))
  | o => o

/-- The bundle at a bank's pc (R226, R229). -/
def State.bundleAt (s : State) (j b : Nat) : Out :=
  let a := Agent.bank j b
  let c := s.ctx a
  match s.fetch a c.pc with
  | .trap t => .next ((s.fetched a).bundleTrap j (s.bundleCause j b 0 t))
  | .miss l => .next ((s.fetched a).fetchMiss a l)
  | .bytes bs =>
    let ws := wordsOf bs
    let s1 := s.fetched a
    match bundleError c.sup ws with
    | some (k, e) => .next (s1.bundleTrap j (s.bundleCause j b k (decodeTrap ((ws[k]?).getD 0#32) k e)))
    | none =>
      let is := [3, 2, 1, 0].filterMap fun k => match decode .dense k c.sup ((ws[k]?).getD 0#32) with
        | .ok i => some (k, i)
        | .error _ => none
      ((s1.setCtx a { s1.ctx a with waitLoops := c.loops, shown := some (c.cbko, c.src, c.mpos) }).count (.dt j) 0x0002 1).issueBundle j b is

/-- What a word that has issued again alone leaves (R367): a replayed word's reply is awaited at once and its traps are those of a word that has issued; a
trap of a waiting word leaves its bundle to be issued again, with the loop stack that it met (R148); else the pc moves on only where slot 0 has waited
there. `before` is the state that the word issued in. -/
def State.afterWord (before : State) (j b : Nat) (w : ReWord) (x : State) : State :=
  let a := Agent.bank j b
  let p := before.dp j
  let n := p.traps.length
  let old := (before.ctx a).pc
  let y := { x.keepWord j w.pc w.slot w.loops with bslot := 0 }
  let q := y.dp j
  let back := decide (w.slot < 4 ∧ n < q.traps.length)
  let traps := if back then q.traps else q.traps.take n ++ (q.traps.drop n).map fun t => { t with atIssue := false, replay := true }
  let lates := if 4 ≤ w.slot then q.lates.take p.lates.length ++ (q.lates.drop p.lates.length).map fun l => { l with due := q.vcc } else q.lates
  let y1 := (y.setDp j { q with traps := traps, lates := lates, resuming := false }).drainIfTrapped j
  if (y1.bankInfo j b).isNone then y1
  else if back then y1.setCtx a { y1.ctx a with pc := w.pc, loops := w.loops }
  else if w.slot = 0 ∧ old = w.pc then y1
  else y1.setCtx a { y1.ctx a with pc := old }

/-- One word issues again alone (R180, R367), at its own bundle's address. -/
def State.reissue (s : State) (j b : Nat) (w : ReWord) : Out :=
  let a := Agent.bank j b
  let k := w.slot % 4
  let s1 := s.setCtx a { s.ctx a with pc := w.pc, wait := .none }
  match s1.fetch a w.pc with
  | .trap t => .next ((s.fetchedAt a w.pc).bundleTrap j { s1.bundleCause j b k t with replay := decide (4 ≤ w.slot) })
  | .miss l =>
    let s2 := (s.fetchedAt a w.pc).fetchMiss a l
    .next (s2.setDp j { s2.dp j with again := (s2.dp j).again ++ [w] })
  | .bytes bs =>
    let x := ((wordsOf bs)[k]?).getD 0#32
    match decode .dense k (s.ctx a).sup x with
    | .error e => .next ((s.fetchedAt a w.pc).bundleTrap j (s1.bundleCause j b k (decodeTrap x k e)))
    | .ok i =>
      match (s1.setDp j { s1.dp j with resuming := decide (w.slot = 6) }).runSlot k i with
      | .next y => .next (s.afterWord j b w y)
      | o => o

/-- Every waiting word of the active bank tries again. -/
def State.reissueAll (j b : Nat) (ws : List ReWord) (s : State) : Out :=
  match ws with
  | [] => .next s
  | w :: rest =>
    match s.reissue j b w with
    | .next x =>
      -- the words of a bundle that is to be issued again do not wait any more
      let stopped := decide (w.slot < 4 ∧ (s.dp j).traps.length < (x.dp j).traps.length)
      if stopped then
        .next (x.setDp j { x.dp j with again := ((x.dp j).again ++ rest).filter fun v => decide (v.pc ≠ w.pc ∨ 4 ≤ v.slot) })
      else State.reissueAll j b rest x
    | o => o

/-- The waiting words' turn: once none is left the counter goes on, unless only replays were (R367). -/
def State.againTurn (s : State) (j b : Nat) : Out :=
  let p := s.dp j
  let held := p.hold.isSome
  match State.reissueAll j b p.again (s.setDp j { p with again := [] }) with
  | .next x => .next (if p.again.all (fun w => decide (4 ≤ w.slot)) then x else x.nextCycle j b held)
  | o => o

/-- One turn of a dense tile. -/
def State.bankTurn (s : State) (j b : Nat) : Out :=
  let a := Agent.bank j b
  let p := s.dp j
  let pause : Out := .next (s.count (.dt j) 0x0003 1)
  if b ≠ p.active ∨ (s.bankInfo j b).isNone ∨ s.idleCore (.dt j) then .next s
  else if s.groupHolds j then
    .next (if s.trapDue j then (s.count (.dt j) 0x0003 1).pushOnce (.trapDrain j) else s.count (.dt j) 0x0003 1)
  else if p.lates.any (fun l => decide (l.due ≤ p.vcc)) then pause
  else if s.takesRefusal then .next (s.takeRefusal a)
  else
    let s1 := (s.land j p.vcc).endMsq j
    match s1.cur.wait with
    | .production _ => pause
    | _ => if (s1.dp j).again ≠ [] then s1.againTurn j b else s1.bundleAt j b

/-! ### The order of turns -/

/-- The agents that have a turn in a cycle: of each core's rings one slot (R161), and each tile's active bank. -/
def State.roster (s : State) : List Agent :=
  s.lcs.flatMap (fun e => [.thread e.1 (s.cycle % 8), .thread e.1 (8 + s.cycle % 8)]) ++ s.dts.map fun e => .bank e.1 e.2.plane.active

/-- The place of an agent's turn within a cycle. -/
def turnOrder (a : Agent) : Nat :=
  match a with
  | .thread c t => c * 2 + t / 8
  | .bank j _ => 2 ^ 32 + j

/-- A count of cycles that is armed goes down by one; whether it ends (R335). -/
def timerTick (t : BitVec 64) : BitVec 64 × Bool :=
  if t.getLsbD 63 then
    (if (t &&& 0xFFFFFFFFFFFF#64).toNat ≤ 1 then (0#64, true) else (t - 1#64, false))
  else (t, false)

/-- The timers of a lookup core's tasks at the end of a cycle. -/
def State.tickTasks (s : State) (c : Nat) : State :=
  (s.lp c).tasks.foldl (fun x e =>
    if e.2.timer = 0#64 then x
    else
      let (v, done) := timerTick e.2.timer
      let y := x.setTaskAt c e.1 { x.taskAt c e.1 with timer := v }
      if done then { y with agenda := .timerExpiry (.lc c) e.1 :: y.agenda } else y) s

/-- What the end of a cycle brings to a lookup core: timers, the count of cycles, aging every 16 cycles (R199), and a grant that may have
become possible. -/
def State.tickCore (s : State) (c : Nat) : State :=
  let s0 := s.count (.lc c) 0x0001 1
  if s.gang.suspended.contains (s.lp c).key then s0
  else
    let s1 := s0.tickTasks c
    let s2 := s1.refreshReady c
    if (s2.lp c).readyQ = [] then s2
    else
      let s3 := if s2.cycle % 16 = 0 then (s2.lp c).readyQ.foldl (fun x i => x.ageTask c i) s2 else s2
      s3.pushOnce (.slotGrant c)

/-- What the end of a cycle brings to a dense tile. The array is busy while an MSQ occupies its engine (R218, R429). -/
def State.tickTile (s : State) (j : Nat) : State :=
  let p := s.dp j
  let s1 := (s.count (.dt j) 0x0001 1).count (.dt j) 0x000A (if p.array.msq.isSome && decide (p.vcc < getAt p.busy 2 0) then 1 else 0)
  if s.gang.suspended.contains p.key then s1
  else
    let (v, done) := timerTick (s1.dp j).timer
    if (s1.dp j).timer = 0#64 then s1
    else
      let s2 := s1.setDp j { s1.dp j with timer := v }
      if done then { s2 with agenda := .timerExpiry (.dt j) 0 :: s2.agenda } else s2

/-- The end of a cycle of the arithmetic clock (R6), whose frequency the manual gives as 1.3 GHz. -/
def State.endCycle (s : State) : State :=
  let s1 := { s with
    cycle := s.cycle + 1
    timeNs := (s.cycle + 1) * 10 / 13 }
  let s2 := (s1.lcs.map (·.1)).foldl (fun x c => x.tickCore c) s1
  let s3 := (s2.dts.map (·.1)).foldl (fun x j => x.tickTile j) s2
  s3.tickHolds.tickClocks.reapSets

/-- The turn goes to the next agent of the cycle, or of the next cycle. -/
def State.passTurn (s : State) : State :=
  match s.roster.find? fun a => decide (turnOrder s.focus < turnOrder a) with
  | some a => { s with focus := a }
  | none =>
    let s1 := s.endCycle
    { s1 with focus := (s1.roster.head?).getD (.thread 0 (s1.cycle % 8)) }

/-- Whether an agent has a turn in a cycle (R161). -/
def onTurn (a : Agent) (cycle : Nat) : Bool :=
  match a with
  | .thread _ t => t % 8 = cycle % 8
  | .bank _ _ => true

/-- The turn stays an agent's while a step of another unit is made. -/
def State.backTo (s : State) (a : Agent) : State := { s with focus := if onTurn a s.cycle then a else .thread 0 (s.cycle % 8) }

/-! ### One step of the module -/

/-- The turn of the agent in focus. -/
def State.turn (s : State) : Out :=
  match s.focus with
  | .thread c t => s.threadTurn c t
  | .bank j b => s.bankTurn j b

/-- The turn of the agent in focus, and the next agent's begins. -/
def State.turnStep (s : State) : Out :=
  match s.turn with
  | .next x => .next (x.backTo s.focus).passTurn
  | o => o

/-- The oldest step of another unit that is due. -/
def State.unitStep (s : State) (i : Instr) (rest : List Instr) : Out :=
  match exec i { s with agenda := rest } with
  | .next x => .next ((s.markWoken x).backTo s.focus)
  | o => o

/-- Whether a step comes before every turn of its cycle: a timer sets Y before a WAIT of the same cycle (R203, R335). -/
def comesFirst (i : Instr) : Bool :=
  match i with
  | .timerExpiry _ _ => true
  | _ => false

/-- One step: a turn, or the oldest step that is due; the manual leaves open which of the two comes first (DESIGN CHOICE, log 4). -/
def State.oneStep (s : State) : Out :=
  match s.agenda with
  | [] => s.turnStep
  | i :: rest =>
    if comesFirst i then s.unitStep i rest
    else
      let (turnFirst, s1) := s.freeBool
      if turnFirst then s1.turnStep else s1.unitStep i rest

/-! ### Placing an instruction to be fetched (DESIGN CHOICE, log 4) -/

/-- A page table in space 0x0 that maps the 2 MiB page of a pc: its root at 0, its node at 0x100000, and its page at 0x200000 (R16 to R20). -/
def State.placeTable (s : State) (key : Nat) (pc : BitVec 48) : State :=
  let m := s.module * 2 ^ 52
  let s1 := s.setPart key { s.part key with ptroot := 1#64 <<< 63 }
  let s2 := s1.writeNat (m + bitsOf pc.toNat 47 34 * 8) 8 (2 ^ 63 + 3 * 2 ^ 61 + (0x100000 / 16))
  s2.writeNat (m + 0x100000 + bitsOf pc.toNat 33 21 * 8) 8 (2 ^ 63 + 2 ^ 61 + 2 ^ 60 + (m + 0x200000) / 65536)

/-- Bytes placed at a pc through that page, and their line in the core's instruction cache. -/
def State.placeBytes (s : State) (a : Agent) (pc : BitVec 48) (bs : List Byte) : State :=
  let at0 := s.module * 2 ^ 52 + 0x200000 + pc.toNat % 2 ^ 21
  let s1 := s.write at0 bs
  s1.addCode (agentCore a) (at0 / 64 * 64) (s1.read (at0 / 64 * 64) 64)

/-- A task whose one thread runs. -/
def placedTask (k : Task) : Task :=
  { k with
    valid := true
    hold := false
    ds := false
    width := 16 }

/-- Thread slot 0 of core 0 with a thread that is in rotation, its turn next. -/
def State.placeThread (s : State) (sup : Bool) : State :=
  let a := Agent.thread 0 0
  let idx := match s.slot 0 0 with
    | some sl => sl.task
    | none => 0
  let s1 := s.setTaskAt 0 idx (placedTask (s.taskAt 0 idx))
  let s2 := s1.occupy 0 0 (match s.slot 0 0 with
    | some sl => { sl with state := .running, since := 0 }
    | none => ⟨idx, 0, false, .running, 0, s.cycle, true, none⟩)
  let s3 := s2.setLc 0 { s2.lc 0 with halted := false, fenced := false, trans := [] }
  let c := s3.ctx a
  s3.setCtx a { c with
    sup := sup || c.sup
    wait := .none
    refusals := []
    inbox := none
    flight := none
    caught := none }

/-- Register bank 0 of tile 0 active with a context that may issue a bundle, its turn next. -/
def State.placeBank (s : State) (sup : Bool) : State :=
  let a := Agent.bank 0 0
  let p := s.dp 0
  let info : BankInfo := match findAt p.banks 0 with
    | some i => { i with task := placedTask i.task, held := [] }
    | none => ⟨placedTask Task.reset, 0, true, 0, false, [], [], []⟩
  let s1 := s.setDt 0 { s.dt 0 with
    halted := false
    fenced := false
    trans := []
    plane := { p with
      active := 0
      banks := setAt p.banks 0 info
      members := 0
      traps := []
      lates := []
      again := []
      wantGroup := none
      sync := 0
      hold := none } }
  let c := s1.ctx a
  s1.setCtx a { c with
    sup := sup || c.sup
    wait := .none
    refusals := [] }

/-- The agent of core 0 or tile 0 that runs a word: a dense tile where a lookup core cannot. -/
def placedAgent (w : Word) : Agent :=
  match decode .lookup 0 true w with
  | .ok _ => .thread 0 0
  | .error _ => .bank 0 0

/-- Whether a word is one that supervisor level alone may run. -/
def wordNeedsSupervisor (w : Word) : Bool := (check7 false w).isSome

/-- The module with a word where the next step fetches it: nothing due, the turn an agent's that may issue, and its pc mapped. -/
def State.placeWord (s : State) (w : Word) : State :=
  let a := placedAgent w
  let sup := wordNeedsSupervisor w
  let s0 := { s with
    agenda := []
    focus := a }
  let s1 := if isDense a then s0.placeBank sup else s0.placeThread sup
  let s2 := { s1 with gang := { s1.gang with suspended := s1.gang.suspended.filter fun k => k ≠ s1.coreKey a } }
  let pc := (s2.ctx a).pc
  let bytes := natToBytes 4 w.toNat
  let bs := if isDense a then (List.range 4).flatMap (fun k => if k = slotOf (engineOf w) then bytes else natToBytes 4 0) else bytes
  (s2.placeTable (s2.key a) pc).placeBytes a pc bs

end Sys2Proof.Machine
end

