-- ==== Sys2Proof/Machine/Step.lean ====
section
/-! DEFINITION. The step function of the module, and the placing of a table word where the next step fetches it. -/

namespace Sys2Proof.Machine

/-- One step of the module: a turn of the agent in focus, or the oldest step of another unit that is due. -/
def step (s : State) : Host.Outcome State Fault Refusal := s.oneStep

/-- `s` with the instruction of the opcode table's word `w` stored where `step` fetches next. Every word is 32 bits long, so bits above
`nbits` are 0. -/
def State.withFetchWord (s : State) (nbits w : Nat) : State := s.placeWord (BitVec.ofNat 32 (w % 2 ^ min nbits 32))

end Sys2Proof.Machine
end

