-- ==== Sys2Proof/Safety.lean ====
section
/-! DEFINITION. What the statements say of a state: whose turn it may be, what an instruction leaves unchanged, and the classes of
instructions that share a frame. -/

namespace Sys2Proof.Machine

/-- The turn is one that R161 allows in this cycle: a slot of a ring issues only in the cycles of its own number modulo 8. -/
def State.turnOk (s : State) : Prop := onTurn s.focus s.cycle = true

/-- A scalar result and the completion of its instruction (R162, R176, R256). -/
def State.result (s : State) (lat : Nat) (d : BitVec 5) (v : BitVec 64) : State := (s.setX lat d v).complete

/-- Nothing outside the contexts has changed, and no context but that of `a`: no byte of memory, no queue, no table, no register of
another thread, core or unit. -/
def State.onlyCtx (s t : State) (a : Agent) : Prop :=
  t = { s with ctxs := t.ctxs } ∧ ∀ b, agentId b ≠ agentId a → t.ctx b = s.ctx b

/-- Nothing of a context has changed but its pc, its loop stack, its register files, mflags and vlen: every trap register, the level, the
journal, the locks, the waypoint and every other special register are as before. -/
def Ctx.onlyRegs (c d : Ctx) : Prop :=
  d = { c with pc := d.pc, loops := d.loops, x := d.x, v := d.v, k := d.k, h := d.h, mflags := d.mflags, vlen := d.vlen, src := d.src }

/-- Every scalar register but `d` reads as before. -/
def Ctx.scalarsKept (c e : Ctx) (d : BitVec 5) : Prop := ∀ r, r ≠ d → e.readX r = c.readX r

/-- Every byte of memory outside the `n` bytes from `a` reads as before. -/
def State.bytesKept (s t : State) (a n : Nat) : Prop := ∀ b, b < a ∨ a + n ≤ b → memGet t.mem b = memGet s.mem b

/-- What a condition of R222 means of a register's value, as a signed number. -/
def condMeans (c : BitVec 3) (v : BitVec 64) : Prop :=
  match c.toNat with
  | 0 => v.toInt = 0
  | 1 => v.toInt ≠ 0
  | 2 => v.toInt < 0
  | 3 => 0 ≤ v.toInt
  | 4 => 0 < v.toInt
  | 5 => v.toInt ≤ 0
  | _ => True

/-- The scalar instructions that write one scalar register and cannot trap, with the register (R243 to R251, R258). -/
def scalarDest : Instr → Option (BitVec 5)
  | .add d _ _ _ | .sub d _ _ _ | .addi d _ _ | .mul d _ _ | .mulh d _ _ _ | .div d _ _ _ | .rem d _ _ _ => some d
  | .and d _ _ | .or d _ _ | .xor d _ _ | .logi d _ _ _ | .shift d _ _ _ | .shifti d _ _ _ => some d
  | .cmp d _ _ _ | .cmpi d _ _ _ | .min d _ _ _ | .max d _ _ _ | .sel d _ _ _ _ | .bitc d _ _ _ => some d
  | .extr d _ _ _ _ | .insr d _ _ _ | .li d _ | .lih d _ _ | .lidx d _ => some d
  | _ => none

/-- The number of set bits among the low `n`, as a count (R247). -/
def setBitsIn (n : Nat) (v : BitVec 64) : Nat := ((List.range n).filter fun j => v.getLsbD j).length

/-- Lane `i` of `w` bits of a vector register of the agent in issue (R301). -/
def laneAt (s : State) (r : BitVec 5) (w i : Nat) : Nat := laneOf (s.v r) w i

/-- Whether the units that a step of another unit names are there: a link port and its lane, a launch port, a die, and bytes within the
window that hwin sets (R2, R187, R396, R410). Every other instruction names none that could be missing. -/
def State.unitThere (s : State) (i : Instr) : Prop :=
  match i with
  | .packetArrival n _ | .flitArrival n _ _ | .flitAck n _ | .flowControlSignal n _ _ | .replayTimeout n | .retrainComplete n _
  | .lctlFullRetrain n | .lctlDisable n _ => n < 16
  | .laneFailure n k => n < 16 ∧ k < 8
  | .launchPortRecord n _ _ => n < 256
  | .dispatchPlacement d _ => d < 2
  | .hostWindowAccess a => a.addr + (if a.write then a.data.length else a.len) ≤ bitsOf s.regs.hwin.toNat 40 32 * 2 ^ 30
  | _ => True

end Sys2Proof.Machine
end

