-- ==== Sys2Proof/Certificates/Slice0/Obligations.lean ====
section
/-! DEFINITION. The statements about the model that are to be proved. -/

open Sys2Proof Sys2Proof.Machine

/-! ### Encoding and decoding (R220, R228 to R231, R238) -/

/-- Words that the manual writes out, or that its encoding tables give bit by bit, decode to the instructions they stand for: ADDI x1, x0, 5, the
examples of LDVS, VPACK, CPL, WAIT and SRGET, and words of the other engines. -/
def Obligations.DecodeWords : Prop := decode .lookup 0 false 0x03080005#32 = .ok (.addi 1#5 0#5 5#14) ∧
  decode .lookup 0 false 0x24110A42#32 = .ok (.ldvs 2#5 4#5 5#5 1#3 0#3 2#2) ∧
  decode .lookup 0 false 0x7B1A0A0C#32 = .ok (.vpack 3#5 8#5 5#5 0#3 1#2 4#3) ∧
  decode .lookup 0 false 0xA0498002#32 = .ok (.cpl 9#5 6#5 2#14) ∧ decode .lookup 0 false 0xC5000000#32 = .ok .wait ∧
  decode .lookup 0 false 0xC2200029#32 = .ok (.srget 4#5 0x029#12) ∧
  decode .lookup 0 false 0x4D110601#32 = .ok (.lsort 2#5 4#5 3#5 1#1) ∧
  decode .dense 2 false 0x87080000#32 = .ok (.mzero 1#2) ∧ decode .dense 1 false 0x60190A41#32 = .ok (.vadd 3#5 4#5 5#5 1#3 0#3 1#3) ∧
  decode .lookup 0 false 0xFFFFFFFF#32 = .error ⟨0x01, 0x00⟩ ∧
  ∀ sup slot, decode .dense slot sup 0#32 = .ok .nop

/-- Decoding and encoding agree: the word of a well-formed instruction whose registers exist on the core decodes to that instruction, with every
operand at every value, wherever its engine, slot, class and level admit it. No two well-formed instructions share a word. -/
def Obligations.DecodeEncode : Prop :=
  (∀ (c : CoreClass) (slot : Nat) (sup : Bool) (i : Instr), i.wf = true → i.regsOk c = true →
  (i.needsSupervisor = true → sup = true) → ∀ w ∈ encode i, (c = .lookup → engineOf w ≠ 4) →
  (c = .dense → engineOf w ≠ 2 ∧ (w = 0#32 ∨ slot = slotOf (engineOf w))) → (∀ m, classMark (topOf w) = some m → m = c) →
  decode c slot sup w = .ok i) ∧
  (∀ (i k : Instr) (w : Word), i.wf = true → k.wf = true → w ∈ encode i → w ∈ encode k → i = k)

/-- The first three checks of R229 fail as the table says, in their order, and a supervisor-only instruction at user level, and nothing else that
would decode at supervisor level, fails the last one (R231). A bundle fails decoding with the earliest check that any of its words fails, in the
lowest slot that fails it (R229). -/
def Obligations.DecodeChecks : Prop :=
  (∀ (c : CoreClass) (slot : Nat) (sup : Bool) (w : Word),
  (w = 0xFFFFFFFF#32 ∨ engineOf w = 7 → decode c slot sup w = .error ⟨0x01, 0x00⟩) ∧
  (w ≠ 0xFFFFFFFF#32 → (c = .lookup ∧ engineOf w = 4 ∨ c = .dense ∧ engineOf w = 2) → decode c slot sup w = .error ⟨0x01, 0x01⟩) ∧
  (w ≠ 0xFFFFFFFF#32 → engineOf w ≠ 7 → c = .dense → engineOf w ≠ 2 → w ≠ 0#32 → slotOf (engineOf w) ≠ slot →
    decode c slot sup w = .error ⟨0x02, 0x00⟩) ∧
  (∀ i, decode c slot true w = .ok i → decode c slot false w = if i.needsSupervisor then .error ⟨0x03, 0x00⟩ else .ok i) ∧
  (∀ i, decode c slot false w = .ok i → decode c slot true w = .ok i) ∧
  (∀ e, decode c slot true w = .error e → decode c slot false w = .error e)) ∧
  (∀ (sup : Bool) (ws : List Word) (k : Nat) (e : DecodeError),
  bundleError sup ws = some (k, e) → ∃ (n : Nat) (w : Word), n < 7 ∧ ws[k]? = some w ∧
    (checks .dense k sup w)[n]? = some (some e) ∧ decode .dense k sup w = .error e ∧
    (∀ j u, ws[j]? = some u → ∀ m < n, (checks .dense j sup u)[m]? = some none) ∧
    (∀ j u, ws[j]? = some u → j < k → (checks .dense j sup u)[n]? = some none))

/-! ### Steps (R161, R226, R228) -/

/-- A lookup thread whose turn it is, in rotation and with no refusal to take, runs the instruction that the bytes at its pc decode to: the step
is `exec` of it after the fetch, in a launch that its first issue has dated, followed by what every turn brings, and the turn passes on. -/
def Obligations.ThreadRunsDecoded : Prop := ∀ (s : State) (c t : Nat) (sl : Slot) (bs : List Byte) (i : Instr),
  let u := s.markStarted c t
  s.agenda = [] → s.focus = .thread c t → s.slot c t = some sl → sl.state = .running → s.idleCore (.lc c) = false → s.cur.wait = .none →
  sl.since ≤ s.cycle → u.partner s.focus = none → u.cur.refusals = [] → u.fetch s.focus u.cur.pc = .bytes bs →
  decode .lookup 0 u.cur.sup (BitVec.ofNat 32 (bytesToNat bs)) = .ok i →
  step s = match exec i (((u.fetched s.focus).ready).count (.lc c) 0x0002 1) with
    | .next x => .next (((x.afterTurn .none c t).backTo s.focus).passTurn)
    | o => o

/-- A dense tile whose turn it is runs the words of the bundle at its pc, slot 3 first and slot 0 last, each by `exec` in its own slot; a word of
a top byte that an earlier word of the bank still waits for is kept and issues again (log 103). -/
def Obligations.BundleRunsDecoded : Prop := ∀ (s : State) (j b : Nat) (bs : List Byte),
  let s1 := (s.land j (s.dp j).vcc).endMsq j
  let ws := wordsOf bs
  let is := [3, 2, 1, 0].filterMap fun k => match decode .dense k (s1.ctx (.bank j b)).sup ((ws[k]?).getD 0#32) with
    | .ok i => some (k, i)
    | .error _ => none
  let f := s1.fetched (.bank j b)
  s.agenda = [] → s.focus = .bank j b → b = (s.dp j).active → (s.bankInfo j b).isSome = true → s.idleCore (.dt j) = false →
  s.groupHolds j = false → (∀ l ∈ (s.dp j).lates, (s.dp j).vcc < l.due) → s.cur.refusals = [] → s1.cur.wait = .none →
  (s1.dp j).again = [] → s1.fetch (.bank j b) (s1.ctx (.bank j b)).pc = .bytes bs →
  bundleError (s1.ctx (.bank j b)).sup ws = none →
  (step s = match ((f.setCtx (.bank j b) { f.ctx (.bank j b) with
      waitLoops := (s1.ctx (.bank j b)).loops
      shown := some ((s1.ctx (.bank j b)).cbko, (s1.ctx (.bank j b)).src, (s1.ctx (.bank j b)).mpos) }).count (.dt j) 0x0002 1).issueBundle j b is with
    | .next x => .next ((x.backTo (.bank j b)).passTurn)
    | o => o) ∧
  (∀ (u : State) (pc : BitVec 48) (k : Nat) (i : Instr) (rest : List (Nat × Instr)) (x : State),
    ((u.topBusy i = false ∧ exec i { u with bslot := k } = .next x) ∨ (u.topBusy i = true ∧ x = { u.again with bslot := k })) →
    x.focus = .bank j b → (x.bankInfo j b).isSome = true →
    State.runSlots j pc ((k, i) :: rest) u = State.runSlots j pc rest (x.keepWord j pc k x.cur.waitLoops))

/-- A step of another unit that is due is made by `exec`, and the turn stays where it was; an agent's turn may come first where the manual gives
no order (log 4). No instruction stops the machine: every one, of a thread, of a bundle or of another unit, completes with a next state, whatever
its operands and the state, but for a step of another unit that names a link port, lane, launch port, die or host address that the module does
not have, and that one stops (R2, R187, R396, R410). -/
def Obligations.UnitStepRuns : Prop := (∀ (s : State) (i : Instr), (s.unitThere i → ∃ t, exec i s = .next t) ∧ (¬s.unitThere i → ∃ f, exec i s = .fault f)) ∧
  ∀ (s : State) (i : Instr) (rest : List Instr), s.agenda = i :: rest →
  let unit (u : State) : Host.Outcome State Fault Refusal := match exec i { u with agenda := rest } with
    | .next x => .next ((u.markWoken x).backTo u.focus)
    | o => o
  (comesFirst i = true → step s = unit s) ∧
  (comesFirst i = false → step s = if s.freeBool.1 then s.freeBool.2.turnStep else unit s.freeBool.2)

/-- Whatever a step does, the turn that follows is one that R161 allows: a thread slot of a ring has it only in the cycles of its own number
modulo 8. -/
def Obligations.TurnsStayInRotation : Prop := ∀ s t : State, s.turnOk → step s = .next t → t.turnOk

/-- The reset state has such a turn, memory in canonical form, and the reset values that R85, R153, R299, R318 and R357 give and those of log 1. -/
def Obligations.ResetValues : Prop := State.reset.turnOk ∧ Memory.wf State.reset.mem = true ∧ State.reset.regs.rcontrol = 0x4000 ∧
  (∀ a, (State.reset.ctx a).cbko = 0x01004009 ∧ (State.reset.ctx a).mflags = 0 ∧ (State.reset.ctx a).loops = [] ∧
    (State.reset.ctx a).vlen = BitVec.ofNat 64 (vectorBytes a) ∧ ∀ r, (State.reset.ctx a).readX r = 0#64) ∧
  (∀ a, memGet State.reset.mem a = 0) ∧ (∀ k, (State.reset.part k).tdeleg = 0x06188000)

/-! ### Scalar and control instructions (R243 to R259) -/

/-- ADD, SUB, ADDI, MUL, MULH and LI complete on every state with the value that R245 and R251 give, in both classes of core and for every
destination, x0 included. -/
def Obligations.ScalarSums : Prop := ∀ (s : State) (d a b : BitVec 5),
  (∀ n, ∃ v, exec (.add d a b n) s = .next (s.result 1 d v) ∧
    v.toNat = ((s.x a).toNat + (s.x b).toNat * 2 ^ n.toNat) % 2 ^ 64) ∧
  (∀ n, ∃ v, exec (.sub d a b n) s = .next (s.result 1 d v) ∧
    (v.toNat + (s.x b).toNat * 2 ^ n.toNat) % 2 ^ 64 = (s.x a).toNat) ∧
  (∀ i, ∃ v, exec (.addi d a i) s = .next (s.result 1 d v) ∧ v.toInt = ((s.x a).toInt + i.toInt).bmod (2 ^ 64)) ∧
  (∃ v, exec (.mul d a b) s = .next (s.result 3 d v) ∧ v.toNat = (s.x a).toNat * (s.x b).toNat % 2 ^ 64) ∧
  (∃ v, exec (.mulh d a b 0#1) s = .next (s.result 3 d v) ∧ v.toInt = (s.x a).toInt * (s.x b).toInt / 2 ^ 64) ∧
  (∃ v, exec (.mulh d a b 1#1) s = .next (s.result 3 d v) ∧ v.toNat = (s.x a).toNat * (s.x b).toNat / 2 ^ 64) ∧
  (∀ i, ∃ v, exec (.li d i) s = .next (s.result 1 d v) ∧ v.toInt = i.toInt)

/-- DIV and REM complete on every pair of operands as R246's divrem gives, and raise DZ exactly where the divisor is 0. -/
def Obligations.ScalarDivision : Prop := ∀ (s : State) (d a b : BitVec 5) (u : BitVec 1), ∃ q r,
  let z : BitVec 64 := if s.x b = 0#64 then 8#64 else 0#64
  exec (.div d a b u) s = .next ((s.setX 12 d q).raiseFlags 12 z).complete ∧
  exec (.rem d a b u) s = .next ((s.setX 12 d r).raiseFlags 12 z).complete ∧
  (s.x b = 0#64 → q.toNat = 2 ^ 64 - 1 ∧ r = s.x a) ∧
  (s.x b ≠ 0#64 → u = 1#1 → q.toNat = (s.x a).toNat / (s.x b).toNat ∧ r.toNat = (s.x a).toNat % (s.x b).toNat) ∧
  (s.x b ≠ 0#64 → u = 0#1 → q.toInt = ((s.x a).toInt.tdiv (s.x b).toInt).bmod (2 ^ 64) ∧ r.toInt = (s.x a).toInt.tmod (s.x b).toInt)

/-- The logic, shift, field and chunk instructions complete with the bits that R247, R248 and R251 give. -/
def Obligations.ScalarBits : Prop := ∀ (s : State) (d a b : BitVec 5),
  (∃ v, exec (.and d a b) s = .next (s.result 1 d v) ∧ ∀ j, v.getLsbD j = ((s.x a).getLsbD j && (s.x b).getLsbD j)) ∧
  (∃ v, exec (.or d a b) s = .next (s.result 1 d v) ∧ ∀ j, v.getLsbD j = ((s.x a).getLsbD j || (s.x b).getLsbD j)) ∧
  (∃ v, exec (.xor d a b) s = .next (s.result 1 d v) ∧ ∀ j, v.getLsbD j = ((s.x a).getLsbD j ^^ (s.x b).getLsbD j)) ∧
  (∀ f i, ∃ v, exec (.logi d a f i) s = .next (s.result 1 d v) ∧ ∀ j < 64,
    (f = 0#3 → v.getLsbD j = ((s.x a).getLsbD j && i.getLsbD j)) ∧ (f = 1#3 → v.getLsbD j = ((s.x a).getLsbD j || i.getLsbD j)) ∧
    (f = 2#3 → v.getLsbD j = ((s.x a).getLsbD j ^^ i.getLsbD j)) ∧ (f = 3#3 → v.getLsbD j = ((s.x a).getLsbD j && !i.getLsbD j)) ∧
    (f = 4#3 → v.getLsbD j = ((s.x a).getLsbD j || !i.getLsbD j)) ∧ (f = 5#3 → v.getLsbD j = !((s.x a).getLsbD j ^^ i.getLsbD j)) ∧
    (f = 6#3 → v.getLsbD j = !((s.x a).getLsbD j || i.getLsbD j))) ∧
  (∀ f (n : BitVec 6), ∃ v, exec (.shifti d a f n) s = .next (s.result 1 d v) ∧
    (n = (s.x b).setWidth 6 → exec (.shift d a b f) s = .next (s.result 1 d v)) ∧ ∀ j < 64,
    (f = 0#2 → v.getLsbD j = (decide (n.toNat ≤ j) && (s.x a).getLsbD (j - n.toNat))) ∧
    (f = 1#2 → v.getLsbD j = (s.x a).getLsbD (j + n.toNat)) ∧
    (f = 2#2 → v.getLsbD j = (s.x a).getLsbD (min (j + n.toNat) 63)) ∧
    (f = 3#2 → v.getLsbD ((j + n.toNat) % 64) = (s.x a).getLsbD j)) ∧
  (∀ g (p l : BitVec 6), p.toNat + l.toNat ≤ 63 → ∃ v, exec (.extr d a g p l) s = .next (s.result 1 d v) ∧ ∀ j < 64,
    v.getLsbD j = if j ≤ l.toNat then (s.x a).getLsbD (p.toNat + j) else (g = 1#1 && (s.x a).getLsbD (p.toNat + l.toNat))) ∧
  (∀ (p l : BitVec 6), p.toNat + l.toNat ≤ 63 → ∃ v, exec (.insr d a p l) s = .next (s.result 1 d v) ∧ ∀ j < 64,
    v.getLsbD j = if p.toNat ≤ j ∧ j ≤ p.toNat + l.toNat then (s.x a).getLsbD (j - p.toNat) else (s.x d).getLsbD j) ∧
  (∀ (p : BitVec 3) (c : BitVec 16), p.toNat ≤ 3 → ∃ v, exec (.lih d p c) s = .next (s.result 1 d v) ∧ ∀ j < 64,
    v.getLsbD j = if j / 16 = p.toNat then c.getLsbD (j % 16) else (s.x d).getLsbD j)

/-- CMP, CMPI, MIN, MAX, SEL, BITC and LIDX complete with the value that R247, R249, R250 and R258 give. -/
def Obligations.ScalarChoices : Prop := ∀ (s : State) (d a b : BitVec 5),
  (∀ f, f.toNat ≤ 5 → ∃ v, exec (.cmp d a b f) s = .next (s.result 1 d v) ∧ (v = 0#64 ∨ v = 1#64) ∧
    (f = 0#3 → (v = 1#64 ↔ s.x a = s.x b)) ∧ (f = 1#3 → (v = 1#64 ↔ s.x a ≠ s.x b)) ∧
    (f = 2#3 → (v = 1#64 ↔ (s.x a).toInt < (s.x b).toInt)) ∧ (f = 3#3 → (v = 1#64 ↔ (s.x a).toInt ≤ (s.x b).toInt)) ∧
    (f = 4#3 → (v = 1#64 ↔ (s.x a).toNat < (s.x b).toNat)) ∧ (f = 5#3 → (v = 1#64 ↔ (s.x a).toNat ≤ (s.x b).toNat))) ∧
  (∀ f (i : BitVec 11), f.toNat ≤ 5 → ∃ v, exec (.cmpi d a f i) s = .next (s.result 1 d v) ∧ (v = 0#64 ∨ v = 1#64) ∧
    (f = 0#3 → (v = 1#64 ↔ (s.x a).toInt = i.toInt)) ∧ (f = 1#3 → (v = 1#64 ↔ (s.x a).toInt ≠ i.toInt)) ∧
    (f = 2#3 → (v = 1#64 ↔ (s.x a).toInt < i.toInt)) ∧ (f = 3#3 → (v = 1#64 ↔ (s.x a).toInt ≤ i.toInt)) ∧
    (f = 4#3 → (v = 1#64 ↔ (s.x a).toNat < (i.signExtend 64).toNat)) ∧
    (f = 5#3 → (v = 1#64 ↔ (s.x a).toNat ≤ (i.signExtend 64).toNat))) ∧
  (∃ v, exec (.min d a b 0#1) s = .next (s.result 1 d v) ∧ v.toInt = min (s.x a).toInt (s.x b).toInt) ∧
  (∃ v, exec (.min d a b 1#1) s = .next (s.result 1 d v) ∧ v.toNat = min (s.x a).toNat (s.x b).toNat) ∧
  (∃ v, exec (.max d a b 0#1) s = .next (s.result 1 d v) ∧ v.toInt = max (s.x a).toInt (s.x b).toInt) ∧
  (∃ v, exec (.max d a b 1#1) s = .next (s.result 1 d v) ∧ v.toNat = max (s.x a).toNat (s.x b).toNat) ∧
  (∀ c e, c.toNat ≤ 5 → ∃ v, exec (.sel d a b c e) s = .next (s.result 1 d v) ∧
    (condMeans c (s.x e) → v = s.x a) ∧ (¬condMeans c (s.x e) → v = s.x b)) ∧
  (∀ (w : BitVec 1) (o : BitVec 2), ∃ v, exec (.bitc d a w o) s = .next (s.result 1 d v) ∧
    (let n := if w = 0#1 then 64 else 32
    (o = 0#2 → v.toNat = setBitsIn n (s.x a)) ∧
    (o = 1#2 → v.toNat ≤ n ∧ (v.toNat < n → (s.x a).getLsbD (n - 1 - v.toNat) = true) ∧
      ∀ j < n, n - v.toNat ≤ j → (s.x a).getLsbD j = false) ∧
    (o = 2#2 → v.toNat ≤ n ∧ (v.toNat < n → (s.x a).getLsbD v.toNat = true) ∧ ∀ j < v.toNat, (s.x a).getLsbD j = false))) ∧
  (∀ l, ∃ v, exec (.lidx d l) s = .next (s.result 1 d v) ∧
    (∀ e, s.cur.loops[l.toNat]? = some e → v = e.idx) ∧ (s.cur.loops.length ≤ l.toNat → v = 0#64))

/-- What writing a scalar result does: on a lookup thread the destination holds it at once, and on a dense tile it is in flight for its latency
(R162, R176); a write to x0 is discarded in both (R227); the pc moves on by one word, or with slot 0 by one bundle. -/
def Obligations.ScalarResult : Prop := ∀ (s : State) (lat : Nat) (d : BitVec 5) (v : BitVec 64),
  (∀ c t, s.focus = .thread c t → s.onlyCtx (s.result lat d v) s.focus ∧ s.cur.onlyRegs (s.result lat d v).cur ∧
    s.cur.scalarsKept (s.result lat d v).cur d ∧ (s.result lat d v).cur.v = s.cur.v ∧ (s.result lat d v).cur.k = s.cur.k ∧
    (s.result lat d v).cur.h = s.cur.h ∧ (s.result lat d v).cur.mflags = s.cur.mflags ∧ (s.result lat d v).cur.vlen = s.cur.vlen ∧
    (s.result lat d v).cur.src = s.cur.src ∧
    (s.result lat d v).x d = (if d = 0#5 then 0#64 else v) ∧ (s.cur.loops = [] → (s.result lat d v).cur.pc = s.cur.pc + 4#48)) ∧
  (∀ j b, s.focus = .bank j b →
    ((s.result lat d v).dp j).flights = (s.dp j).flights ++
      (if d = 0#5 then [] else [⟨b, .x d, v.setWidth 4096, BitVec.ofNat 4096 (2 ^ 64 - 1), (s.dp j).vcc, lat, s.free⟩]) ∧
    (∀ r, (s.result lat d v).x r = s.x r) ∧ (s.result lat d v).mem = s.mem ∧
    (s.bslot ≠ 0 → (s.result lat d v).cur.pc = s.cur.pc) ∧
    (s.bslot = 0 → s.cur.loops = [] → (s.result lat d v).cur.pc = s.cur.pc + 16#48))

/-- The frame of the scalar instructions on a lookup thread: nothing changes but the destination, the pc, the loop stack and, for DIV and REM,
mflags; no byte of memory, no other register file and no other context. -/
def Obligations.ScalarFrame : Prop := ∀ (i : Instr) (d : BitVec 5) (s t : State) (c n : Nat), scalarDest i = some d →
  s.focus = .thread c n → exec i s = .next t →
  s.onlyCtx t s.focus ∧ s.cur.onlyRegs t.cur ∧ s.cur.scalarsKept t.cur d ∧ t.cur.v = s.cur.v ∧ t.cur.k = s.cur.k ∧ t.cur.h = s.cur.h ∧
  t.cur.vlen = s.cur.vlen ∧ t.cur.src = s.cur.src ∧ (∀ a, memGet t.mem a = memGet s.mem a) ∧
  ((∀ a b u, i ≠ .div d a b u ∧ i ≠ .rem d a b u) → t.cur.mflags = s.cur.mflags)

/-- Where control goes on a lookup thread: NOP, BR, JMP and JMPR (R222, R225, R252). A JMPR to an address that is no multiple of 4 traps with
0x07 and tval the target, and writes nothing else (R225, R252). -/
def Obligations.Transfers : Prop :=
  (∀ (s : State) (c n : Nat), s.focus = .thread c n →
  (∃ t, exec .nop s = .next t ∧ s.onlyCtx t s.focus ∧ t.cur = s.cur.advance 4#48) ∧
  (∀ k a o, ∃ t, exec (.br k a o) s = .next t ∧ s.onlyCtx t s.focus ∧
    (condMeans k (s.x a) → t.cur = { s.cur with pc := s.cur.pc + o.signExtend 48 * 4#48 }) ∧
    (¬condMeans k (s.x a) → t.cur = s.cur.advance 4#48)) ∧
  (∀ l o, ∃ t, exec (.jmp l o) s = .next t ∧ s.onlyCtx t s.focus ∧ t.cur.pc = s.cur.pc + o.signExtend 48 * 4#48 ∧
    s.cur.scalarsKept t.cur 31#5 ∧ t.x 31#5 = (if l = 1#1 then (s.cur.pc + 4#48).setWidth 64 else s.x 31#5) ∧ t.cur.loops = s.cur.loops) ∧
  (∀ d a, (s.x a).toNat % 4 = 0 → ∃ t, exec (.jmpr d a) s = .next t ∧ s.onlyCtx t s.focus ∧ t.cur.pc = (s.x a).setWidth 48 ∧
    s.cur.scalarsKept t.cur d ∧ (d ≠ 0#5 → t.x d = (s.cur.pc + 4#48).setWidth 64) ∧ t.cur.loops = s.cur.loops)) ∧
  (∀ (s : State) (c n : Nat) (d a : BitVec 5), s.focus = .thread c n →
  (s.x a).toNat % 4 ≠ 0 → exec (.jmpr d a) s =
    .next (s.takeTrap s.focus { cause := 0x07, tval := ((s.x a).setWidth 48).setWidth 64 } s.cur.pc))

/-- LOOP and LEXIT on a lookup thread: the push, the skipped body and the overflow (R254, R255), the exit, the LEXIT that does not exit and the
underflow (R257). The end action of a hardware loop (R256): an iteration more, the end of the loop, and the end of an outer loop whose body ends
at the same address; elsewhere the next word or bundle. -/
def Obligations.Loops : Prop :=
  (∀ (s : State) (c n : Nat), s.focus = .thread c n →
  (∀ a i, s.x a ≠ 0#64 → s.cur.loops.length < 6 → ∃ t, exec (.loop a i) s = .next t ∧ s.onlyCtx t s.focus ∧
    t.cur = { s.cur with
      pc := s.cur.pc + 4#48
      loops := ⟨s.x a, 0#64, s.cur.pc + 4#48, s.cur.pc + i.setWidth 48 * 4#48⟩ :: s.cur.loops }) ∧
  (∀ a i, s.x a = 0#64 → ∃ t, exec (.loop a i) s = .next t ∧ s.onlyCtx t s.focus ∧
    t.cur = { s.cur with pc := s.cur.pc + i.setWidth 48 * 4#48 + 4#48 }) ∧
  (∀ a i, s.x a ≠ 0#64 → 6 ≤ s.cur.loops.length → exec (.loop a i) s =
    .next (s.takeTrap s.focus { cause := 0x1C, tval := s.cur.pc.setWidth 64 } s.cur.pc)) ∧
  (∀ a l e, (a = 0#5 ∨ s.x a ≠ 0#64) → s.cur.loops[l.toNat]? = some e → ∃ t, exec (.lexit a l) s = .next t ∧ s.onlyCtx t s.focus ∧
    t.cur = { s.cur with pc := e.last + 4#48, loops := s.cur.loops.drop (l.toNat + 1) }) ∧
  (∀ a l, a ≠ 0#5 → s.x a = 0#64 → ∃ t, exec (.lexit a l) s = .next t ∧ s.onlyCtx t s.focus ∧ t.cur = s.cur.advance 4#48) ∧
  (∀ a l, (a = 0#5 ∨ s.x a ≠ 0#64) → s.cur.loops.length ≤ l.toNat → exec (.lexit a l) s =
    .next (s.takeTrap s.focus { cause := 0x1C, tval := s.cur.pc.setWidth 64, tinfo := 1#64 } s.cur.pc))) ∧
  (∀ (c : Ctx) (u : BitVec 48) (e : LoopEntry) (rest : List LoopEntry), c.loops = e :: rest →
  (e.last ≠ c.pc → c.advance u = { c with pc := c.pc + u }) ∧
  (e.last = c.pc → (e.idx + 1#64).toNat < e.trip.toNat →
    c.advance u = { c with pc := e.first, loops := { e with idx := e.idx + 1#64 } :: rest }) ∧
  (e.last = c.pc → e.trip.toNat ≤ (e.idx + 1#64).toNat → (∀ o more, rest = o :: more → o.last ≠ c.pc) →
    c.advance u = { c with pc := c.pc + u, loops := rest }) ∧
  (e.last = c.pc → e.trip.toNat ≤ (e.idx + 1#64).toNat → c.advance u = ({ c with loops := rest } : Ctx).advance u))

/-! ### Vector instructions (R297 to R315) -/

/-- Integer VADD, VSUB, VMUL and VFMA complete with each active lane wrapped, saturated, or the high half of the product, as R303 and R304 give;
`f i` is the result of lane `i`. Integer VDIV, VMIN, VMAX and VNEG complete as R303 and R304 give; VDIV by 0 gives all ones and DZ, the only flag
of an integer vector operation. -/
def Obligations.VectorSums : Prop :=
  (∀ (s : State) (d a b : BitVec 5) (t q v : BitVec 3), isFloatType t = false → t ≠ 7#3 →
  let w := elemBits t
  let x (i : Nat) := laneAt s a w i
  let y (i : Nat) := laneAt s b w i
  let z (i : Nat) := laneAt s d w i
  let sat (r : Int) : Int := max (-(2 ^ (w - 1) : Nat)) (min (2 ^ (w - 1) - 1 : Nat) r)
  (v.toNat ≤ 2 → ∃ f tf, exec (.vadd d a b t q v) s = .next (s.lanewise 2 d t q 0 tf f) ∧ ∀ i,
    (f i).flags = 0 ∧ (f i).nan = false ∧
    (v = 0#3 → (f i).code = (x i + y i) % 2 ^ w) ∧
    (v = 1#3 → signedOf w (f i).code = sat (signedOf w (x i) + signedOf w (y i))) ∧
    (v = 2#3 → (f i).code = min (x i + y i) (2 ^ w - 1))) ∧
  (v.toNat ≤ 2 → ∃ f tf, exec (.vsub d a b t q v) s = .next (s.lanewise 2 d t q 0 tf f) ∧ ∀ i,
    (f i).flags = 0 ∧ (f i).nan = false ∧
    (v = 0#3 → (f i).code < 2 ^ w ∧ ((f i).code + y i) % 2 ^ w = x i) ∧
    (v = 1#3 → signedOf w (f i).code = sat (signedOf w (x i) - signedOf w (y i))) ∧
    (v = 2#3 → (f i).code = x i - y i)) ∧
  (v.toNat ≤ 4 → ∃ f tf, exec (.vmul d a b t q v) s = .next (s.lanewise 2 d t q 0 tf f) ∧ ∀ i,
    (f i).flags = 0 ∧ (f i).nan = false ∧
    (v = 0#3 → (f i).code = x i * y i % 2 ^ w) ∧
    (v = 1#3 → signedOf w (f i).code = sat (signedOf w (x i) * signedOf w (y i))) ∧
    (v = 2#3 → (f i).code = min (x i * y i) (2 ^ w - 1)) ∧
    (v = 3#3 → signedOf w (f i).code = signedOf w (x i) * signedOf w (y i) / (2 ^ w : Nat)) ∧
    (v = 4#3 → (f i).code = x i * y i / 2 ^ w)) ∧
  (v.toNat ≤ 2 → ∃ f tf, exec (.vfma d a b t q v) s = .next (s.lanewise 2 d t q 0 tf f) ∧ ∀ i,
    (f i).flags = 0 ∧ (f i).nan = false ∧
    (v = 0#3 → (f i).code = (x i * y i + z i) % 2 ^ w) ∧
    (v = 1#3 → signedOf w (f i).code = sat (signedOf w (x i) * signedOf w (y i) + signedOf w (z i))) ∧
    (v = 2#3 → (f i).code = min (x i * y i + z i) (2 ^ w - 1)))) ∧
  (∀ (s : State) (d a b : BitVec 5) (t q v : BitVec 3), isFloatType t = false → t ≠ 7#3 →
  let w := elemBits t
  let x (i : Nat) := laneAt s a w i
  let y (i : Nat) := laneAt s b w i
  let top : Int := (2 ^ (w - 1) - 1 : Nat)
  (v.toNat ≤ 1 → ∃ f tf, exec (.vdiv d a b t q v) s = .next (s.lanewise 2 d t q 0 tf f) ∧ ∀ i, (f i).nan = false ∧
    (y i = 0 → (f i).code = 2 ^ w - 1 ∧ (f i).flags = 8) ∧ (y i ≠ 0 → (f i).flags = 0) ∧
    (v = 1#3 → y i ≠ 0 → (f i).code = x i / y i) ∧
    (v = 0#3 → y i ≠ 0 → (f i).code = codeOf w ((signedOf w (x i)).tdiv (signedOf w (y i))))) ∧
  (v.toNat ≤ 1 → ∃ f tf, exec (.vmin d a b t q v) s = .next (s.lanewise 2 d t q 0 tf f) ∧ ∀ i, (f i).flags = 0 ∧
    (v = 1#3 → (f i).code = min (x i) (y i)) ∧ (v = 0#3 → signedOf w (f i).code = min (signedOf w (x i)) (signedOf w (y i)))) ∧
  (v.toNat ≤ 1 → ∃ f tf, exec (.vmax d a b t q v) s = .next (s.lanewise 2 d t q 0 tf f) ∧ ∀ i, (f i).flags = 0 ∧
    (v = 1#3 → (f i).code = max (x i) (y i)) ∧ (v = 0#3 → signedOf w (f i).code = max (signedOf w (x i)) (signedOf w (y i)))) ∧
  (v.toNat ≤ 3 → ∃ f tf, exec (.vneg d a t q v) s = .next (s.lanewise 2 d t q 0 tf f) ∧ ∀ i, (f i).flags = 0 ∧
    (v = 0#3 → ((f i).code + x i) % 2 ^ w = 0) ∧
    (v = 1#3 → signedOf w (f i).code = min (-(signedOf w (x i))) top) ∧
    (v = 2#3 → (f i).code = (signedOf w (x i)).natAbs) ∧
    (v = 3#3 → signedOf w (f i).code = min ((signedOf w (x i)).natAbs : Int) top)))

/-- Floating arithmetic completes with the exact result of each active lane rounded once under the variant's mode (R304), on the lane's own
random bits (R133); VMIN and VMAX give the default NaN for a NaN operand, and VNEG inverts the sign. -/
def Obligations.VectorFloats : Prop := ∀ (s : State) (d a b : BitVec 5) (t q v : BitVec 3), isFloatType t = true →
  let w := elemBits t
  let g := floatOf t
  let x (i : Nat) := g.decode (laneAt s a w i)
  let y (i : Nat) := g.decode (laneAt s b w i)
  let z (i : Nat) := g.decode (laneAt s d w i)
  let rounds (e : Exact) (i : Nat) : Res := e.round g v.toNat (s.laneBits i)
  (∃ f tf, exec (.vadd d a b t q v) s = .next (s.lanewise 4 d t q v.toNat tf f) ∧ ∀ i, f i = rounds (addVal v.toNat (x i) (y i)) i) ∧
  (∃ f tf, exec (.vsub d a b t q v) s = .next (s.lanewise 4 d t q v.toNat tf f) ∧ ∀ i, f i = rounds (addVal v.toNat (x i) (y i).flip) i) ∧
  (∃ f tf, exec (.vmul d a b t q v) s = .next (s.lanewise 4 d t q v.toNat tf f) ∧ ∀ i, f i = rounds (mulVal (x i) (y i)) i) ∧
  (∃ f tf, exec (.vdiv d a b t q v) s = .next (s.lanewise 4 d t q v.toNat tf f) ∧ ∀ i, f i = rounds (divVal (x i) (y i)) i) ∧
  (∃ f tf, exec (.vfma d a b t q v) s = .next (s.lanewise 4 d t q v.toNat tf f) ∧ ∀ i, f i = rounds (fmaVal v.toNat (x i) (y i) (z i)) i) ∧
  (∃ f tf, exec (.vsca d a b t q v) s = .next (s.lanewise 4 d t q v.toNat tf f) ∧
    ∀ i, (signedOf w (laneAt s b w i)).natAbs ≤ 1000 →
      f i = rounds (addVal v.toNat (z i) (scaleVal (x i) (signedOf w (laneAt s b w i)))) i) ∧
  (∃ f tf, exec (.vsqrt d a t q v) s = .next (s.lanewise 8 d t q v.toNat tf f) ∧ ∀ i, f i = rounds (sqrtVal (x i)) i) ∧
  (v = 0#3 → ∃ f tf, exec (.vmin d a b t q v) s = .next (s.lanewise 4 d t q 0 tf f) ∧ ∀ i, (f i).flags = 0 ∧
    ((x i).isNan = true ∨ (y i).isNan = true → (f i).code = g.nanCode)) ∧
  (v = 0#3 → ∃ f tf, exec (.vmax d a b t q v) s = .next (s.lanewise 4 d t q 0 tf f) ∧ ∀ i, (f i).flags = 0 ∧
    ((x i).isNan = true ∨ (y i).isNan = true → (f i).code = g.nanCode)) ∧
  (v = 0#3 → ∃ f tf, exec (.vneg d a t q v) s = .next (s.lanewise 4 d t q 0 tf f) ∧ ∀ i, (f i).flags = 0 ∧
    ((x i).isNan = true → (f i).code = g.nanCode) ∧
    ((x i).isNan = false → ((f i).code + laneAt s a w i) % 2 ^ w = (2 * laneAt s a w i + 2 ^ (w - 1)) % 2 ^ w))

/-- VEXP2, VLOG2, VRCP and VRSQ complete on floating types with the function's result in each active lane, and VSCA with them raises 0x1D on
integer types (R301, R312). The functions' values between their bounds are free (log 7). -/
def Obligations.VectorFunctions : Prop := ∀ (s : State) (d a : BitVec 5) (t q : BitVec 3),
  (isFloatType t = true →
    (∃ f tf, exec (.vexp2 d a t q 0#3) s = .next (s.lanewise 8 d t q 0 tf f) ∧ ∀ i, f i = funcRes 0 (floatOf t) (laneAt s a (elemBits t) i)) ∧
    (∃ f tf, exec (.vlog2 d a t q 0#3) s = .next (s.lanewise 8 d t q 0 tf f) ∧ ∀ i, f i = funcRes 1 (floatOf t) (laneAt s a (elemBits t) i)) ∧
    (∃ f tf, exec (.vrcp d a t q 0#3) s = .next (s.lanewise 8 d t q 0 tf f) ∧ ∀ i, f i = funcRes 2 (floatOf t) (laneAt s a (elemBits t) i)) ∧
    (∃ f tf, exec (.vrsq d a t q 0#3) s = .next (s.lanewise 8 d t q 0 tf f) ∧ ∀ i, f i = funcRes 3 (floatOf t) (laneAt s a (elemBits t) i))) ∧
  (∀ c n v b, s.focus = .thread c n → isFloatType t = false →
    let taken (i : Instr) : Host.Outcome State Fault Refusal := .next (s.takeTrap s.focus
      { cause := 0x1D, tval := (wordOf i).setWidth 64, tinfo := BitVec.ofNat 64 t.toNat } s.cur.pc)
    exec (.vexp2 d a t q v) s = taken (.vexp2 d a t q v) ∧ exec (.vlog2 d a t q v) s = taken (.vlog2 d a t q v) ∧
    exec (.vrcp d a t q v) s = taken (.vrcp d a t q v) ∧ exec (.vrsq d a t q v) s = taken (.vrsq d a t q v) ∧
    exec (.vsqrt d a t q v) s = taken (.vsqrt d a t q v) ∧ exec (.vsca d a b t q v) s = taken (.vsca d a b t q v))

/-- VSEL, VAND, VOR, VXOR, VSHF, VBCST, VPERM, VIOTA and VCNT complete with the lanes of R306, R307 and R311 and set no flag. VMOVX reads one
lane into a scalar register and writes one lane of a vector register, vlen ignored; an index beyond the register's lanes raises 0x1D of kind 3
with tval the index (R301, R303, R311). -/
def Obligations.VectorMoves : Prop :=
  (∀ (s : State) (d a b : BitVec 5) (t q : BitVec 3), t ≠ 7#3 →
  let w := elemBits t
  let l := laneCount (vectorBytes s.focus) w
  let x (i : Nat) := laneAt s a w i
  let y (i : Nat) := laneAt s b w i
  let moves (i : Instr) (q' : BitVec 3) (f : Nat → Nat) : Prop := ∃ g : Nat → Res, exec i s = .next (s.lanewise 2 d t q' 0 0#64 g) ∧
    ∀ j < l, (g j).flags = 0 ∧ (g j).nan = false ∧ (g j).code = f j
  moves (.vsel d a b t q) 0#3 (fun i => if (s.k q).getLsbD (i * w / 16) ∨ q = 0#3 then x i else y i) ∧
  moves (.vand d a b t q) q (fun i => x i &&& y i) ∧ moves (.vor d a b t q) q (fun i => x i ||| y i) ∧
  moves (.vxor d a b t q) q (fun i => x i ^^^ y i) ∧
  moves (.vbcst d a t q) q (fun _ => (s.x a).toNat % 2 ^ w) ∧
  moves (.vperm d a b t q) q (fun i => x (y i % l)) ∧
  (isFloatType t = false →
    moves (.viota d a b t q) q (fun i => ((s.x a).toNat + i * (s.x b).toNat) % 2 ^ w) ∧
    moves (.vcnt d a t q 0#3) q (fun i => ((List.range w).filter fun j => (x i).testBit j).length) ∧
    moves (.vcnt d a t q 1#3) q (fun i => if x i = 0 then w else w - 1 - Nat.log2 (x i)) ∧
    moves (.vshf d a b t q 0#2) q (fun i => x i * 2 ^ (y i % w) % 2 ^ w) ∧
    moves (.vshf d a b t q 1#2) q (fun i => x i / 2 ^ (y i % w)) ∧
    moves (.vshf d a b t q 2#2) q (fun i => codeOf w (signedOf w (x i) / (2 ^ (y i % w) : Nat))) ∧
    moves (.vshf d a b t q 3#2) q (fun i => x i * 2 ^ (y i % w) % 2 ^ w + x i / 2 ^ (w - y i % w) * (if y i % w = 0 then 0 else 1)))) ∧
  (∀ (s : State) (d a b : BitVec 5) (t : BitVec 3), isFloatType t = false → t ≠ 7#3 →
  let w := elemBits t
  ((s.x b).toNat < laneCount (vectorBytes s.focus) w →
    (∃ v, exec (.vmovxGet d a b t 1#1) s = .next (s.result 2 d v) ∧ v.toNat = laneAt s a w (s.x b).toNat) ∧
    (∃ v, exec (.vmovxGet d a b t 0#1) s = .next (s.result 2 d v) ∧ v.toInt = signedOf w (laneAt s a w (s.x b).toNat)) ∧
    (∃ r : Res, exec (.vmovxPut d a b t) s = .next (s.vecDone 2 d w [((s.x b).toNat, r)] 0#64) ∧ r.code = (s.x a).toNat % 2 ^ w ∧
      r.flags = 0 ∧ r.nan = false)) ∧
  (∀ c n z, s.focus = .thread c n → laneCount (vectorBytes s.focus) w ≤ (s.x b).toNat →
    let t1 := s.takeTrap s.focus { cause := 0x1D, tval := s.x b, tinfo := 0x300#64 } s.cur.pc
    exec (.vmovxGet d a b t z) s = .next t1 ∧ exec (.vmovxPut d a b t) s = .next t1))

/-- VCMP completes for every compare code: it writes, for each active lane, its result to every predicate bit that the lane covers, and to no
other bit; the 8-bit type raises 0x1D (R242, R305). VKOP combines whole predicate registers under each logic code and ignores vlen (R314). -/
def Obligations.Predicates : Prop := ∀ (s : State) (d : BitVec 3) (a b : BitVec 5) (t q f : BitVec 3),
  (t ≠ 0#3 → t ≠ 7#3 →
   let w := elemBits t
   let l := laneCount (vectorBytes s.focus) w
   let x (i : Nat) := laneAt s a w i
   let y (i : Nat) := laneAt s b w i
   let fx (i : Nat) := (floatOf t).decode (x i)
   let fy (i : Nat) := (floatOf t).decode (y i)
   ∃ v m, exec (.vcmp d a b t q f) s = .next (s.setK 2 d v m).complete ∧
    (∀ i < l, ∀ j < w / 16, m.getLsbD (i * w / 16 + j) = s.act q w i) ∧
    (∀ j, l * w / 16 ≤ j → m.getLsbD j = false) ∧
    ∀ i < l, s.act q w i = true → ∀ j < w / 16,
      let r : Bool := v.getLsbD (i * w / 16 + j)
      (isFloatType t = false →
        (f = 0#3 → (r = true ↔ x i = y i)) ∧ (f = 1#3 → (r = true ↔ x i ≠ y i)) ∧
        (f = 2#3 → (r = true ↔ signedOf w (x i) < signedOf w (y i))) ∧ (f = 3#3 → (r = true ↔ signedOf w (x i) ≤ signedOf w (y i))) ∧
        (f = 4#3 → (r = true ↔ x i < y i)) ∧ (f = 5#3 → (r = true ↔ x i ≤ y i))) ∧
      (isFloatType t = true → ((fx i).isNan = true ∨ (fy i).isNan = true) → (r = true ↔ f = 1#3 ∨ f = 6#3)) ∧
      (isFloatType t = true → (fx i).isNan = false → (fy i).isNan = false →
        (f = 0#3 → (r = true ↔ cmpVal (fx i) (fy i) = .eq)) ∧ (f = 1#3 → (r = true ↔ cmpVal (fx i) (fy i) ≠ .eq)) ∧
        (f = 2#3 → (r = true ↔ cmpVal (fx i) (fy i) = .lt)) ∧ (f = 3#3 → (r = true ↔ cmpVal (fx i) (fy i) ≠ .gt)) ∧
        (f = 6#3 → r = false))) ∧
  (∀ c n, s.focus = .thread c n → exec (.vcmp d a b 0#3 q f) s =
    .next (s.takeTrap s.focus { cause := 0x1D, tval := (wordOf (.vcmp d a b 0#3 q f)).setWidth 64, tinfo := 0#64 } s.cur.pc)) ∧
  (∀ g h : BitVec 3, ∃ v m, exec (.vkop d g h f) s = .next (s.setK 2 d v m).complete ∧
    (∀ j, predBits s.focus ≤ j → m.getLsbD j = false) ∧ ∀ j < predBits s.focus, m.getLsbD j = true ∧
      let p : Bool := (s.k g).getLsbD j
      let r : Bool := (s.k h).getLsbD j
      (f = 0#3 → v.getLsbD j = (p && r)) ∧ (f = 1#3 → v.getLsbD j = (p || r)) ∧ (f = 2#3 → v.getLsbD j = (p ^^ r)) ∧
      (f = 3#3 → v.getLsbD j = (p && !r)) ∧ (f = 4#3 → v.getLsbD j = (p || !r)) ∧ (f = 5#3 → v.getLsbD j = !(p ^^ r)) ∧
      (f = 6#3 → v.getLsbD j = !(p || r)))

/-- VCVT, VPACK, VUNPK, VRED and VRNG complete: the destination lanes of a conversion, the packed codes with their scales, the unpacked values,
the reduction in element 0 alone, and the generator's bits by lane, with the flags and the counter of each (R133, R308 to R310, R313). The sum of
VRED over integer lanes is that of the active lanes, modulo 2^w (R135, R303, R310). -/
def Obligations.VectorConversions : Prop :=
  (∀ (s : State) (d a b : BitVec 5) (q r : BitVec 3),
  (∀ x y f g, cvtFmt x.toNat = some f → cvtFmt y.toNat = some g → ∃ rs tf,
    exec (.vcvt d a x y q r) s = .next ((s.drawsFor r.toNat g.width).vecDone 4 d g.width rs tf) ∧
    rs.map (·.1) = s.activeLanes q (max f.width g.width) ∧
    ∀ p ∈ rs, p.2 = convert f g r.toNat (s.laneBits p.1) (laneAt s a f.width p.1)) ∧
  (∀ (c : BitVec 2) (p : BitVec 3), (packPair s.focus c && a.getLsbD 0) = false → ∃ scales cs flags nan tf,
    exec (.vpack d a b r c p) s = .next ((((if r = 4#3 then s.drawn (packCount s.focus c) else s).setV 4 d (packBits (packFmt p.toNat).width cs)
      (BitVec.ofNat 4096 (2 ^ ((packFmt p.toNat).width * packCount s.focus c) - 1))).setX 4 b (BitVec.ofNat 64 scales)).vecFinish 4 flags nan tf) ∧
    (scales, cs, flags, nan) = packBlocks (packFmt p.toNat) r.toNat s.laneBits ((List.range (packCount s.focus c)).map fun i =>
      (floatOf (packType c)).decode
        (laneAt s (packPlace s.focus c a i).1 (floatOf (packType c)).width (packPlace s.focus c a i).2))) ∧
  (∀ (c : BitVec 2) (p : BitVec 3), packPair s.focus c = false → ∃ rs : List (Nat × Res),
    exec (.vunpk d a b r c p) s = .next (((if r = 4#3 then s.drawn (packCount s.focus c) else s).setV 4 d
      (lanesValue (floatOf (packType c)).width rs) (lanesMask (floatOf (packType c)).width rs)).vecFinish 4 (lanesFlags rs) none 0#64) ∧
    rs.map (·.1) = List.range (packCount s.focus c) ∧
    ∀ e ∈ rs, e.2 = roundVal (floatOf (packType c)) r.toNat (s.laneBits e.1) (unpackVal (packFmt p.toNat)
      ((s.x b).toNat / 2 ^ (8 * (e.1 / 32)) % 256) (laneAt s a (packFmt p.toNat).width e.1))) ∧
  (∀ c t v, ∃ code flags nan tf n, exec (.vred d a c t q v) s =
    .next (((if modeOf t v = 4 then s.drawn n else s).setV 6 d (BitVec.ofNat 4096 code) (BitVec.ofNat 4096 (2 ^ elemBits t - 1))).vecFinish 6 flags nan tf) ∧
    n = laneCount (vectorBytes s.focus) (elemBits t) - 1 ∧ (isFloatType t = false → flags = 0 ∧ nan = none)) ∧
  (∀ t, isFloatType t = false → t ≠ 7#3 → ∃ rs, exec (.vrng d t q) s = .next ((s.drawn (vectorBytes s.focus / 2)).vecDone 2 d (elemBits t) rs 0#64) ∧
    rs.map (·.1) = s.activeLanes q (elemBits t) ∧ ∀ e ∈ rs, e.2.flags = 0 ∧ e.2.nan = false)) ∧
  (∀ (s : State) (d a : BitVec 5) (t q v : BitVec 3), isFloatType t = false → t ≠ 7#3 →
  let w := elemBits t
  ∃ code, exec (.vred d a 0#3 t q v) s = .next (((s.setV 6 d (BitVec.ofNat 4096 code) (BitVec.ofNat 4096 (2 ^ w - 1))).raiseFlags 6 0#64).complete) ∧
    code = ((s.activeLanes q w).map fun i => laneAt s a w i).sum % 2 ^ w)

/-- A lane-wise result on a lookup thread: every lane listed holds its code, every other lane of the destination keeps its contents, and no other
register of the thread but the pc, the loop stack and mflags changes (R301). The NaN trap (R139): with NE = 1 and NT = 0 a produced NaN sets NT
and traps with 0x0F once the instruction has completed; else it only leaves its flags. -/
def Obligations.LaneResults : Prop :=
  (∀ (s : State) (c n lat : Nat) (d : BitVec 5) (es : Nat) (rs : List (Nat × Res)) (tf : BitVec 64),
  s.focus = .thread c n → es ∈ [1, 2, 4, 8] → (rs.map (·.1)).Nodup → (∀ r ∈ rs, r.1 < 512 / es ∧ r.2.nan = false) →
  let w := 8 * es
  let t := s.vecDone lat d w rs tf
  s.onlyCtx t s.focus ∧
  (∀ r ∈ rs, laneOf (t.v d) w r.1 = r.2.code % 2 ^ w) ∧
  (∀ i < 4096 / w, i ∉ rs.map (·.1) → laneOf (t.v d) w i = laneOf (s.v d) w i) ∧
  (∀ r, r ≠ d → t.v r = s.v r) ∧ t.cur.x = s.cur.x ∧ t.cur.k = s.cur.k ∧ t.cur.h = s.cur.h ∧ s.cur.onlyRegs t.cur ∧
  t.cur.mflags = s.cur.mflags ||| BitVec.ofNat 64 (lanesFlags rs) ∧ t.cur.src = s.cur.src ∧ t.cur.vlen = s.cur.vlen) ∧
  (∀ (s : State) (c n lat flags lane : Nat) (tf : BitVec 64), s.focus = .thread c n →
  (s.cur.mflags.getLsbD 14 = true → s.cur.mflags.getLsbD 15 = false →
    s.vecFinish lat flags (some lane) tf = (s.raiseFlags lat (BitVec.ofNat 64 (flags + 0x8000))).complete.takeTrap s.focus
      { cause := 0x0F, tval := s.cur.pc.setWidth 64, tfmt := tf, tvec := BitVec.ofNat 64 lane } (loopEnd s.cur.pc 4#48 s.cur.loops).1) ∧
  (s.cur.mflags.getLsbD 14 = false ∨ s.cur.mflags.getLsbD 15 = true →
    s.vecFinish lat flags (some lane) tf = s.vecFinish lat flags none tf))

/-- The lanes that take part: those below the vector length whose governing predicate bit is 1, in ascending order (R298, R299, R301). VSETL sets
the vector length and answers the lanes obtained: no more than asked for, and no more than a register holds (R300). -/
def Obligations.Activity : Prop :=
  (∀ (s : State) (q : BitVec 3) (es i : Nat), es ∈ [1, 2, 4, 8] →
  (i ∈ s.activeLanes q (8 * es) ↔ i < vectorBytes s.focus / es ∧ i < s.cur.vlen.toNat / es ∧ (q = 0#3 ∨ (s.k q).getLsbD (i * es / 2) = true)) ∧
  (s.activeLanes q (8 * es)).Pairwise (· < ·)) ∧
  (∀ (s : State) (d a : BitVec 5) (t : BitVec 3), t ≠ 7#3 →
  let most := vectorBytes s.focus / elemBytes t
  ∃ g, exec (.vsetl d a t) s = .next (((s.setVlen 2 (g * elemBytes t)).setX 2 d (BitVec.ofNat 64 g)).complete) ∧
    g ≤ most ∧ (g = (s.x a).toNat ∨ g = most ∧ most < (s.x a).toNat))

/-! ### Memory and synchronisation (R260 to R277) -/

/-- LD and LDV of a lookup thread from its own scratchpad: the destination holds the bytes at base plus offset, extended as the width code gives
(R33, R223, R263), and nothing else changes but the pc and the operand kept for a trap's report. -/
def Obligations.OwnLoads : Prop := ∀ (s : State) (c t b : Nat) (d : BitVec 5) (h : BitVec 3) (a : BitVec 5) (w : BitVec 3) (o : BitVec 2) (i : BitVec 6),
  s.focus = .thread c t → (acquires o = true → s.wideScope s.focus = false) →
  (let n := widthBytes w
   let ofs := s.mOffset a i n
   let pa := canon (hBase (s.h h) + ofs.toNat)
   w ≠ 7#3 → checkHandle s.cur.sup (s.h h) ofs.toNat n n .load true = none → s.siteOf (.lc c) pa = .own b → s.ownOk (.lc c) b n = true →
   s.poisoned pa n = false → ∃ v, exec (.ld d h a w o i) s =
      .next (s.setCur (({ s.cur.writeX d v with opnd := (ofs, h), produced := false } : Ctx).advance 4#48)) ∧
    (w.toNat ≤ 2 → v.toInt = signedOf (8 * n) (s.readNat pa n)) ∧ (3 ≤ w.toNat → v.toNat = s.readNat pa n)) ∧
  (let ofs := s.mOffset a i 64
   let pa := canon (hBase (s.h h) + ofs.toNat)
   checkHandle s.cur.sup (s.h h) ofs.toNat 64 64 .load true = none → s.siteOf (.lc c) pa = .own b → s.ownOk (.lc c) b 64 = true →
   s.poisoned pa 64 = false → ∃ u, exec (.ldv d h a o i) s = .next u ∧ s.onlyCtx u s.focus ∧ (u.v d).toNat % 2 ^ 512 = s.readNat pa 64 ∧
    (∀ r, r ≠ d → u.v r = s.v r) ∧ u.cur.x = s.cur.x ∧ u.cur.k = s.cur.k ∧ u.cur.h = s.cur.h ∧ u.cur.mflags = s.cur.mflags ∧
    u.cur.pc = (s.cur.advance 4#48).pc)

/-- ST and STV of a lookup thread to its own scratchpad write exactly the bytes at base plus offset, and no other byte (R33, R263). -/
def Obligations.OwnStores : Prop := ∀ (s : State) (c t b : Nat) (d : BitVec 5) (h : BitVec 3) (a : BitVec 5) (w : BitVec 3) (o : BitVec 2) (i : BitVec 6),
  s.focus = .thread c t → releases o = false → Memory.wf s.mem = true →
  (let n := widthBytes w
   let ofs := s.mOffset a i n
   let pa := canon (hBase (s.h h) + ofs.toNat)
   w ≠ 7#3 → checkHandle s.cur.sup (s.h h) ofs.toNat n n .store true = none → s.siteOf (.lc c) pa = .own b → s.ownOk (.lc c) b n = true →
   ∃ u, exec (.st d h a w o i) s = .next u ∧ s.bytesKept u pa n ∧ u.readNat pa n = (s.x d).toNat % 2 ^ (8 * n) ∧
    u.cur = ({ s.cur with opnd := (ofs, h) } : Ctx).advance 4#48 ∧ ∀ x, agentId x ≠ agentId s.focus → u.ctx x = s.ctx x) ∧
  (let ofs := s.mOffset a i 64
   let pa := canon (hBase (s.h h) + ofs.toNat)
   checkHandle s.cur.sup (s.h h) ofs.toNat 64 64 .store true = none → s.siteOf (.lc c) pa = .own b → s.ownOk (.lc c) b 64 = true →
   ∃ u, exec (.stv d h a o i) s = .next u ∧ s.bytesKept u pa 64 ∧ u.readNat pa 64 = (s.v d).toNat % 2 ^ 512 ∧
    u.cur = ({ s.cur with opnd := (ofs, h) } : Ctx).advance 4#48 ∧ ∀ x, agentId x ≠ agentId s.focus → u.ctx x = s.ctx x)

/-- A failing check of R24 traps a load, a store or an atomic of a lookup thread with its cause, tval the offset and tinfo the handle's number,
and the instruction does nothing else; `checkHandle` makes the six checks in the order of the table. -/
def Obligations.HandleTraps : Prop := (∀ (sup : Bool) (h : BitVec 128) (o n al : Nat) (k : Access) (e : Nat), 0 < n → checkHandle sup h o n al k true = some e →
    (e = 0x04 ∧ h.getLsbD 127 = false) ∨
    (h.getLsbD 127 = true ∧ e = 0x03 ∧ hS h = true ∧ sup = false) ∨
    (h.getLsbD 127 = true ∧ (hS h = true → sup = true) ∧ e = 0x05 ∧ hLimit h < o + n - 1) ∨
    ((hS h = true → sup = true) ∧ o + n - 1 ≤ hLimit h ∧ e = 0x06 ∧ rightsOk h k = false) ∨
    (o + n - 1 ≤ hLimit h ∧ rightsOk h k = true ∧ e = 0x07 ∧ o % al ≠ 0) ∨
    (rightsOk h k = true ∧ o % al = 0 ∧ e = 0x0E ∧ hD h = true)) ∧
  ∀ (s : State) (c t e : Nat) (d : BitVec 5) (h : BitVec 3) (a : BitVec 5) (w : BitVec 3) (o : BitVec 2) (i : BitVec 6), s.focus = .thread c t →
    let n := widthBytes w
    let ofs := s.mOffset a i n
    let taken (ofs : BitVec 64) : Host.Outcome State Fault Refusal := .next (s.takeTrap s.focus
      { cause := e, tval := ofs, tinfo := if e = 0x03 then 0#64 else h.setWidth 64 } s.cur.pc)
    (e ≠ 0x0E → checkHandle s.cur.sup (s.h h) ofs.toNat n n .load true = some e →
      exec (.ld d h a w o i) s = taken ofs ∧ exec (.rld d h a w o i) s = taken ofs) ∧
    (checkHandle s.cur.sup (s.h h) ofs.toNat n n .store true = some e → exec (.st d h a w o i) s = taken ofs ∧ exec (.rst d h a w o i) s = taken ofs) ∧
    (∀ b z, checkHandle s.cur.sup (s.h h) (s.x a).toNat (4 * 2 ^ z.toNat) (4 * 2 ^ z.toNat) .amor true = some e →
      exec (.cas d a b h o z) s = taken (s.x a))

/-- LDVS and STVS of a lookup thread whose lanes all lie in its own scratchpad: each active lane takes the element at base, offset and lane times
stride, and the inactive lanes and all other registers keep what they hold; a store changes no byte outside its lanes (R264). -/
def Obligations.StridedAccess : Prop := ∀ (s : State) (c t : Nat) (d a b : BitVec 5) (m q : BitVec 3) (e : BitVec 2), s.focus = .thread c t →
  let es := 2 ^ e.toNat
  let on := s.activeLanes q (8 * es)
  let off (i : Nat) : Int := (s.x a).toNat + i * (s.x b).toInt
  let pa (i : Nat) : Nat := canon (hBase (s.h m) + (off i).toNat)
  on ≠ [] → (s.x a).toNat % es = 0 → (s.x b).toInt % es = 0 → (∀ i ∈ on, 0 ≤ off i ∧ off i + es ≤ hLimit (s.h m) + 1 ∧ off i + es ≤ 2 ^ 64) →
  (∀ i ∈ on, ∃ k, s.siteOf (.lc c) (pa i) = .own k ∧ s.ownOk (.lc c) k es = true) → hV (s.h m) = true → (hS (s.h m) = true → s.cur.sup = true) →
  hD (s.h m) = false →
  (hR (s.h m) = true → (∀ i ∈ on, s.poisoned (pa i) es = false) → ∃ u, exec (.ldvs d a b m q e) s = .next u ∧ s.onlyCtx u s.focus ∧
    (∀ i ∈ on, laneOf (u.v d) (8 * es) i = s.readNat (pa i) es) ∧ (∀ i < 64 / es, i ∉ on → laneOf (u.v d) (8 * es) i = laneOf (s.v d) (8 * es) i) ∧
    (∀ r, r ≠ d → u.v r = s.v r) ∧ u.cur.x = s.cur.x ∧ u.cur.k = s.cur.k ∧ u.cur.h = s.cur.h ∧ u.cur.pc = (s.cur.advance 4#48).pc) ∧
  (hW (s.h m) = true → Memory.wf s.mem = true → ∃ u, exec (.stvs d a b m q e) s = .next u ∧
    (∀ x, (∀ i ∈ on, x < pa i ∨ pa i + es ≤ x) → memGet u.mem x = memGet s.mem x) ∧
    (∀ i ∈ on, (∀ j ∈ on, i < j → pa j + es ≤ pa i ∨ pa i + es ≤ pa j) → u.readNat (pa i) es = laneAt s d (8 * es) i) ∧
    u.cur.x = s.cur.x ∧ u.cur.v = s.cur.v ∧ u.cur.k = s.cur.k ∧ u.cur.h = s.cur.h ∧ u.cur.pc = (s.cur.advance 4#48).pc)

/-- TRNS, its physical form and HOP on a lookup thread, and the walk's end: a translation held gives the leaf's handle at once; else a walk is
asked for and the thread waits, and its end writes the handle, without V where a revocation has met the walk, or page-faults (R22, R26, R265 to
R267). -/
def Obligations.Handles : Prop := ∀ (s : State) (c t : Nat) (d : BitVec 3) (x : BitVec 5), s.focus = .thread c t →
  (∀ e lg, s.translate (.lc c) s.curKey s.cur.sup (s.x x) = .hit e lg → ∃ u, exec (.trns d x) s = .next u ∧ s.onlyCtx u s.focus ∧
    u.h d = leafHandle e lg s.curKey ∧ (∀ r, r ≠ d → u.h r = s.h r) ∧ u.cur.x = s.cur.x ∧ u.cur.v = s.cur.v ∧ u.cur.k = s.cur.k ∧
    u.cur.pc = (s.cur.advance 4#48).pc) ∧
  (∀ e lg, s.translate (.lc c) s.curKey s.cur.sup (s.x x) = .walked e lg → ∃ u, exec (.trns d x) s = .next u ∧
    u.agenda.getLast? = some (.translationWalkComplete s.focus d (s.x x) s.revSeq) ∧ u.cur = { s.cur with walkRevs := [], wait := .completion 0x26 } ∧
    u.mem = s.mem) ∧
  (∀ f, s.translate (.lc c) s.curKey s.cur.sup (s.x x) = .fault f → ((s.x x).extractLsb' 48 16 ≠ 0#16 ∨ (s.part s.curKey).ptroot.getLsbD 63 = false) →
    exec (.trns d x) s = .next (s.takeTrap s.focus { cause := 0x08, tval := s.x x, tinfo := BitVec.ofNat 64 f } s.cur.pc)) ∧
  (∀ e lg st va, s.regs.nqen = false → s.cur.wait = .completion 0x26 → s.translate (.lc c) s.curKey s.cur.sup va = .walked e lg →
    s.cur.walkRevs = [] → ∃ u, exec (.translationWalkComplete s.focus d va st) s = .next u ∧ u.mem = s.mem ∧
    u.h d = leafHandle e lg s.curKey ∧ u.cur.wait = .none ∧ u.cur.x = s.cur.x ∧ u.cur.pc = (s.cur.advance 4#48).pc) ∧
  (∀ e lg st va r, s.regs.nqen = false → s.cur.wait = .completion 0x26 → s.translate (.lc c) s.curKey s.cur.sup va = .walked e lg →
    r ∈ s.cur.walkRevs → matchesRev r (leafHandle e lg s.curKey) = true → ∃ u, exec (.translationWalkComplete s.focus d va st) s = .next u ∧
    hV (u.h d) = false ∧ u.cur.wait = .none) ∧
  (∀ f st va, s.regs.nqen = false → s.cur.wait = .completion 0x26 → s.translate (.lc c) s.curKey s.cur.sup va = .fault f →
    exec (.translationWalkComplete s.focus d va st) s =
      .next (s.takeTrap s.focus { cause := 0x08, tval := va, tinfo := BitVec.ofNat 64 f } s.cur.pc)) ∧
  (∀ (r : BitVec 3) (l : BitVec 6) lim, 6 ≤ l.toNat → l.toNat ≤ 48 → (s.x x).toNat % 2 ^ l.toNat = 0 → spaceOf (s.x x).toNat ≠ 4 →
    spaceLimit (spaceOf (s.x x).toNat) = some lim → offsetOf (s.x x).toNat + 2 ^ l.toNat ≤ lim → ∃ u, exec (.trnsPhys d x r l) s = .next u ∧
    s.onlyCtx u s.focus ∧ u.h d = mkHandle false false r.toNat true l.toNat s.curKey (s.x x).toNat ∧ (∀ k, k ≠ d → u.h k = s.h k) ∧
    u.cur.x = s.cur.x ∧ u.cur.pc = (s.cur.advance 4#48).pc) ∧
  (∀ r : BitVec 5, ∃ v, exec (.hop r d 0#3) s = .next (s.result 1 r v) ∧ v.toNat = hBase (s.h d)) ∧
  (∀ r : BitVec 5, ∃ v, exec (.hop r d 1#3) s = .next (s.result 1 r v) ∧ v.toNat = hLimit (s.h d) % 2 ^ 64)

/-- The operations of a lookup thread that are performed at their site. AMO with a result, CAS and RLD send one request and the thread waits for
its reply; RST, AMO without one, MSPOST and a one-lane RADD send it under a journal entry, and the thread goes on (R92, R262, R269 to R271,
R273). -/
def Obligations.SentOperations : Prop := ∀ (s : State) (c t : Nat) (d a b : BitVec 5) (m : BitVec 3) (o : BitVec 2), s.focus = .thread c t →
  (s.lp c).sbuf = [] → releases o = false →
  let there (pa : Nat) : Prop := moduleOf pa = s.module ∧ spaceOf pa ≠ 4 ∧ spaceOf pa ≠ 6 ∧ l1Find (s.lp c) (pa / 64) = none
  let at' (ofs : BitVec 64) : State := s.setCur { s.cur with opnd := (ofs, m) }
  let waits (i : Instr) (ofs : BitVec 64) (op : ReqOp) (pa n : Nat) (bs : List Byte) (dst : Dest) (acq : Bool) : Prop := ∃ u, exec i s = .next u ∧
    u.cur = { s.cur with opnd := (ofs, m), undo := none, wait := .replies 1 } ∧
    u.agenda.getLast? = some (.homeRequest ((at' ofs).requestOf op pa n bs dst none acq)) ∧ u.agenda.length = s.agenda.length + 1 ∧ u.mem = s.mem
  let posts (i : Instr) (top : Nat) (ofs : BitVec 64) (n : Nat) (sent : State → Nat → Instr) : Prop := ∃ u j, exec i s = .next u ∧
    nextEntry s.cur = some j ∧
    u.cur = ({ s.cur with
      opnd := (ofs, m)
      journal := setAt s.cur.journal j ⟨s.cur.pc, BitVec.ofNat 8 top, m, ofs, 1, s.cur.wayOpen, s.h m, n, 0, s.cycle⟩
      jpos := j } : Ctx).advance 4#48 ∧
    u.agenda.getLast? = some (sent (at' ofs) j) ∧ u.agenda.length = s.agenda.length + 1 ∧ u.mem = s.mem
  (∀ (z : BitVec 1) (f : BitVec 3),
    let n := 4 * 2 ^ z.toNat
    let pa := canon (hBase (s.h m) + (s.x a).toNat)
    let bs := natToBytes n (s.x b).toNat
    there pa →
    (d ≠ 0#5 → checkHandle s.cur.sup (s.h m) (s.x a).toNat n n .amor true = none →
      waits (.amo d a b m o z f) (s.x a) (.amo f true) pa n bs (.x d (atomicWidth z)) (acquires o && s.wideScope s.focus)) ∧
    (checkHandle s.cur.sup (s.h m) (s.x a).toNat n n .amor true = none →
      waits (.cas d a b m o z) (s.x a) (.cas ((s.x d).toNat % 2 ^ (8 * n))) pa n bs (.x d (atomicWidth z)) (acquires o && s.wideScope s.focus)) ∧
    (d = 0#5 → journalFull s.cur = false → checkHandle s.cur.sup (s.h m) (s.x a).toNat n n .acc true = none →
      posts (.amo d a b m o z f) 0x2A (s.x a) n fun w j => .homeRequest (w.requestOf (.amo f false) pa n bs .none (some j) false))) ∧
  (∀ (w : BitVec 3) (i : BitVec 6),
    let n := widthBytes w
    let ofs := s.mOffset a i n
    let pa := canon (hBase (s.h m) + ofs.toNat)
    there pa →
    (checkHandle s.cur.sup (s.h m) ofs.toNat n n .load true = none →
      waits (.rld d m a w o i) ofs .load pa n [] (.x d w) (acquires o && s.wideScope s.focus)) ∧
    (journalFull s.cur = false → checkHandle s.cur.sup (s.h m) ofs.toNat n n .store true = none →
      posts (.rst d m a w o i) 0x2D ofs n fun v j => .homeRequest (v.requestOf .store pa n (natToBytes n (s.x d).toNat) .none (some j) false))) ∧
  (journalFull s.cur = false → s.wideScope s.focus = false →
    let pa := hBase (s.h m) + (s.x a).toNat
    checkHandle s.cur.sup (s.h m) (s.x a).toNat 16 16 .store true = none → spaceOf pa = 3 → moduleOf pa = s.module →
    posts (.mspost a b m) 0x32 (s.x a) 16 fun w j =>
      .homeRequest (w.requestOf (.contribute (min (s.x b).toNat 0xFFFFFFFFFF)) pa 16 [] .none (some j) false)) ∧
  (∀ (ty : BitVec 2) (q : BitVec 3), journalFull s.cur = false →
    let es := raddBytes ty
    let pa := canon (hBase (s.h m) + (s.x a).toNat)
    s.activeLanes q (8 * es) = [0] → checkHandle s.cur.sup (s.h m) (s.x a).toNat es es .acc true = none → (s.x a).toNat % es = 0 →
    (s.x a).toNat + es ≤ 2 ^ 64 → spaceOf (hBase (s.h m)) ≠ 6 → there pa →
    posts (.radd d a m ty q) 0x2C (s.x a) es fun w j => .homeRequest
      { w.requestOf (.radd ty) pa es (natToBytes es (laneAt s d (8 * es) 0)) .none (some j) false with mask := List.replicate es true })

/-- FENCE, HINV and DROP of a lookup thread: a fence with no kind before or no kind after completes at once, and any other once its release is
done, and acquires; an empty HINV or DROP does nothing, and another HINV starts the revocation of its range at its scope and waits; DROP sets D
of each granule, revokes the pages that it has dropped and waits, and stops with 0x0A at a granule that is no 64 KiB leaf with O = 1 (R98, R157,
R268, R272). -/
def Obligations.FencesAndRevocations : Prop := ∀ (s : State) (c t : Nat) (a b : BitVec 5) (k : BitVec 8) (z : BitVec 4) (sc : Nat),
  s.focus = .thread c t → s.resolveScope s.focus z.toNat = some sc →
  ((k.getLsbD 0 = false ∧ k.getLsbD 1 = false ∨ k.getLsbD 2 = false ∧ k.getLsbD 3 = false) →
    exec (.fence k z) s = .next (s.setCur (s.cur.advance 4#48))) ∧
  ((k.getLsbD 0 = true ∨ k.getLsbD 1 = true) → (k.getLsbD 2 = true ∨ k.getLsbD 3 = true) →
    let wide : Bool := decide (1 < sc)
    let rel := s.releaseFor s.focus (k.getLsbD 1 && wide) (k.getLsbD 1 && k.getLsbD 4)
    (rel.1 = true → exec (.fence k z) s = .next (rel.2.acquireFor rel.2.focus (wide && k.getLsbD 2)).complete) ∧
    (rel.1 = false → exec (.fence k z) s = .next rel.2.again) ∧
    (wide = false → (s.lp c).sbuf = [] → exec (.fence k z) s = .next (s.setCur (s.cur.advance 4#48)))) ∧
  (1 ≤ sc → sc ≤ 5 → s.x b = 0#64 → exec (.hinv a b z) s = .next (s.setCur (s.cur.advance 4#48))) ∧
  (1 ≤ sc → sc ≤ 5 → (sc = 5 → s.otherModules = []) → s.x b ≠ 0#64 → ∃ u r, exec (.hinv a b z) s = .next u ∧ u.cur = { s.cur with wait := .completion 0x27 } ∧
    u.revs.getLast?.map (·.rev) = some r ∧ r.key = s.curKey ∧ r.lo = (s.x a).toNat ∧ r.scope = sc ∧ r.who = .agent s.focus ∧
    (r.lo + (s.x b).toNat ≤ 2 ^ 64 → r.hi + 1 = r.lo + (s.x b).toNat) ∧ u.mem = s.mem ∧
    ∀ v ∈ s.scopeCores sc (.lc c), Instr.revocationApply v r ∈ u.agenda) ∧
  (let va := (s.x a).toNat
   let n := (s.x b).toNat
   let trapped (e : Nat) (tv ti : BitVec 64) (u : State) : Host.Outcome State Fault Refusal :=
     .next (u.takeTrap s.focus { cause := e, tval := tv, tinfo := ti } s.cur.pc)
   (va % 65536 = 0 → n = 0 → exec (.drop a b) s = .next (s.setCur (s.cur.advance 4#48))) ∧
   (va % 65536 ≠ 0 → exec (.drop a b) s = trapped 0x07 0#64 0#64 s) ∧
   (va % 65536 = 0 → 65536 < n → exec (.drop a b) s = trapped 0x0A 0#64 3#64 s) ∧
   (va % 65536 = 0 → n = 1 → va < 2 ^ 48 → Memory.wf s.mem = true →
    (∀ e pa dep, s.walk s.curKey va = .leaf e 16 pa dep → pteO e = true → ∃ u r, exec (.drop a b) s = .next u ∧
      s.bytesKept u (canon pa) 8 ∧ u.readNat (canon pa) 8 = (e ||| (1#64 <<< 57)).toNat ∧ u.cur.wait = .completion 0x29 ∧ u.cur.x = s.cur.x ∧
      u.cur.pc = s.cur.pc ∧ u.revs.getLast?.map (·.rev) = some r ∧ r.key = s.curKey ∧ r.lo = leafPage e ∧ r.hi = leafPage e + 65535 ∧ r.scope = 4 ∧
      r.who = .agent s.focus) ∧
    ((∀ e pa dep, s.walk s.curKey va = .leaf e 16 pa dep → pteO e = false) → exec (.drop a b) s = trapped 0x0A (s.x a) 5#64 s)) ∧
   (va % 65536 = 0 → 0 < n → n ≤ 65536 → ∀ s1 p ps stop, s.dropGranules s.curKey va n = (s1, p :: ps, stop) → ∃ u, exec (.drop a b) s = .next u ∧
     u.mem = s1.mem ∧ u.cur.wait = .completion 0x29 ∧ u.cur.x = s.cur.x ∧
     ∀ q ∈ p :: ps, ∃ w ∈ u.revs, w.rev.key = s.curKey ∧ w.rev.lo ≤ q ∧ q + 65535 ≤ w.rev.hi ∧ w.rev.scope = 4 ∧ w.rev.who = .agent s.focus))

/-- MSARM, MSWAIT and MSTEST of a lookup thread. On a word of its own scratchpad MSARM arms the word, MSTEST and a MSWAIT whose generation is
reached write the generation and acquire, and any other MSWAIT sleeps on the word; on any other word of the module each sends its request to the
word's site and the thread waits for the answer, MSWAIT until its generation is reached (R108, R109, R201, R273). Milestone words (R107 to R110):
a contribution adds its bytes, saturating with OV; with RA = 0 a met target makes one generation and disarms, and with RA = 1 as many as the
count holds; EX is set where bytes remain over. A generation reaches another when it is less than half the number circle past it. -/
def Obligations.MilestoneWords : Prop :=
  (∀ (s : State) (c t : Nat) (d a b : BitVec 5) (m : BitVec 3) (r : BitVec 1),
  s.focus = .thread c t → Memory.wf s.mem = true →
  let pa := hBase (s.h m) + (s.x a).toNat
  let w := s.milestone pa
  let g := (s.x b).toNat % 2 ^ 32
  let idle : Prop := s.wordReport pa = none ∧ s.cur.sealedBatches = [] ∧ s.batch s.focus s.cur.openBatch = none
  let mayStore : Prop := checkHandle s.cur.sup (s.h m) (s.x a).toNat 16 16 .store true = none
  let mayLoad : Prop := checkHandle s.cur.sup (s.h m) (s.x a).toNat 16 16 .load true = none
  moduleOf pa = s.module →
  (∀ k, s.siteOf (.lc c) pa = .own k → s.ownOk (.lc c) k 16 = true → spaceOf pa = 4 →
    (mayStore →
      (∀ x, (s.x b).toNat ≤ 0xFFFFFFFFFF → w.arm (s.x b).toNat (r = 1#1) = some x → ∃ u, exec (.msarm a b m r) s = .next u ∧
        u = (s.setMilestone pa x).setCur (s.cur.advance 4#48) ∧ s.bytesKept u pa 16) ∧
      ((0xFFFFFFFFFF < (s.x b).toNat ∨ w.arm (s.x b).toNat (r = 1#1) = none) → exec (.msarm a b m r) s =
        .next (s.takeTrap s.focus { cause := 0x0B, tval := s.x a, tinfo := m.setWidth 64 } s.cur.pc))) ∧
    (mayLoad → s.poisoned (canon pa) 16 = false →
      (s.wordReport pa = none → ∃ u, exec (.mstest d a m) s = .next u ∧ u.mem = s.mem ∧ (d ≠ 0#5 → (u.x d).toNat = w.gen) ∧ s.cur.scalarsKept u.cur d ∧
        u.cur.pc = (s.cur.advance 4#48).pc ∧ u.cur.v = s.cur.v ∧ u.cur.h = s.cur.h) ∧
      (idle → reaches w.gen g = true → ∃ u, exec (.mswait d a b m) s = .next u ∧ u.mem = s.mem ∧
        (d ≠ 0#5 → (u.x d).toNat = w.gen) ∧ s.cur.scalarsKept u.cur d ∧ u.cur.pc = (s.cur.advance 4#48).pc) ∧
      (idle → reaches w.gen g = false → ∃ u, exec (.mswait d a b m) s = .next u ∧ u.cur = { s.cur with wait := .sleepMilestone pa g } ∧ u.mem = s.mem))) ∧
  (s.ownWord pa = false → milestoneSpace pa = true → (s.lp c).sbuf = [] → l1Find (s.lp c) (pa / 64) = none →
    let asks (i : Instr) (op : ReqOp) (dst : Dest) (acq : Bool) (want : Option (Nat × Nat)) : Prop :=
      let q := (s.setCur { s.cur with opnd := (s.x a, m) }).requestOf op pa 16 [] dst none acq
      ∃ u, exec i s = .next u ∧ u.cur = { s.cur with opnd := (s.x a, m), undo := none, wait := .replies 1, want := want } ∧
        u.agenda = s.agenda ++ [if spaceOf pa = 4 then .tileWindowAccess q else .homeRequest q] ∧ u.mem = s.mem
    (mayStore → (s.x b).toNat ≤ 0xFFFFFFFFFF → asks (.msarm a b m r) (.msarm (s.x b).toNat (r = 1#1)) (.x 0#5 3#3) false s.cur.want) ∧
    (mayLoad → s.wordReport pa = none → asks (.mstest d a m) .generation (.x d 6#3) true s.cur.want) ∧
    (mayLoad → idle → asks (.mswait d a b m) .generation (.x d 6#3) true (some (pa, g))))) ∧
  (∀ (m : Milestone) (n : Nat),
  (m.target = 0 → m.arrived + n ≤ 0xFFFFFFFFFF → m.contribute n = { m with arrived := m.arrived + n }) ∧
  (m.arrived + n < m.target → m.arrived + n ≤ 0xFFFFFFFFFF → m.contribute n = { m with arrived := m.arrived + n }) ∧
  (0 < m.target → m.target ≤ m.arrived + n → m.arrived + n ≤ 0xFFFFFFFFFF → m.ra = false →
    (m.contribute n).arrived + m.target = m.arrived + n ∧ (m.contribute n).gen = (m.gen + 1) % 2 ^ 32 ∧ (m.contribute n).target = 0 ∧
    ((m.contribute n).ex = true ↔ m.ex = true ∨ m.arrived + n ≠ m.target)) ∧
  (0 < m.target → m.target ≤ m.arrived + n → m.arrived + n ≤ 0xFFFFFFFFFF → m.ra = true →
    ∃ g, (m.contribute n).gen = (m.gen + g) % 2 ^ 32 ∧ g * m.target + (m.contribute n).arrived = m.arrived + n ∧
    (m.contribute n).arrived < m.target ∧ (m.contribute n).target = m.target) ∧
  (0xFFFFFFFFFF < m.arrived + n → (m.contribute n).ov = true) ∧
  (∀ r, m.arm n r = none ↔ 0xFFFFFFFFFF < m.target + n) ∧
  (∀ r, m.arrived < m.target + n → m.target + n ≤ 0xFFFFFFFFFF → m.arm n r = some { m with target := m.target + n, ra := r }) ∧
  (∀ g h : Nat, g < 2 ^ 32 → h < 2 ^ 32 → (reaches g h = true ↔ (g + 2 ^ 32 - h) % 2 ^ 32 < 2 ^ 31)))

/-- WPB and WPC of a lookup thread, which commits what is pending at its sites and closes once that is done and released, and a rollback to what
WPB kept: the registers, predicates, handles, loops, flags and scope of the checkpoint come back, control is after the WPB, and its destination
holds the cause; memory is not touched (R101, R102, R275, R362). -/
def Obligations.Waypoints : Prop := ∀ (s : State) (c t : Nat) (d : BitVec 5), s.focus = .thread c t →
  (s.cur.wayOpen = false → ∃ u k, exec (.wpb d) s = .next u ∧ s.onlyCtx u s.focus ∧ u.cur.wayOpen = true ∧ u.cur.wayDest = d ∧
    u.cur.checkpoint = some k ∧ u.x d = 0#64 ∧ s.cur.scalarsKept u.cur d ∧ u.cur.pc = (s.cur.advance 4#48).pc ∧ k.pc = s.cur.pc + 4#48 ∧
    k.x = s.cur.x ∧ k.v = s.cur.v ∧ k.k = s.cur.k ∧ k.h = s.cur.h ∧ k.loops = s.cur.loops ∧ k.mflags = s.cur.mflags ∧ k.ascope = s.cur.ascope) ∧
  (s.cur.wayOpen = true → ∃ n, exec (.wpb d) s = .next (s.takeTrap s.focus { cause := 0x01, tval := n, tinfo := 0x0A#64 } s.cur.pc)) ∧
  (s.cur.wayOpen = false → ∃ n, exec .wpc s = .next (s.takeTrap s.focus { cause := 0x01, tval := n, tinfo := 0x0A#64 } s.cur.pc)) ∧
  (s.cur.wayOpen = true → s.cur.journal = [] → (s.lp c).sbuf = [] → s.wideScope s.focus = false → ∃ u, exec .wpc s = .next u ∧
    s.onlyCtx u s.focus ∧ u.cur = ({ s.cur with wayOpen := false, committing := false, checkpoint := none } : Ctx).advance 4#48) ∧
  (s.cur.wayOpen = true → s.cur.journal.any (fun e => e.2.held) = false → ∀ s1, s.releaseFor s.focus (s.wideScope s.focus) false = (true, s1) →
    exec .wpc s = .next (s1.setCur { s1.cur with wayOpen := false, committing := false, checkpoint := none }).complete) ∧
  (s.cur.wayOpen = true → s.cur.journal.any (fun e => e.2.held) = true → s.onTheWay s.focus = false → s.otherModules = [] → ∃ u, exec .wpc s = .next u ∧
    u.cur = { s.cur with committing := true, wait := .completion 0x3A } ∧ .waypointCommitApply s.focus ∈ u.agenda ∧ u.mem = s.mem ∧
    (s.focus, s.coreNo s.focus, s.coreKey s.focus) ∈ u.homes.commits) ∧
  (∀ k e, t < 16 → s.partner s.focus = none → s.cur.wayOpen = true → s.cur.checkpoint = some k →
    ∃ u, exec (.waypointRollback s.focus e) s = .next u ∧ u.mem = s.mem ∧ u.cur.pc = k.pc ∧ u.cur.sup = k.sup ∧ u.cur.v = k.v ∧ u.cur.k = k.k ∧
      u.cur.h = k.h ∧ u.cur.loops = k.loops ∧ u.cur.mflags = k.mflags ∧ u.cur.wayOpen = false ∧ u.cur.checkpoint = none ∧
      (∀ e ∈ u.cur.journal, e.2.held = false) ∧ (s.cur.wayDest ≠ 0#5 → u.x s.cur.wayDest = BitVec.ofNat 64 e)) ∧
  (∀ k, t < 16 → s.partner s.focus = none → s.cur.wayOpen = true → s.cur.checkpoint = some k → s.cur.committing = false →
    s.onTheWay s.focus = true →
    exec (.waypointHoldTimeout s.focus) s = exec (.waypointRollback s.focus 0x16) s) ∧
  (s.cur.wayOpen = false → t < 16 → ∀ e, exec (.waypointRollback s.focus e) s = .next s) ∧
  (s.onTheWay s.focus = false ∨ s.cur.committing = true → exec (.waypointHoldTimeout s.focus) s = .next s) ∧
  (∀ r, r = (s.homes.commits.find? fun x => x.1 = s.focus).getD (s.focus, s.coreNo s.focus, s.coreKey s.focus) → let (more, u) := s.commitSite r.2.1 r.2.2 s.focus
    exec (.waypointCommitApply s.focus) s = .next (if more then u.push (.waypointCommitApply s.focus)
      else { u with homes := { u.homes with commits := u.homes.commits.erase r } })) ∧
  (∀ p, s.homes.pending = [p] → s.homes.commits.find? (fun r => r.1 = s.focus) = none → p.of (s.coreNo s.focus) (s.coreKey s.focus) s.focus = true →
    let u := State.applyPending { s with homes := { s.homes with pending := [] } } p
    exec (.waypointCommitApply s.focus) s =
      .next { u with homes := { u.homes with commits := u.homes.commits.erase (s.focus, s.coreNo s.focus, s.coreKey s.focus) } })

/-- PFL and PLU of a lookup thread, and a fill's arrival: a line held below its lock count is locked and x gets 0; a space that is not cached,
and a thread that holds its limit of locks, get the codes 1 and 3; PLU of a line locked takes one lock off, and of another does nothing; the fill
brings the bytes that no store has made newer (R44, R45, R276). -/
def Obligations.LineLocks : Prop := ∀ (s : State) (c t : Nat) (d a : BitVec 5) (h : BitVec 3) (i : BitVec 6), s.focus = .thread c t →
  let ofs := s.mOffset a i 64
  let pa := canon (hBase (s.h h) + ofs.toNat)
  let line := pa / 64
  checkHandle s.cur.sup (s.h h) ofs.toNat 1 1 .load true = none →
  (∀ l, cachedSpace (spaceOf pa) = true → s.cur.locks.length < maxLocks → l1Find (s.lp c) line = some l → l.lock < maxLineLocks →
    ∃ u, exec (.pfl d h a i) s = .next u ∧ u.mem = s.mem ∧ u.cur.locks = s.cur.locks ++ [line] ∧ u.x d = 0#64 ∧ s.cur.scalarsKept u.cur d ∧
      (l1Find (u.lp c) line).map (·.lock) = some (l.lock + 1) ∧ u.cur.pc = (s.cur.advance 4#48).pc) ∧
  (cachedSpace (spaceOf pa) = false → ∃ u, exec (.pfl d h a i) s = .next u ∧ u.mem = s.mem ∧ (d ≠ 0#5 → u.x d = 1#64) ∧
    s.cur.scalarsKept u.cur d ∧ u.cur.locks = s.cur.locks) ∧
  (cachedSpace (spaceOf pa) = true → maxLocks ≤ s.cur.locks.length → ∃ u, exec (.pfl d h a i) s = .next u ∧ u.mem = s.mem ∧
    (d ≠ 0#5 → u.x d = 3#64) ∧ u.cur.locks = s.cur.locks) ∧
  (s.cur.locks.contains line = true → ∃ u, exec (.plu h a i) s = .next u ∧ u.mem = s.mem ∧ u.cur.locks = s.cur.locks.erase line ∧
    u.cur.x = s.cur.x ∧ u.cur.pc = (s.cur.advance 4#48).pc) ∧
  (s.cur.locks.contains line = false → exec (.plu h a i) s = .next (s.setCur (s.cur.advance 4#48))) ∧
  (∀ bs n, (l1Find (s.lp c) line = none → exec (.pflFillArrival c line bs n) s = .next s) ∧ ∀ l, l1Find (s.lp c) line = some l →
    (n = true → exec (.pflFillArrival c line bs n) s = .next (s.dropLine c l)) ∧
    (n = false → bs = [] ∨ l.filling = false → exec (.pflFillArrival c line bs n) s = .next (s.setLp c (l1Put (s.lp c) { l with filling := false })))) ∧
  (∀ l (bs : List Byte), l1Find (s.lp c) line = some l → l.filling = true → bs.length = 64 → ∃ u n, exec (.pflFillArrival c line bs false) s = .next u ∧ u.mem = s.mem ∧
    l1Find (u.lp c) line = some n ∧ n.filling = false ∧ n.lock = l.lock ∧
    n.valid = BitVec.allOnes 64 ∧ ∀ j < 64, lineByte n j = if l.dirty.getLsbD j then lineByte l j else (bs[j]?).getD 0#8)

/-! ### Traps and the system instructions (R333 to R345, R351 to R360, R371, R375) -/

/-- Trap entry and return on a lookup core (R355, R357): BRK traps at itself and TRAP after itself; entry writes cause with its code, IH and the
old level, epc, tval, tinfo, tfmt and tvec, the handler's level and pc, and nothing else; TRET goes back to epc at the level PL with IH cleared,
and outside a handler raises 0x01. With no handler the thread is parked (R371). Where a cause goes (R354), for a thread and for a bank: with IH
set and at supervisor level without a supervisor handler nowhere; at user level to the task's handler where it is delegated and there is one,
else to the supervisor's. -/
def Obligations.TrapEntry : Prop :=
  (∀ (s : State) (c t : Nat) (k : BitVec 19) (w : BitVec 14), s.focus = .thread c t → s.partner s.focus = none →
  let entered (x : Ctx) (n : Nat) (tval : BitVec 64) (pc : BitVec 48) (sup : Bool) (u : State) : Prop :=
    s.onlyCtx u s.focus ∧ u.cur = { x with
      cause := u.cur.cause, epc := x.pc.setWidth 64, tval := tval, tinfo := 0#64, tfmt := 0#64, tvec := 0#64, sup := sup, pc := pc, wait := .none
      inbox := none, flight := none, caught := none, want := none } ∧
    u.cur.cause.toNat % 256 = n ∧ u.cur.cause.getLsbD 8 = false ∧ u.cur.cause.getLsbD 9 = true ∧ u.cur.cause.getLsbD 10 = s.cur.sup
  (∀ pc l, s.route s.focus 0x1A = some (pc, l) → ∃ u, exec (.brk k) s = .next u ∧ entered s.cur 0x1A (k.setWidth 64) pc l u) ∧
  (∀ pc l, s.route s.focus 0x19 = some (pc, l) → ∃ u, exec (.trap w) s = .next u ∧ entered (s.cur.advance 4#48) 0x19 (w.setWidth 64) pc l u) ∧
  (s.route s.focus 0x1A = none → exec (.brk k) s =
    .next (s.parkAgent s.focus 0x1A k.toNat 0 (s.cur.cause.getLsbD 9) (!s.cur.cause.getLsbD 9))) ∧
  (s.cur.cause.getLsbD 9 = true → ∃ u, exec .tret s = .next u ∧ s.onlyCtx u s.focus ∧
    u.cur = { s.cur with sup := s.cur.cause.getLsbD 10, pc := s.cur.epc.setWidth 48, cause := u.cur.cause } ∧
    ∀ j, u.cur.cause.getLsbD j = (s.cur.cause.getLsbD j && decide (j ≠ 9))) ∧
  (s.cur.cause.getLsbD 9 = false → exec .tret s =
    .next (s.takeTrap s.focus { cause := 0x01, tval := (wordOf .tret).setWidth 64, tinfo := 0x0C#64 } s.cur.pc)) ∧
  (∀ e (tv ti : BitVec 64) d h, (s.slot c t).isSome = true →
    exec (.park s.focus e tv ti d h) s = .next (s.parkAgent s.focus e tv.toNat ti.toNat d h)) ∧
  (∀ r rest, s.cur.cause.getLsbD 9 = false → s.cur.refusals = r :: rest → ∃ x, exec (.refusalTaken s.focus) s = .next x ∧
    x = ((s.setCur { s.cur with refusals := rest }).count (.lc c) 0x0009 1).enterBoth s.focus (refusalTrap r) s.cur.pc ∧ (refusalTrap r).async = true)) ∧
  (∀ (s : State) (a : Agent) (n : Nat), n < 32 →
  let c := s.ctx a
  let p := s.part (s.key a)
  let sv : BitVec 48 := (if isDense a then p.svpcd else p.svpc).setWidth 48
  let hpc := (s.task a).hpc
  (c.cause.getLsbD 9 = true → s.route a n = none) ∧
  (c.cause.getLsbD 9 = false → c.sup = true → sv ≠ 0#48 → s.route a n = some (sv, true)) ∧
  (c.cause.getLsbD 9 = false → c.sup = true → sv = 0#48 → s.route a n = none) ∧
  (c.cause.getLsbD 9 = false → c.sup = false → p.tdeleg.getLsbD n = true → hpc ≠ 0#48 → s.route a n = some (hpc, false)) ∧
  (c.cause.getLsbD 9 = false → c.sup = false → (p.tdeleg.getLsbD n = false ∨ hpc = 0#48) → sv ≠ 0#48 → s.route a n = some (sv, true)) ∧
  (c.cause.getLsbD 9 = false → c.sup = false → (p.tdeleg.getLsbD n = false ∨ hpc = 0#48) → sv = 0#48 → s.route a n = none))

/-- State registers (R334 to R336, R351, R352), for threads and banks: SRGET answers the value of every assigned register, a read of mbox taking
its message; SRSET and SRXCH write each register that may be written, SRXCH answering its old value, and nothing else changes; a register that is
not assigned, that the core does not have or that may not be written raises 0x01, and so does a value with a reserved bit set; EVSEL selects and
answers the old count, and TIMER arms. -/
def Obligations.SystemRegisters : Prop := ∀ (s : State) (d a : BitVec 5),
  let v := s.x a
  let me := s.focus
  let p := s.part s.curKey
  let reads (r : BitVec 12) (n : BitVec 64) : Prop := exec (.srget d r) s = .next (s.result 1 d n)
  let writes (r : BitVec 12) (u : State) : Prop := v &&& srReserved r.toNat = 0#64 →
    exec (.srset a r) s = .next u.complete ∧ exec (.srxch d a r) s = .next (u.result 1 d (s.srValue r.toNat))
  let traps (i : Instr) (e : Nat) : Prop := exec i s = .next (s.illegal (wordOf i) e)
  (∀ r : BitVec 12, srAssigned r.toNat = true → (srDense r.toNat = true → isDense me = true) →
    exec (.srget d r) s = .next (((s.srRead r.toNat).2).result 1 d (s.srRead r.toNat).1)) ∧
  reads 0x000 (BitVec.ofNat 64 (s.tid me)) ∧ reads 0x001 (BitVec.ofNat 64 (s.coreNo me)) ∧ reads 0x002 (BitVec.ofNat 64 (s.task me).lcoreid) ∧
  reads 0x020 s.cur.cause ∧ reads 0x021 s.cur.epc ∧ reads 0x022 s.cur.tval ∧ reads 0x023 s.cur.tinfo ∧ reads 0x024 s.cur.tfmt ∧
  reads 0x025 s.cur.tvec ∧ reads 0x027 ((s.task me).hpc.setWidth 64) ∧ reads 0x02C p.svpc ∧ reads 0x02D p.tdeleg ∧ reads 0x02F p.svpcd ∧
  reads 0x031 (BitVec.ofNat 64 s.cycle) ∧ reads 0x040 s.cur.seed ∧ reads 0x050 (BitVec.ofNat 64 s.curKey) ∧ reads 0x052 p.ptroot ∧
  reads 0x054 s.cur.ascope ∧ reads 0x057 s.cur.vlen ∧ reads 0x070 s.cur.mflags ∧
  (s.cur.shown = none → reads 0x041 s.cur.src ∧ reads 0x055 s.cur.cbko) ∧
  ((s.takeMessage.1.getLsbD 63 = false → reads 0x029 0#64) ∧
    (s.takeMessage.1.getLsbD 63 = true → exec (.srget d 0x029#12) s = .next (s.takeMessage.2.result 1 d s.takeMessage.1))) ∧
  (∀ u, ((∀ j b, me = .bank j b → (s.dp j).traps = []) → u = s.setCur { s.cur with cause := u.cur.cause } → (∀ k, u.cur.cause.getLsbD k =
      if k = 9 ∨ k = 11 ∨ (k = 10 ∧ s.cur.sup = true) then v.getLsbD k else s.cur.cause.getLsbD k) → writes 0x020 u)) ∧
  writes 0x021 (s.setCur { s.cur with epc := v }) ∧ (v.toNat % 4 = 0 → writes 0x027 (s.setTask me { s.task me with hpc := v.setWidth 48 }) ∧
    writes 0x02C (s.setPart s.curKey { p with svpc := v })) ∧ writes 0x02D (s.setPart s.curKey { p with tdeleg := v }) ∧
  (v.toNat % 16 = 0 → writes 0x02F (s.setPart s.curKey { p with svpcd := v })) ∧ writes 0x041 (s.setCur { s.cur with src := v }) ∧
  ((v.getLsbD 63 = false ∨ pointed s.module (v.toNat % 2 ^ 48) % 0x20000 = 0 ∧ spaceOf (pointed s.module (v.toNat % 2 ^ 48)) ≤ 3) →
    writes 0x052 (s.setPart s.curKey { p with ptroot := v })) ∧
  ((s.resolveScope me v.toNat).isSome = true → writes 0x054 (s.setCur { s.cur with ascope := v })) ∧
  (v.toNat % 4 ≠ 3 → writes 0x055 (s.setCur { s.cur with cbko := v })) ∧
  (v.toNat ≤ vectorBytes me → writes 0x057 (s.setCur { s.cur with vlen := v })) ∧ writes 0x070 (s.setCur { s.cur with mflags := v }) ∧
  (∀ n < 12, sourceOk (isDense me) n v = true → writes (BitVec.ofNat 12 (0x080 + 2 * n)) (s.setCounter (agentCore me) n { s.counterAt (agentCore me) n with select := v })) ∧
  (∀ r : BitVec 12, srAssigned r.toNat = false → traps (.srget d r) 0x08 ∧ traps (.srset a r) 0x08 ∧ traps (.srxch d a r) 0x08) ∧
  (∀ r : BitVec 12, srAssigned r.toNat = true → srDense r.toNat = true → isDense me = false → traps (.srget d r) 0x01) ∧
  (∀ r : BitVec 12, srAssigned r.toNat = true → (srDense r.toNat = true → isDense me = true) →
    (srWritable r.toNat = false → traps (.srset a r) 0x06 ∧ traps (.srxch d a r) 0x06) ∧
    (srWritable r.toNat = true → v &&& srReserved r.toNat ≠ 0#64 → traps (.srset a r) 0x09 ∧ traps (.srxch d a r) 0x09)) ∧
  (∀ n : BitVec 4, n.toNat < 12 → sourceOk (isDense me) n.toNat v = false → ∃ w, exec (.evsel d a n) s = .next (s.illegal w 0x09)) ∧
  (∀ n : BitVec 4, n.toNat < 12 → v.toNat < 2 ^ 18 → sourceOk (isDense me) n.toNat v = true → ∃ u, exec (.evsel d a n) s = .next (u.result 1 d (s.counterAt (agentCore me) n.toNat).count) ∧
    u = s.setCounter (agentCore me) n.toNat ⟨v &&& 0x1FFFF#64, if v.getLsbD 17 then 0#64 else (s.counterAt (agentCore me) n.toNat).count⟩) ∧
  (∃ u : State, let old := s.timerOf me
    exec (.timer d a) s = .next (u.result 1 d (if old.getLsbD 63 then old &&& 0xFFFFFFFFFFFF#64 else 0#64)) ∧ u.mem = s.mem ∧ u.ctxs = s.ctxs ∧
    (v = 0#64 → u.timerOf me = 0#64 ∨ ∃ c t, me = .thread c t ∧ s.slot c t = none) ∧
    (v ≠ 0#64 → ((u.timerOf me).getLsbD 63 = true ∧ (u.timerOf me).toNat % 2 ^ 63 = min v.toNat (2 ^ 48 - 1)) ∨
      ∃ c t, me = .thread c t ∧ s.slot c t = none))

/-- Tasks and messages on a lookup core (R193 to R196, R203, R338, R339): WAIT takes the ready mark or sleeps, YIELD gives way where another task
is due and goes on elsewhere, TSPAWN makes a task entry or answers that none is free, TCHAN binds and frees, THOLD, TRDY, TKPRI and MSG post
their operation, and its arrival performs it. -/
def Obligations.TaskOperations : Prop := ∀ (s : State) (c t : Nat) (d a b : BitVec 5), s.focus = .thread c t → (s.slot c t).isSome = true →
  let me := s.taskIndex s.focus
  ((s.task s.focus).ready = false → ∃ u, exec .wait s = .next u ∧ u = s.setCur { s.cur with wait := .sleepTask }) ∧
  ((s.task s.focus).ready = true → ∃ u, exec .wait s = .next u ∧ (u.task s.focus).ready = false ∧ u.cur = s.cur.advance 4#48 ∧ u.mem = s.mem) ∧
  exec .yield s = .next (if s.yields c t then (s.setCur (s.cur.advance 4#48)).preempt c t else s.setCur (s.cur.advance 4#48)) ∧
  (∀ h p w, (s.x a).toNat % 4 = 0 → ((s.task s.focus).ds = false ∨ w.toNat < 8) → s.freeEntries c = [] →
    exec (.tspawn d a b h p w) s = .next (s.result 1 d (BitVec.allOnes 64))) ∧
  (∀ h p w i rest, (s.x a).toNat % 4 = 0 → ((s.task s.focus).ds = false ∨ w.toNat < 8) → s.freeEntries c = i :: rest →
    ∃ u, exec (.tspawn d a b h p w) s = .next u ∧ u.mem = s.mem ∧ (u.taskAt c i).valid = true ∧ (u.taskAt c i).entry = (s.x a).setWidth 48 ∧
      (u.taskAt c i).arg = (s.x b).setWidth 48 ∧ (u.taskAt c i).width = w.toNat + 1 ∧ (u.taskAt c i).bprio = p.toNat ∧
      (u.taskAt c i).hold = decide (h = 1#1) ∧ (u.taskAt c i).key = s.curKey ∧ s.cur.scalarsKept u.cur d ∧
      (d ≠ 0#5 → u.x d = BitVec.ofNat 64 (taskRef (s.taskAt c i).inc i (s.coreNo s.focus)))) ∧
  (∀ n : BitVec 6, ((getAt (s.lp c).chans n.toNat ⟨none, []⟩).task = none → ∃ u, exec (.tchan d 0#1 n) s = .next u ∧
      getAt (u.lp c).chans n.toNat ⟨none, []⟩ = ⟨some me, []⟩ ∧ (d ≠ 0#5 → u.x d = 0#64)) ∧
    ((getAt (s.lp c).chans n.toNat ⟨none, []⟩).task = some me → ∃ u, exec (.tchan d 1#1 n) s = .next u ∧
      getAt (u.lp c).chans n.toNat ⟨none, []⟩ = ⟨none, []⟩ ∧ (d ≠ 0#5 → u.x d = 0#64))) ∧
  (∀ e, exec (.redn d e) s = .next (s.result 1 d (if (s.task s.focus).ds then 1#64 else 0#64))) ∧
  (∀ x, let n := (s.x a).toNat % 2 ^ 24
    journalFull s.cur = false → coreOfNumber n = some (.lc x) → (moduleOfNumber n = s.module ∨ s.admits (moduleOfNumber n) s.curKey = true) →
    let posts (i : Instr) (op : TaskOp) : Prop := ∃ u w j, let t : TaskReq := ⟨s.focus, s.coreNo s.focus, s.curKey, (s.x a).toNat, op, some j, s.cur.wayOpen⟩
      exec i s = .next u ∧ nextEntry s.cur = some j ∧ u.mem = s.mem ∧ u.cur.pc = (s.cur.advance 4#48).pc ∧ u.cur.x = s.cur.x ∧
      (moduleOfNumber n = s.module → u.agenda = s.agenda ++ [.taskOperationArrival t]) ∧
      (moduleOfNumber n ≠ s.module → u = (w.sendPacket n (s.coreNo s.focus) s.curKey (topOf (wordOf i)) 0 j 0 0 (.task t)).complete ∧ s.onlyCtx w s.focus)
    (∀ h, posts (.thold a h) (.hold (h = 1#1))) ∧ posts (.trdy a) .ready ∧ posts (.tkpri a b) (.prio ((s.x b).toNat % 4)) ∧
    ∀ n, (s.x a).toNat < 2 ^ 24 → posts (.msg d a n) (.msg n.toNat ((s.x d).toNat % 2 ^ 48))) ∧
  (∀ (who : Agent) (core ref x idx j : Nat) (k : Task) (h : Bool), coreOfNumber (ref % 4096) = some (.lc x) → s.refTask x ref = some (idx, k) →
    moduleOfNumber core = s.module → ∃ u, exec (.taskOperationArrival ⟨who, core, k.key, ref, .hold h, some j, false⟩) s = .next u ∧ u.mem = s.mem ∧
    u.taskAt x idx = { k with hold := h } ∧ u.agenda.getLast? = some (.journalAck who j))

/-- TEND, CTXS, CTXL, SCRUB and HALT, a core fence and the end of a slice. TEND whose work is all done ends the thread or the bank's task; CTXS
writes the image and answers 0 once its last bytes are accepted; CTXL takes the context that an image holds and performs its acquire; SCRUB
clears the poisoned granules of its range and answers their number; HALT stops the core it names (R174, R200, R341, R343 to R345, R348, R375). -/
def Obligations.ThreadEnds : Prop := ∀ (s : State) (d a b : BitVec 5) (n : BitVec 3),
  (∀ u, let v := u.resumeBatches u.focus fun _ => true
    s.cur.wayOpen = false → s.endRelease = (true, u) → v.reportable v.focus (fun _ => true) = none → v.unfinished v.focus = [] →
    (∀ x, v.batch v.focus v.cur.openBatch = some x → x.left = 0) → v.taskBatches v.focus = false →
    (∀ c t, v.focus = .thread c t → exec .tend s = .next (v.endLookup c t)) ∧ (∀ j k, v.focus = .bank j k → exec .tend s = .next (v.denseEnd j k))) ∧
  (∀ u, s.cur.wayOpen = false → s.endRelease = (false, u) → exec .tend s = .next u.again) ∧
  (s.cur.wayOpen = true → exec .tend s = .next (s.illegal (wordOf .tend) 0x0A) ∧ exec (.ctxs d a n) s = .next (s.illegal (wordOf (.ctxs d a n)) 0x0A)) ∧
  (∀ c t u, s.focus = .thread c t → s.cur.wayOpen = false → checkHandle s.cur.sup (s.h n) (s.x a).toNat 0x800 64 .store true = none →
    (∀ p ∈ pieces (hBase (s.h n)) (s.x a).toNat 0x800, s.pieceBad (.lc c) p = false) → s.releaseFor s.focus true false = (true, u) →
    (u.cur.inbox.isSome = true → exec (.ctxs d a n) s = .next ((u.setCur { u.cur with inbox := none }).result 1 d 0#64)) ∧
    (u.cur.inbox = none → u.focus = s.focus → ∃ img, let w := u.writeImage n (s.x a) img
      imageWord img 0 = (if u.cur.sup then 2 ^ 61 else 0) + (u.cur.pc + 4#48).toNat ∧ img.length = 0x800 ∧
      (∀ r < 32, 0 < r → r ≠ d.toNat → imageWord img (8 * r) = (u.x (BitVec.ofNat 5 r)).toNat) ∧
      (d ≠ 0#5 → imageWord img (8 * d.toNat) = 1) ∧
      exec (.ctxs d a n) s = .next (match w.releaseFor w.focus true false with
        | (true, t) => t.result 1 d 0#64
        | (false, t) => (t.setCur { t.cur with inbox := some [] }).again))) ∧
  (∀ c t ps y, s.focus = .thread c t → checkHandle s.cur.sup (s.h n) (s.x a).toNat 0x800 64 .load true = none → s.cur.inbox = some ps →
    let img := assemble ps 0x800
    let x := s.setCur { s.cur with inbox := none }
    bitsOf (imageWord img 0) 63 62 = 0 → (bitsOf (imageWord img 0) 61 61 = 1 → s.cur.sup = true) →
    x.releaseFor x.focus (x.wideScope x.focus) false = (true, y) → y.focus = s.focus → y.unfinished y.focus = [] →
    (∀ k, y.batch y.focus y.cur.openBatch = some k → k.left = 0) → exec (.ctxl a n) s =
      .next ((y.setCur (y.reviveHandles (.lc c) (imageCtx false img y.cur) (imageSeq false img))).acquireFor y.focus true)) ∧
  (checkHandle s.cur.sup (s.h n) (s.x a).toNat (s.x b).toNat 64 .store true = none → (s.x b).toNat % 64 = 0 →
    exec (.scrub d a b n) s = .next (s.sendCommand (moduleOf (hBase (s.h n))) 0xD8 [hBase (s.h n) + (s.x a).toNat, (s.x b).toNat, d.toNat])) ∧
  (∀ (pa len : Nat), ∃ u, s.homeCommand s.focus (s.coreNo s.focus) s.curKey 0xD8 [pa, len, d.toNat] =
      ([0, (s.poison.filter (granuleIn pa len)).length, d.toNat], u) ∧ (∀ g ∈ u.poison, granuleIn pa len g = false ∧ g ∈ s.poison) ∧
    (∀ g ∈ s.poison, granuleIn pa len g = false → g ∈ u.poison) ∧
    ∀ x, memGet u.mem x = if s.poison.contains (x / 64) && granuleIn pa len (x / 64) then 0#8 else memGet s.mem x) ∧
  (∀ u, bitsOf (s.x a).toNat 62 24 = 0 → coreOfNumber ((s.x a).toNat % 2 ^ 24) = some u → moduleOfNumber ((s.x a).toNat % 2 ^ 24) = s.module →
    exec (.halt a) s = .next (s.complete.haltCore u (s.x a).msb) ∧
    ∀ i, u = .lc i → (s.complete.haltCore u (s.x a).msb) = s.complete.setLc i { s.complete.lc i with halted := !(s.x a).msb }) ∧
  (∀ u, let n := (s.x a).toNat % 2 ^ 24
    bitsOf (s.x a).toNat 62 24 = 0 → coreOfNumber n = some u → moduleOfNumber n ≠ s.module → s.admits (moduleOfNumber n) s.curKey = true →
    exec (.halt a) s = .next ((s.awaitStep 0xDD).sendPacket n (s.coreNo s.focus) s.curKey 0xDD 0 0 0 0
      (.command s.focus 0xDD [n, if (s.x a).msb then 1 else 0]))) ∧
  (∀ i (v : BitVec 64), let f := v.getLsbD 0
    ((f = false ∨ (s.lc i).fenced = true) → exec (.coreFence (.lc i) v) s = .next (s.setLc i { s.lc i with fenced := f })) ∧
    ((f = false ∨ (s.dt i).fenced = true) → exec (.coreFence (.dt i) v) s = .next (s.setDt i { s.dt i with fenced := f })) ∧
    let sl := s.setLc i { s.lc i with fenced := true }
    let sd := s.setDt i { s.dt i with fenced := true }
    let rolled (u : CoreRef) (x : State) : State := x.refusePending (Pending.isAt s.module u) (coreNumber s.module u)
    let emptied (x : State) : State := ((x.drainTile i).2.fenceAgent (.bank i 0)).fenceAgent (.bank i 1)
    (f = true → (s.lc i).fenced = false →
      exec (.coreFence (.lc i) v) s = .next ((rolled (.lc i) sl).onPlanes (.lc i) fun x => (x.loseMappings i fun _ => true).fencePlane i)) ∧
    (f = true → (s.dt i).fenced = false → let u := (rolled (.dt i) sd).onPlanes (.dt i) emptied
      exec (.coreFence (.dt i) v) s = .next ((u.disp.displaced.filter fun e => e.1 = i).foldl (fun x e => x.fenceDisplaced i e) u))) ∧
  (∀ c t sl, s.slot c t = some sl → sl.slice = 0 → (s.taskAt c sl.task).slice ≠ 0 → exec (.sliceExpiry (.thread c t)) s =
    .next (if s.yields c t then s.preempt c t else s.occupy c t { sl with slice := (s.taskAt c sl.task).slice * 64 })) ∧
  (∀ who, s.sliceSpent who = false → exec (.sliceExpiry who) s = .next s)

/-! ### The lookup engine (R278 to R295) -/

/-- List instructions of the lookup engine whose checks pass (R280): LSTEP, LTAB.sel, LUNIQ, LSORT, LMRG, LFILT, LCNT, LSEG, LHOME and LPART
complete with the lists and the scalar that R282, R285, R286 and R288 give, whatever the lists hold. -/
def Obligations.ListOperations : Prop := ∀ (s : State) (d a b : BitVec 5),
  let vs := s.listAt a
  let n := listCount (s.x a)
  let es := listWidth (s.x a)
  let wide := (s.x a).getLsbD 63
  let q := s.padPoison (s.listSpan a)
  (∀ i, s.lkpFails true [] [] false [] = none → exec (.lstep d a i) s =
    .next ((s.setCur { s.cur with ltstep := (s.x a + i.signExtend 64).setWidth 16 }).engineDone d (s.cur.ltstep.setWidth 64))) ∧
  (let t := BitVec.ofNat 512 (s.readNat (s.ownAddr s.focus (s.x a).toNat) 64)
   s.lkpFails false [] [s.areaSpan a 64 64 false] false [] = none →
    ((descOf t).ok s.curKey = true → exec (.ltabSel d a) s =
      .next ((s.setCur { s.cur with table := some t, ltstep := 0#16 }).engineDone d (BitVec.ofNat 64 (descOf t).tid))) ∧
    ((descOf t).ok s.curKey = false → exec (.ltabSel d a) s = .next (s.trap 0x0D (s.x a) 0x07))) ∧
  (s.lkpFails false [(a, false)] [s.areaSpan b (n * es) es true, s.areaSpan (grp b 1) (n * 4) 4 true] true [] = none →
    ∃ us inv, exec (.luniq d a b) s = .next (((s.putElems (s.x b).toNat es q us).putElems (s.xg b 1).toNat 4 q inv).engineDone d
      (listWord wide us.length (s.x b).toNat)) ∧ us.Nodup ∧ (∀ v, v ∈ us ↔ v ∈ vs) ∧ inv.length = n ∧ ∀ i < n, nth us (nth inv i) = nth vs i) ∧
  (∃ order : List Nat, order.Perm (List.range n) ∧ order.Pairwise (fun i j => nth vs i < nth vs j ∨ nth vs i = nth vs j ∧ i < j) ∧
    let out := s.areaSpan b (n * es) es true
    let free := if out.ofs = listOfs (s.x a) ∧ a.toNat ≠ out.reg then [a.toNat] else []
    (s.lkpFails false [(a, false)] [out] true free = none → exec (.lsort d a b 0#1) s =
      .next ((s.putElems (s.x b).toNat es q (order.map (nth vs))).engineDone d (listWord wide n (s.x b).toNat))) ∧
    (s.lkpFails false [(a, false)] [out, s.areaSpan (grp b 1) (n * 4) 4 true] true free = none → exec (.lsort d a b 1#1) s =
      .next (((s.putElems (s.x b).toNat es q (order.map (nth vs))).putElems (s.xg b 1).toNat 4 q order).engineDone d
        (listWord wide n (s.x b).toNat)))) ∧
  (∀ m : BitVec 2, m.toNat ≤ 2 →
    let ys := s.listAt (grp a 1)
    let w := max es (listWidth (s.xg a 1))
    s.lkpFails false [(a, false), (grp a 1, false)] [s.areaSpan b ((n + listCount (s.xg a 1)) * w) w true] true [] = none → ∃ out,
    exec (.lmrg d a b m) s = .next ((s.putElems (s.x b).toNat w (q || s.padPoison (s.listSpan (grp a 1))) out).engineDone d
      (listWord (w = 8) out.length (s.x b).toNat)) ∧
    (vs.Pairwise (· ≤ ·) → ys.Pairwise (· ≤ ·) → out.Pairwise (· ≤ ·) ∧ (m = 0#2 → out.Perm (vs ++ ys)) ∧
      (m = 1#2 → out.Nodup ∧ ∀ v, v ∈ out ↔ v ∈ vs ∨ v ∈ ys) ∧ (m = 2#2 → ∀ v, v ∈ out ↔ v ∈ vs ∧ v ∈ ys))) ∧
  (∀ i : BitVec 1, s.lkpFails false [(a, false)] [s.areaSpan (grp a 1) (n * es) es true] true [] = none → ∃ out, exec (.lfilt d a b i) s =
      .next ((s.putElems (s.xg a 1).toNat es q out).engineDone d (listWord wide out.length (s.xg a 1).toNat)) ∧ out.Sublist vs ∧
    ∀ v, out.count v = if ((s.x b).toNat ≤ v ∧ v < (s.xg b 1).toNat ↔ i = 0#1) then vs.count v else 0) ∧
  (s.lkpFails false [(a, false)] [] false [] = none → ∃ k, exec (.lcnt d a b) s = .next (s.engineDone d (BitVec.ofNat 64 k)) ∧
    k = vs.countP fun v => (s.x b).toNat ≤ v ∧ v < (s.xg b 1).toNat) ∧
  (s.lkpFails false [(a, false)] [s.areaSpan b (n * 8) 8 true] true [] = none → vs.sum ≤ 2 ^ 24 - 1 → ∃ ss, exec (.lseg d a b) s =
      .next ((s.putElems (s.x b).toNat 8 q ss).engineDone d (BitVec.ofNat 64 vs.sum)) ∧ ss.length = n ∧
    ∀ i < n, segStart (nth ss i) = (vs.take i).sum ∧ segLen (nth ss i) = nth vs i) ∧
  (s.lkpFails true [(a, false)] [s.areaSpan b (n * 4) 4 true] true [] = none → (∀ v ∈ vs, v < s.sel.rows) → exec (.lhome d a b 0#1) s =
    .next ((s.putElems (s.x b).toNat 4 q (vs.map s.sel.home)).engineDone d (listWord false n (s.x b).toNat))) ∧
  (let h := s.sel.homes
   let hs := s.listAt (grp a 1)
   s.cur.table.isSome = true → s.lkpFails true [(a, false), (grp a 1, false)]
      [s.areaSpan b (n * es) es true, s.areaSpan (grp b 1) (h * 4) 4 true, s.areaSpan (grp b 2) (n * 4) 4 true] true [] = none →
   hs.length = n → h ≤ 65536 → (∀ v ∈ hs, v < h) → ∃ order k p, exec (.lpart d a b) s =
      .next ((((s.putElems (s.x b).toNat es p (order.map (nth vs))).putElems (s.xg b 1).toNat 4 p ((List.range h).map fun i => hs.count i)).putElems
        (s.xg b 2).toNat 4 p order).engineDone d (BitVec.ofNat 64 k)) ∧ order.Perm (List.range n) ∧
      order.Pairwise (fun i j => nth hs i < nth hs j ∨ nth hs i = nth hs j ∧ i < j) ∧ k = (hs.eraseDups).length)

/-- Row instructions of a lookup thread whose checks pass. A list of rows sends one gather, accumulate or row for each, in list order, and an
empty list completes at once; LGATH, LPEEK, LWB and LZERO of one row send it to its home and wait; LACC and the table form of RADD send their
step-tagged accumulate under a journal entry; LSEND of one block sends a segment, which lands at its destination; LRECV asks for its bytes (R79,
R81, R82, R270, R289 to R295). -/
def Obligations.RowOperations : Prop := ∀ (s : State) (c t w : Nat) (d a b : BitVec 5), s.focus = .thread c t → s.module < 4096 →
  let x := s.sel
  let home := x.pairOf (x.home w)
  let waits (i : Instr) (sent : Instr) : Prop := ∃ u, exec i s = .next u ∧ u.agenda = s.agenda ++ [sent] ∧ u.mem = s.mem ∧
    u.cur = { s.cur with tally := 0, failed := none, undo := none, wait := .replies 1 }
  let posts (i : Instr) (top : Nat) (sent : Nat → Instr) : Prop := ∃ u j, exec i s = .next u ∧ nextEntry s.cur = some j ∧ u.mem = s.mem ∧
    u.agenda = s.agenda ++ [sent j] ∧ u.cur.pc = (s.cur.advance 4#48).pc ∧ u.cur.x = s.cur.x ∧
    findAt u.cur.journal j = some ⟨s.cur.pc, BitVec.ofNat 8 top, 0#3, s.x a, 1, s.cur.wayOpen, 0#128, 0, 0, s.cycle⟩
  (let ids := s.listAt a
   let rows := s.listAt (grp a 1)
   (s.lkpFails true [(a, false)] [s.areaSpan b (listCount (s.x a) * x.rowBytes) 64 true] false [] = none → (∀ v ∈ ids, v < x.rows) →
     (ids = [] → exec (.lgath d a b) s = .next (s.engineDone d 0#64)) ∧
     (ids ≠ [] → exec (.lgath d a b) s = .next (ids.zipIdx.foldl (fun (y : State) v =>
       y.requestRow (y.gatherOf x v.1 ((y.x b).toNat + v.2 * x.rowBytes) d ids.length false)) (s.engineWait ids.length)))) ∧
   (s.lkpFails true [] [s.areaSpan b x.rowBytes 64 true] false [] = none → (s.x a).toNat < x.rows →
     exec (.lpeek d a b) s = .next ((s.engineWait 1).requestRow (s.gatherOf x (s.x a).toNat (s.x b).toNat d 0 true))) ∧
   (s.lkpFails true [(grp a 1, false)] [s.areaSpan a (listCount (s.xg a 1) * x.rowBytes) 64 false] false [] = none → rows = [] →
     exec (.lwb d a b) s = .next (s.engineDone d 0#64)) ∧
   (∀ f : BitVec 1, let ew := if f = 1#1 then 4 else x.elemBytes
     let fmt := if f = 1#1 then fmtF32 else x.float
     s.lkpFails true [(grp a 1, false)] [s.areaSpan a (listCount (s.xg a 1) * (ew * x.elems)) 64 false] false [] = none → (∀ v ∈ rows, v < x.rows) →
     (rows = [] → exec (.lacc a f) s = .next s.complete) ∧
     (rows ≠ [] → exec (.lacc a f) s = .next (s.post 0x4B 0#3 (s.x a) rows.length fun j y => rows.zipIdx.foldl (fun (z : State) (v : Nat × Nat) =>
       let at' := (s.x a).toNat + v.2 * (ew * x.elems)
       z.sendAccum (z.accumOf x v.1 0 (if f = 1#1 then 8 else x.fmtNo) j ((List.range x.elems).map fun e =>
         some (BitVec.ofNat 32 (widen fmt (s.readNat (s.ownAddr s.focus (at' + e * ew)) ew)))) (s.poisoned (s.ownAddr s.focus at') (ew * x.elems))) 0x4B) y)))) ∧
  (home / 512 = s.module → w < x.rows →
    (s.lkpFails true [(a, false)] [s.areaSpan b (listCount (s.x a) * x.rowBytes) 64 true] false [] = none → s.listAt a = [w] →
      waits (.lgath d a b) (.homeGather (s.gatherOf x w (s.x b).toNat d 1 false))) ∧
    (s.lkpFails true [] [s.areaSpan b x.rowBytes 64 true] false [] = none → (s.x a).toNat = w →
      waits (.lpeek d a b) (.homeGather (s.gatherOf x w (s.x b).toNat d 0 true))) ∧
    (s.lkpFails true [(grp a 1, false)] [s.areaSpan a (listCount (s.xg a 1) * x.rowBytes) 64 false] false [] = none → s.listAt (grp a 1) = [w] →
      ∃ r, waits (.lwb d a b) (.homeRowWriteback r) ∧ r.row = w ∧ r.pair = home ∧ r.tid = x.tid ∧ r.who = s.focus ∧
        r.step = (s.x b).toNat % 65536 ∧ r.data = s.read (s.ownAddr s.focus (s.x a).toNat) x.rowBytes ∧ r.d = d) ∧
    (s.lkpFails true [] [] false [] = none → (s.x a).toNat = w → ∃ z, waits (.lzero d a b) (.homeZero z) ∧ z.row = w ∧ z.pair = home ∧
      z.tid = x.tid ∧ z.who = s.focus ∧ z.k = (s.x b).toNat % 65536 ∧ z.c = (s.xg b 1).toNat % 65536 ∧ z.d = d) ∧
    (journalFull s.cur = false → s.lkpFails true [(grp a 1, false)] [s.areaSpan a (listCount (s.xg a 1) * (4 * x.elems)) 64 false] false [] = none →
      s.listAt (grp a 1) = [w] → ∃ vals p, posts (.lacc a 1#1) 0x4B (fun j => .homeAccumulate (s.accumOf x w 0 8 j vals p)) ∧ vals.length = x.elems)) ∧
  (∀ (ty : BitVec 2) (q : BitVec 3), journalFull s.cur = false → s.cur.table.isSome = true →
    x.pairOf (x.home (s.x a).toNat) / 512 = s.module → ∃ vals, posts (.raddTable d a b ty q) 0x2C
      (fun j => .homeAccumulate (s.accumOf x (s.x a).toNat (s.x b).toNat (8 + ty.toNat) j vals false)) ∧
      vals.length = (s.activeLanes q (8 * raddBytes ty)).length) ∧
  (journalFull s.cur = false → s.seamFails a a (grp b 1) b [] = none → moduleOfNumber (s.x b).toNat = s.module → (s.xg a 1).toNat = 64 →
    (s.xg b 1).toNat % 256 ≤ 192 → ∃ g : Nat → Segment, posts (.lsend a b 0#1) 0x48 (fun j => .lsendSegmentArrival (g j)) ∧ ∀ j,
      (g j).dst = (s.x b).toNat ∧ (g j).ofs = (s.xg b 1).toNat ∧ (g j).jent = some j ∧ (g j).ms = none ∧ (g j).who = s.focus ∧
      (g j).data = s.read (s.ownAddr s.focus (s.x a).toNat) 64) ∧
  (∀ (g : Segment) (v : CoreRef) (j : Nat), g.held = false → g.jent = some j → g.ms = none → s.segmentRefusal g = none → coreOfNumber g.dst = some v →
    moduleOfNumber g.core = s.module → Memory.wf s.mem = true → ∃ u, exec (.lsendSegmentArrival g) s = .next u ∧
    u.read (windowAddr s.module v g.ofs) g.data.length = g.data ∧ s.bytesKept u (windowAddr s.module v g.ofs) g.data.length ∧
    u.agenda.getLast? = some (.journalAck g.who j) ∧ u.ctxs = s.ctxs) ∧
  (∀ v, s.seamFails a a (grp b 1) b [] = none → moduleOfNumber (s.x b).toNat = s.module → coreOfNumber (s.x b).toNat = some v →
    (s.xg b 1).toNat ≤ 0x400000 - 64 → ∃ r : Request, waits (.lrecv d a b) (.tileWindowAccess r) ∧ r.op = .load ∧ r.len = (s.xg a 1).toNat ∧
      r.pa = windowAddr s.module v (s.xg b 1).toNat ∧ r.dest = .area (s.x a).toNat d (s.xg a 1).toNat ∧ r.who = .agent s.focus)

/-- Tables and row arithmetic of a lookup thread. LTAB.inst and LTAB.rm reach every home that their descriptor names, at once in this module and
by a command elsewhere, and answer the number of homes that took the table or gave it up (R282); LRED reduces each segment's rows and marks the
empty ones, LSCAT sums the rows of each index, and LEXP repeats every segment's row, its mean with f = 3 (R287, R288). -/
def Obligations.TableArithmetic : Prop := ∀ (s : State) (c t : Nat) (d a b : BitVec 5), s.focus = .thread c t →
  (let q := BitVec.ofNat 512 (s.readNat (s.ownAddr s.focus (s.x a).toNat) 64)
   let k := descOf q
   let m := s.module
   s.lkpFails false [] [s.areaSpan a 64 64 false] false [] = none →
    (k.ok s.curKey = true → exec (.ltabInst d a) s = .next (s.ltabHomes d false q)) ∧
    (k.key = s.curKey → exec (.ltabRm d a) s = .next (s.ltabHomes d true q)) ∧
    ((∀ r ∈ s.homes.tableRuns, r.who ≠ s.focus) → k.nmod = 0 → k.mod0 = m →
      (k.ok s.curKey = true → (s.installHere q).1 = none → ∃ u, exec (.ltabInst d a) s = .next u ∧
        (∀ e, e ∈ u.homes.tables ↔ e ∈ s.homes.tables ∨ e.2 = q ∧ e.1 ∈ k.pairsOn m) ∧ u.cur.wait = .none ∧ s.cur.scalarsKept u.cur d ∧
        (d ≠ 0#5 → u.x d = BitVec.ofNat 64 (k.npair + 1)) ∧ u.cur.pc = (s.cur.advance 4#48).pc) ∧
      (k.key = s.curKey → ∃ u, exec (.ltabRm d a) s = .next u ∧ u.cur.wait = .none ∧ s.cur.scalarsKept u.cur d ∧ u.mem = s.mem ∧
        (∀ e, e ∈ u.homes.tables ↔ e ∈ s.homes.tables ∧ ¬(e.1 ∈ k.pairsOn m ∧ (descOf e.2).key = k.key ∧ (descOf e.2).tid = k.tid)) ∧
        (d ≠ 0#5 → u.x d = BitVec.ofNat 64 (s.homes.tables.length - u.homes.tables.length)))) ∧
    ((∀ i ≤ k.nmod, k.mod0 + i ≠ m ∧ s.admits (k.mod0 + i) s.curKey = true) → ∀ rm : Bool,
      (if rm then k.key = s.curKey else k.ok s.curKey = true) → ∃ u, exec (if rm then .ltabRm d a else .ltabInst d a) s = .next u ∧
      u.cur = { s.cur with wait := .completion 0x40 } ∧ u.mem = s.mem ∧ u.homes.tables = s.homes.tables ∧
      u.homes.tableRuns = s.homes.tableRuns ++ [⟨s.focus, q, rm, d, k.nmod + 1, 0, [], none⟩])) ∧
  (∀ (r : TableRun) (n : Nat), s.homes.tableRuns.find? (fun x => x.who = s.focus) = some r → r.left = 1 → r.failed = none →
    s.cur.wait = .completion 0x40 → ∃ u, s.tableAnswer s.focus n [] none = u ∧ u.cur.wait = .none ∧ s.cur.scalarsKept u.cur r.d ∧
    (r.d ≠ 0#5 → u.x r.d = BitVec.ofNat 64 (r.total + n)) ∧ u.mem = s.mem ∧ u.cur.pc = (s.cur.advance 4#48).pc) ∧
  (let x := s.sel
   let own (o n : Nat) : Nat := s.readNat (s.ownAddr s.focus o) n
   let clean (o n : Nat) : Prop := s.poisoned (s.ownAddr s.focus o) n = false
   let ra := (s.x a).toNat
   let oa := (s.x b).toNat
   let rb := 4 * x.elems
   let list := s.listAt (grp a 1)
   s.padPoison (s.listSpan (grp a 1)) = false →
   (∀ (o : BitVec 1) (f : BitVec 3), (x.fmt ≠ 3 ∨ o = 1#1) → let segs := s.listAt b
      let ow := if o = 1#1 then 4 else x.elemBytes
      s.lkpFails true [(grp a 1, false), (b, true)] ([s.areaSpan a 0 64 false, s.areaSpan (grp a 2) (listCount (s.x b) * x.elems * ow) 64 true]
        ++ s.rowSpans a ra x.rowBytes ((segPositions segs).map (nth list)) false) true [] = none →
      lredFail s ra x.rowBytes list segs = none → s.padPoison (s.listSpan b) = false →
      (∀ g ∈ segs, ∀ i < segLen g, clean (ra + nth list (segStart g + i) * x.rowBytes) x.rowBytes) → ∃ (rs : Nat → Nat → Fold) (es : List Nat),
      (∀ i e, rs i e = foldAll f.toNat (if o = 1#1 then fmtF32 else x.float) ((List.range (segLen (nth segs i))).map fun n =>
        widen x.float (own (ra + nth list (segStart (nth segs i) + n) * x.rowBytes + e * x.elemBytes) x.elemBytes))) ∧
      (let out := (List.range segs.length).flatMap fun i => (List.range x.elems).map (rs i)
       exec (.lred d a b o f) s = .next (((s.putElems (s.xg a 2).toNat ow false (out.map fun r => r.code)).putElems (listOfs (s.x b)) 8 false es).foldDone d
         (segs.countP fun g => segLen g = 0) x.elems x.fmtNo (if o = 1#1 then 8 else x.fmtNo) out)) ∧ es.length = segs.length ∧
      ∀ i < segs.length, segStart (nth es i) = segStart (nth segs i) ∧ segLen (nth es i) = segLen (nth segs i) ∧
        (nth es i).testBit 48 = decide (segLen (nth segs i) = 0)) ∧
   (s.lkpFails true [(grp a 1, false)] ([s.areaSpan a (listCount (s.xg a 1) * rb) 64 false, s.areaSpan b 0 64 true] ++ s.rowSpans b oa rb list true) true []
        = none → (∀ v ∈ list, oa + (v + 1) * rb ≤ s.padBytes) → s.padPoison (s.areaSpan a (listCount (s.xg a 1) * rb) 64 false) = false →
      ∃ rs : Nat → Nat → Fold, (∀ j e, let vs := ((List.range list.length).filter fun i => nth list i = j).map fun i => own (ra + i * rb + e * 4) 4
        rs j e = (vs.drop 1).foldl (foldStep 0) ⟨vs.headD 0, 0, false⟩) ∧ exec (.lscat d a b) s =
        .next ((list.eraseDups.foldl (fun (y : State) j => y.putElems (oa + j * rb) 4 false ((List.range x.elems).map fun e => (rs j e).code)) s).foldDone d
          list.eraseDups.length x.elems 8 8 (list.eraseDups.flatMap fun j => (List.range x.elems).map (rs j)))) ∧
   (∀ f : BitVec 3, let len (i : Nat) : Nat := segLen (nth list i)
      let live := (List.range list.length).filter fun i => len i ≠ 0
      s.lkpFails true [(grp a 1, true)] ([s.areaSpan a (listCount (s.xg a 1) * rb) 64 false, s.areaSpan b 0 64 true]
        ++ s.rowSpans b oa rb (segPositions list) true) true [] = none →
      (∀ i ∈ live, oa + (segStart (nth list i) + len i) * rb ≤ s.padBytes ∧ clean (ra + i * rb) rb) → ∃ rs : Nat → Nat → Fold,
      (∀ i e, let v : Fold := ⟨own (ra + i * rb + e * 4) 4, 0, false⟩
        rs i e = if f = 3#3 then foldEnd 3 (len i) fmtF32 v else v) ∧ exec (.lexp d a b f) s =
        .next ((live.foldl (fun (y : State) i => (List.range (len i)).foldl (fun z n => z.putElems (oa + (segStart (nth list i) + n) * rb) 4 false
          ((List.range x.elems).map fun e => (rs i e).code)) y) s).foldDone d (live.map len).sum x.elems 8 8 (live.flatMap fun i => (List.range x.elems).map (rs i)))))

/-! ### Ranges and homes (R61 to R73, R79 to R85, R104, R274) -/

/-- Range instructions of a lookup thread. A command for another module leaves in a packet, or raises 0x15 where the key is not admitted there;
one for a busy home waits there in order. At an idle home of the own module RBIND takes its token in X[d]; RFREE removes an unmapped range and
waits for its deliveries under way; RMAP, RDONE and LSTN take their home's answer; cancelling a subscription removes it; ANNC goes to its home
under a journal entry; the end marker of RDONE drops the mapping; an announcement writes at its subscriber and contributes to its word, after the
earlier ones of its range, or is refused (R61 to R73, R274). -/
def Obligations.RangeOperations : Prop := ∀ (s : State) (c t : Nat) (d a b : BitVec 5) (m : BitVec 3), s.focus = .thread c t →
  let w (top : Nat) : State := s.setCur { s.cur with wait := .completion top }
  let idle (top : Nat) (args : List Nat) : Prop := ∀ h, commandHome top args = some h → s.homeBusy h = false
  (exec (.rfree a) s = .next (s.sendCommand ((s.x a).toNat / 2 ^ 52) 0x34 [(s.x a).toNat]) ∧
    exec (.rdone a) s = .next (s.sendCommand ((s.x a).toNat / 2 ^ 52) 0x36 [(s.x a).toNat]) ∧
    exec (.rmap a b) s = .next (s.sendCommand ((s.x a).toNat / 2 ^ 52) 0x35 [(s.x a).toNat, (s.x b).toNat, (s.lp c).banks * 0x4000, (s.lp c).mappings.length]) ∧
    exec (.lstnCancel d) s = .next (s.sendCommand ((s.x d).toNat / 2 ^ 52) 0x37 [(s.x d).toNat, s.module]) ∧
    ∀ n top args, (n ≠ s.module → (s.admits n s.curKey = false → s.sendCommand n top args = s.trap 0x15 0#64 0) ∧ (s.admits n s.curKey = true →
        s.sendCommand n top args = (w top).sendPacket (coreNumber n (.lc 0)) (s.coreNo s.focus) s.curKey top 0 0 0 0 (.command s.focus top args))) ∧
      (n = s.module → ∀ h, commandHome top args = some h → s.homeBusy h = true → ∃ u, s.sendCommand n top args = u ∧ u.cur = (w top).cur ∧ u.mem = s.mem ∧
        u.homes.ranges = s.homes.ranges ∧ u.homes.commands = s.homes.commands ++ [⟨s.focus, s.coreNo s.focus, s.curKey, top, args⟩])) ∧
  (∀ tok x s1, (s.x a).toNat / 2 ^ 52 = s.module → idle 0x34 [(s.x a).toNat] →
    (s.rangeOf s.curKey (s.x a).toNat = none → exec (.rfree a) s =
      .next ((w 0x34).takeTrap s.focus { cause := 0x0D, tval := s.x a, tinfo := 0x04#64 } s.cur.pc)) ∧
    (∀ g, s.rangeOf s.curKey (s.x a).toNat = some g → g.mapper = none → s.delivering (s.x a).toNat = false → ∃ u, exec (.rfree a) s = .next u ∧ g ∉ u.homes.ranges ∧
      (∀ r, r ≠ g → (r ∈ u.homes.ranges ↔ r ∈ s.homes.ranges)) ∧ u.mem = s.mem ∧
      u.cur = ({ s.cur with wait := .none } : Ctx).advance 4#48) ∧
    (∀ g, s.rangeOf s.curKey (s.x a).toNat = some g → g.mapper = none → s.delivering (s.x a).toNat = true → ∃ u, exec (.rfree a) s = .next u ∧
      g ∉ u.homes.ranges ∧ u.cur = (w 0x34).cur ∧ u.homes.frees = s.homes.frees ++ [⟨s.focus, s.coreNo s.focus, s.curKey, (s.x a).toNat⟩]) ∧
    ((w 0x36).homeCommand s.focus (s.coreNo s.focus) s.curKey 0x36 [(s.x a).toNat] = (x, s1) →
      exec (.rdone a) s = .next (s1.commandAnswer s.focus 0x36 x)) ∧
    ((w 0x35).homeCommand s.focus (s.coreNo s.focus) s.curKey 0x35 [(s.x a).toNat, (s.x b).toNat, (s.lp c).banks * 0x4000, (s.lp c).mappings.length] = (x, s1) →
      exec (.rmap a b) s = .next (s1.commandAnswer s.focus 0x35 x)) ∧
    (∀ (r wr at' : BitVec 1) e s2, checkEach s.cur.sup (s.h m) (s.x a).toNat (s.x b).toNat (r = 1#1) (wr = 1#1) (at' = 1#1) = none →
      let pa := hBase (s.h m) + (s.x a).toNat
      rangeExtent (spaceOf pa) = some e → 0 < (s.x b).toNat → (s.x b).toNat ≤ e → (r = 1#1 ∨ wr = 1#1 ∨ at' = 1#1) → moduleOf pa = s.module →
      offsetOf pa / e = (offsetOf pa + (s.x b).toNat - 1) / e →
      idle 0x33 [canon pa] →
      (w 0x33).bindRange s.curKey (canon pa) (s.x b).toNat (r.toNat * 4 + wr.toNat * 2 + at'.toNat) pa = (some tok, x, s2) → s2.ctxs = (w 0x33).ctxs →
      ∃ u, exec (.rbind d a b m r wr at') s = .next u ∧ u.homes = s2.homes ∧ u.mem = s2.mem ∧
        u.cur = (({ s.cur with wait := .none } : Ctx).writeX d (BitVec.ofNat 64 tok)).advance 4#48)) ∧
  ((s.x d).toNat / 2 ^ 52 = s.module → ∀ g, s.rangeOf s.curKey (s.x d).toNat = some g → ∃ u, exec (.lstnCancel d) s = .next u ∧
    (∀ e, e ∈ u.homes.subs ↔ e ∈ s.homes.subs ∧ ¬(e.token = s.x d ∧ e.module = s.module)) ∧
    u.cur = ({ s.cur with wait := .none } : Ctx).advance 4#48) ∧
  (∀ q x s1, (s.x d).toNat / 2 ^ 52 = s.module →
    (w 0x37).homeCommand s.focus (s.coreNo s.focus) s.curKey 0x37 [(s.x d).toNat, s.module, (hBase (s.h m) + (s.x a).toNat) % 2 ^ 64,
      (hBase (s.h q) + (s.x b).toNat) % 2 ^ 64, (s.x a).toNat, (s.x b).toNat, m.toNat, q.toNat, (s.h m).toNat, (s.h q).toNat] = (x, s1) →
    exec (.lstn d a b m q) s = .next (s1.commandAnswer s.focus 0x37 x)) ∧
  ((s.x d).toNat / 2 ^ 52 = s.module → journalFull s.cur = false → s.releaseFor s.focus true false = (true, s) →
    ∃ j u, nextEntry s.cur = some j ∧ exec (.annc d a b) s = .next u ∧
    u = ((s.takeEntry 0x38 0#3 (s.x a) 1).2.announceArrives s.focus (s.coreNo s.focus) s.curKey (s.x d).toNat (s.x a).toNat (s.x b).toNat j s.cur.wayOpen).complete) ∧
  (∀ core tok who g ofs key, let ended (x : State) : State := match who with
      | some v => x.wake v 0x36
      | none => x
    s.homes.ranges.find? (fun g => (rangeToken s.module g).toNat = tok) = some g → g.mapper = some (coreNumber s.module (.lc core), ofs, key) →
    let (bs, q) := s.mappedBytes core ofs g.len
    (g.rights.extractLsb' 0 2 = 0#2 → exec (.rdoneEndMarker core tok who) s = .next (ended ((s.dropMapping core tok).rdoneHome tok [] q).serveWaiting)) ∧
    (∀ v, g.rights.extractLsb' 0 2 ≠ 0#2 → s.linesReady g.lo g.len = (true, v) → exec (.rdoneEndMarker core tok who) s =
      .next (ended ((v.dropMapping core tok).rdoneHome tok bs q).serveWaiting))) ∧
  (∀ core tok who g, let ended (x : State) : State := match who with
      | some v => x.wake v 0x36
      | none => x
    s.homes.ranges.find? (fun g => (rangeToken s.module g).toNat = tok) = some g →
    (g.mapper = none → exec (.rdoneEndMarker core tok who) s = .next (ended ((s.dropMapping core tok).rdoneHome tok [] false)).serveWaiting) ∧
    (g.mapper.isSome = true → g.rights.extractLsb' 0 2 ≠ 0#2 → ∀ v, s.linesReady g.lo g.len = (false, v) →
      exec (.rdoneEndMarker core tok who) s = .next (v.push (.rdoneEndMarker core tok who)))) ∧
  (∀ core tok, (∀ g ∈ s.homes.ranges, (rangeToken s.module g).toNat ≠ tok) → s.cur.wait = .completion 0x36 → ∃ u,
    exec (.rdoneEndMarker core tok (some s.focus)) s = .next u ∧ u.cur = ({ s.cur with wait := .none } : Ctx).advance 4#48 ∧ u.mem = s.mem ∧
    ∀ e, e ∈ (u.lp core).mappings ↔ e ∈ (s.lp core).mappings ∧ e.token.toNat ≠ tok) ∧
  (∀ g : Delivery, let shut (x : Nat) : Prop := spaceOf x = 4 ∧ ∀ u, windowCore (offsetOf x) = some u → s.holdsKey u g.key = false
    let refused : Prop := shut g.pa ∨ shut g.msPa ∨
      (s.checkRanges { who := g.who, core := coreNumber s.module (.lc 0), key := g.key, op := .store, pa := g.pa, len := g.data.length }).1.isSome = true
    (s.agenda.any (earlierDelivery g) = true → exec (.subscriberDelivery g) s = .next (s.push (.subscriberDelivery g))) ∧
    (s.agenda.any (earlierDelivery g) = false → refused → exec (.subscriberDelivery g) s = .next (if g.module = s.module then
        s.announceAnswer g.who (g.jent.getD 0) g.token s.module false
      else s.sendPacket (coreNumber g.module (.lc 0)) (coreNumber s.module (.lc 0)) g.key 0 0 0 0 0 (.done g.who 0x38 [g.jent.getD 0, g.token, s.module, 0]))) ∧
    (∀ v, s.agenda.any (earlierDelivery g) = false → ¬refused → s.linesReady (canon g.pa) g.data.length = (false, v) →
      exec (.subscriberDelivery g) s = .next (v.push (.subscriberDelivery g)))) ∧
  (∀ (g : Delivery) (v : State), (∀ x ∈ [g.pa, g.msPa], spaceOf x = 4 → ∃ u, windowCore (offsetOf x) = some u ∧ s.holdsKey u g.key = true) →
    s.agenda.any (earlierDelivery g) = false →
    (s.checkRanges { who := g.who, core := coreNumber s.module (.lc 0), key := g.key, op := .store, pa := g.pa, len := g.data.length }).1 = none →
    s.linesReady (canon g.pa) g.data.length = (true, v) →
    let y := v.homeWrite (canon g.pa) g.data
    let z := (if g.poison then y.addPoison (canon g.pa) g.data.length else y).contribute g.msPa g.data.length
    exec (.subscriberDelivery g) s = .next (if g.module = s.module then z.announceAnswer g.who (g.jent.getD 0) g.token s.module true
      else z.sendPacket (coreNumber g.module (.lc 0)) (coreNumber s.module (.lc 0)) g.key 0 0 0 0 0
        (.done g.who 0x38 [g.jent.getD 0, g.token, s.module, 1])))

/-- Requests and answers at this module: a request counts at its home and is performed there, a load answered with the bytes there and a store
written to its bytes alone; an access through a window reads or writes the scratchpad or is refused; an operation forwarded to the mapper is
performed on its bytes; a contribution settles its word; a drained store leaves the buffer; the last reply writes its register, acquires and
completes the instruction, on a dense tile as a late access; an acknowledgement retires its journal entry, and a refusal is recorded for the
thread (R53, R91, R104, R107, R162, R180, R358). -/
def Obligations.HomeSteps : Prop := ∀ (s : State) (c t : Nat),
  (∀ r : Request, (spaceOf r.pa ≠ 6 → exec (.homeRequest r) s = .next (((s.countAccess r.pa).countL2 r.pa).arrive r)) ∧
    (spaceOf r.pa = 6 → (r.op = .store → exec (.homeRequest r) s =
        .next ((s.pushAll (s.controlWrites r.key (offsetOf r.pa) r.data)).answerRequest r [] false false)) ∧
      (r.op ≠ .store → exec (.homeRequest r) s =
        .next ((s.controlReadEffect (offsetOf r.pa)).answerRequest r (s.controlRead r.key (offsetOf r.pa) r.len) false false))) ∧
    (∀ v, (r.jent = none ∨ r.held = false) → s.homes.ranges = [] → (spaceOf r.pa = 5 → s.boot.cxlUp = true) →
      (∀ w ∈ s.homes.heldWrites, w.1 ≠ canon r.pa / 64) → s.hostReady r.pa (opWrites r.op) = (none, v) → v.homes.ranges = [] → r.key ≠ hostKey →
      s.arrive r = v.performReq r fun _ => true) ∧
    (r.op = .load → r.jent = none → r.hops = [] → r.data = [] → moduleOfNumber r.core = s.module → r.who = .agent (.thread c t) →
      ∃ u p, s.performReq r (fun _ => true) = u ∧ u.mem = s.mem ∧ u.agenda = s.agenda ++
        [.replyWritten { who := r.who, dest := r.dest, data := s.readVia (reqBase r) r.len, poison := p, acq := r.acq }]) ∧
    (r.op = .store → r.hops = [] → r.mask = [] → r.poison = false → r.data.length = r.len → s.homes.ranges = [] → Memory.wf s.mem = true →
      ∃ v, s.performReq r (fun _ => true) = v.answerRequest r [] false false ∧ v.read (canon r.pa) r.len = r.data ∧
        s.bytesKept v (canon r.pa) r.len) ∧
    (s.windowRefusal r = none → r.orig = none → (r.jent = none ∨ r.held = false) →
      (r.op = .load → exec (.tileWindowAccess r) s = .next (((s.windowRead r).2).answerRequest r (s.windowRead r).1 (s.poisoned r.pa r.len) false)) ∧
      (r.op = .store → exec (.tileWindowAccess r) s = .next ((s.windowWrite r).answerRequest r [] false false)) ∧
      (r.op ≠ .load → r.op ≠ .store → exec (.tileWindowAccess r) s = .next (s.performReq r fun _ => true))) ∧
    (∀ x, s.windowRefusal r = some x → exec (.tileWindowAccess r) s = .next (s.refuseRequest r x)) ∧
    exec (.tileWindowAccess r) s = .next (s.windowAccess r) ∧
    (∀ core tok, (∀ g ∈ s.homes.ranges, (rangeToken s.module g).toNat ≠ tok) → exec (.forwardedOperation core tok r) s = .next (s.atHome r)) ∧
    (∀ core tok g ofs key, s.homes.ranges.find? (fun g => (rangeToken s.module g).toNat = tok) = some g → (s.checkRanges r).1 = none →
      g.mapper = some (coreNumber s.module (.lc core), ofs, key) → exec (.forwardedOperation core tok r) s = .next (s.performReq r fun _ => true)) ∧
    (∀ core tok g, s.homes.ranges.find? (fun g => (rangeToken s.module g).toNat = tok) = some g →
      (∀ x ok, s.checkRanges r = (some x, ok) → exec (.forwardedOperation core tok r) s = .next (s.performRefused r x ok)) ∧
      ((s.checkRanges r).1 = none → (∀ m, g.mapper = some m → m.1 ≠ coreNumber s.module (.lc core)) →
        exec (.forwardedOperation core tok r) s = .next (s.atHome r)))) ∧
  (∀ pa n, exec (.milestoneContribution pa n) s = .next (s.setMilestone pa ((s.milestone pa).contribute n))) ∧
  (∀ e rest, (s.lp c).sbuf = e :: rest → let u := s.setLp c { s.lp c with sbuf := rest }
    exec (.storeBufferDrain c) s = .next (if cachedSpace (spaceOf e.pa) then u.storeL1 c e else u.storeAtSite (.thread c e.slot) e.key e.pa e.data)) ∧
  ((s.lp c).sbuf = [] → exec (.storeBufferDrain c) s = .next s) ∧
  (∀ (d : BitVec 5) (w : BitVec 3) (bs : List Byte), (s.ctx (.thread c t)).wait = .replies 1 → (s.ctx (.thread c t)).failed = none →
    (s.ctx (.thread c t)).want = none → (s.lp c).stray t = 0 →
    ∃ u, exec (.replyWritten { who := .agent (.thread c t), dest := .x d w, data := bs }) s = .next u ∧ u.mem = s.mem ∧
    u.ctx (.thread c t) = ({ (s.ctx (.thread c t)).writeX d (extendBy w (bytesToNat bs)) with wait := .none, undo := none, tally := 0 } : Ctx).advance 4#48) ∧
  (∀ (r : Reply) (k : Nat), (r.who = .l1 k → exec (.replyWritten r) s = .next (s.lineAnswered k r)) ∧
    (∀ q, r.who = .copy k q → exec (.replyWritten r) s = .next (s.copyReply k q r)) ∧
    (∀ w, r.who = .host → r.dest = .inbox w → exec (.replyWritten r) s =
      .next { s with boot := { s.boot with hostReads := s.boot.hostReads ++ [(r.data, r.poison || r.refused.isSome)] } }) ∧
    (r.who = .agent (.thread c t) → r.dest = .none → let x := s.ctx (.thread c t)
      (r.refused = none → exec (.replyWritten r) s = .next (s.setCtx (.thread c t) { x with wbacks := x.wbacks - 1 })) ∧
      ∀ e, r.refused = some e → exec (.replyWritten r) s = .next (s.setCtx (.thread c t) (({ x with wbacks := x.wbacks - 1 } : Ctx).queueRefusal 32 e))) ∧
    (r.who = .agent (.thread c t) → r.dest ≠ .none → (s.lp c).stray t ≠ 0 → exec (.replyWritten r) s = .next (s.strayReply c t)) ∧
    (r.who = .agent (.thread c t) → (∀ n, (s.ctx (.thread c t)).wait ≠ .replies n) → r.dest ≠ .none → (∀ l, r.dest ≠ .code l) → (s.lp c).stray t = 0 →
      exec (.replyWritten r) s = .next s) ∧
    (∀ n e, r.who = .agent (.thread c t) → (s.ctx (.thread c t)).wait = .replies n → r.refused = some e → r.dest ≠ .none → (∀ l, r.dest ≠ .code l) → (s.lp c).stray t = 0 →
      exec (.replyWritten r) s = .next (s.replyRefused (.thread c t) r.dest e))) ∧
  (∀ (j b : Nat) (r : Reply), r.who = .agent (.bank j b) → (findLate (s.dp j).lates b r.dest = none → exec (.lateReplyArrival r) s = .next s) ∧
    ∀ l, findLate (s.dp j).lates b r.dest = some l → let u := s.setDp j { s.dp j with lates := (s.dp j).lates.erase l }
      (∀ e, r.refused = some e → isCode r.dest = false → exec (.lateReplyArrival r) s =
        .next (u.trapLate (.bank j b) (replyTrap l.opnd r.dest e) l.pc l.slot l.issued)) ∧
      (r.refused = none → r.poison = true → exec (.lateReplyArrival r) s = .next (u.consumePoison (.bank j b))) ∧
      (∀ w, r.refused = none → r.poison = false → l.want = some w → reaches (bytesToNat r.data) w.2 = false →
        exec (.lateReplyArrival r) s = .next (u.setDp j { u.dp j with again := (u.dp j).again ++ [⟨l.pc, l.slot, l.loops⟩] })) ∧
      (∀ w, r.refused = none → r.poison = false → l.want = some w → reaches (bytesToNat r.data) w.2 = true → isInbox r.dest = false →
        exec (.lateReplyArrival r) s = .next (u.deliver (.bank j b) r.dest r.data))) ∧
  (∀ a j, exec (.journalAck a j) s = .next ((s.retirePart a j).commitDone a) ∧ ∀ (r : Refused) (l : Bool),
    let held : Prop := (s.ctx a).wayOpen = true ∧ (s.ctx a).committing = false ∧ ∃ e, findAt (s.ctx a).journal j = some e ∧ e.held = true
    let u := s.setCtx a ((s.ctx a).queueRefusal j r)
    (held → exec (.refusalArrival a j r l) s = .next (s.rollback a r.cause)) ∧
    (¬held → exec (.refusalArrival a j r l) s = .next ((if l then u.retirePart a j else u).commitDone a))) ∧
  (∀ (j b : Nat) (d : BitVec 5) (w : BitVec 3) (bs : List Byte) (l : Late), findLate (s.dp j).lates b (.x d w) = some l → l.want = none →
    ∃ u, exec (.lateReplyArrival { who := .agent (.bank j b), dest := .x d w, data := bs }) s = .next u ∧ u.mem = s.mem ∧
    (u.dp j).lates = (s.dp j).lates.erase l ∧ u.ctx (.bank j b) = (s.ctx (.bank j b)).writeX d (extendBy w (bytesToNat bs))) ∧
  (∀ j e, findAt (s.ctx (.thread c t)).journal j = some e → (s.ctx (.thread c t)).committing = false →
    (e.parts ≤ 1 → ∃ u, exec (.journalAck (.thread c t) j) s = .next u ∧ s.onlyCtx u (.thread c t) ∧
      u.ctx (.thread c t) = { s.ctx (.thread c t) with journal := dropAt (s.ctx (.thread c t)).journal j }) ∧
    (1 < e.parts → ∃ u, exec (.journalAck (.thread c t) j) s = .next u ∧ s.onlyCtx u (.thread c t) ∧
      u.ctx (.thread c t) = { s.ctx (.thread c t) with journal := setAt (s.ctx (.thread c t)).journal j { e with parts := e.parts - 1 } }) ∧
    (∀ (r : Refused) (l : Bool), e.held = true → (s.ctx (.thread c t)).wayOpen = true → exec (.refusalArrival (.thread c t) j r l) s =
      .next (s.rollback (.thread c t) r.cause)) ∧
    (∀ r : Refused, e.held = false → j < maxJournal → (s.ctx (.thread c t)).refusals = [] → ∃ u q, exec (.refusalArrival (.thread c t) j r false) s = .next u ∧
      (u.ctx (.thread c t)).refusals = [q] ∧ q.cause = r.cause ∧ q.detail = r.detail ∧ q.tval = r.tval ∧ q.jent = j ∧ q.addr = e.addr ∧
      (u.ctx (.thread c t)).x = (s.ctx (.thread c t)).x ∧ u.mem = s.mem))

/-- Rows at their homes: a fresh row answers a gather at once, and one that is not waits on the list until its row is written or the wait limit
passes; a write-back of a newer step writes the row and its step, and an older one answers 1; LZERO clears the gradient of its step and refuses
another; an accumulate is applied or answered; a merge entry whose window is over takes no more, and at the end of a cycle none whose window has
passed does (R78 to R85, R291, R293). -/
def Obligations.RowsAtHome : Prop := ∀ s : State,
  (∀ g : Gather, let (x, t) := s.mergeGather g
    (x = none → exec (.homeGather g) s = .next t) ∧ ∀ g1, x = some g1 → let u := t.countTable g.pair g.key g.tid fun d => d.rowAt s.module g.pair g.row
      let full : Prop := maxWaitList ≤ (u.homes.waiting.filter fun w => w.1 = g.pair % 512).length
      (∀ y, u.gatherAnswer g1 = some y → exec (.homeGather g) s = .next (u.answerGather g1 y)) ∧
      (u.gatherAnswer g1 = none → full → exec (.homeGather g) s = .next (u.answerGather g1 .returned)) ∧
      (u.gatherAnswer g1 = none → ¬full → ∃ v, exec (.homeGather g) s = .next v ∧ v.homes.waiting = u.homes.waiting ++ [(g.pair % 512, { g1 with since := u.cycle })] ∧
        v.agenda = u.agenda ∧ v.mem = u.mem)) ∧
  (∀ g : Gather, s.gang.suspended.contains g.key = true ∨ s.cycle < resendAt g → exec (.gatherResend g) s = .next (s.push (.gatherResend g))) ∧
  (∀ p i, let mine := s.homes.waiting.filter fun w => w.1 = p
    (s.regs.rcontrol.extractLsb' 0 32 = 0#32 ∨ mine[i]? = none → exec (.gatherWaitTimeout p i) s = .next s) ∧
    ∀ w, s.regs.rcontrol.extractLsb' 0 32 ≠ 0#32 → mine[i]? = some w →
      exec (.gatherWaitTimeout p i) s = .next (s.refuseWaiting (fun v => v = w) fun g => ⟨0x14, 0x03, g.row⟩)) ∧
  (∀ a : Accum, let u := s.countTable a.pair a.key a.tid fun d => d.gradAt s.module a.pair a.row (a.step8 % 2)
    (a.held = false ∨ a.jent = none → exec (.homeAccumulate a) s = .next (u.accumulate a)) ∧
    ∀ j, a.held = true → a.jent = some j → (∀ x, s.accumChecked a = .error x → exec (.homeAccumulate a) s = .next (u.answerAccum a (some x))) ∧
      ∀ x, s.accumChecked a = .ok x → exec (.homeAccumulate a) s = .next (u.holdPending (.agent a.who) j (.accum a))) ∧
  (∀ w : RowWrite,
    let reply (x : State) (e : Refused) : State :=
      x.sendReply w.core w.key { who := .agent w.who, dest := .count w.d, data := natToBytes 1 0, refused := some e, row := some w.row }
    (s.tableAt w.pair w.key w.tid = none → exec (.homeRowWriteback w) s = .next (reply s ⟨0x0D, 0x09, w.row⟩)) ∧
    ∀ x, s.tableAt w.pair w.key w.tid = some x → let pa := x.rowAt s.module w.pair w.row
      (∀ e, (s.checkRanges (homeAccess w.who w.core w.key .store pa w.data.length)).1 = some e →
        exec (.homeRowWriteback w) s = .next (reply (s.countAccess pa) e)) ∧
      (∀ v, (s.checkRanges (homeAccess w.who w.core w.key .store pa w.data.length)).1 = none → stepReaches w.step (s.metaField x w.pair w.row 0) = true →
        w.step ≠ s.metaField x w.pair w.row 0 → (s.countAccess pa).linesReady pa w.data.length = (false, v) → exec (.homeRowWriteback w) s = .next (v.push (.homeRowWriteback w)))) ∧
  (∀ z : RowZero,
    let reply (x : State) (e : Refused) : State :=
      x.sendReply z.core z.key { who := .agent z.who, dest := .area 0 z.d 0, refused := some e, row := some z.row }
    (s.tableAt z.pair z.key z.tid = none → exec (.homeZero z) s = .next (reply s ⟨0x0D, 0x09, z.row⟩)) ∧
    ∀ x e, s.tableAt z.pair z.key z.tid = some x → let g := x.gradAt s.module z.pair z.row (z.k % 2)
      (s.checkRanges (homeAccess z.who z.core z.key .store g (4 * x.elems))).1 = some e → exec (.homeZero z) s = .next (reply (s.countAccess g) e)) ∧
  (s.regs.nqen = false → s.homes.ranges = [] →
  (∀ (g : Gather) (x : Desc), s.regs.rcontrol.getLsbD 32 = true → g.merge = none → s.tableAt g.pair g.key g.tid = some x →
    (s.checkRanges (homeAccess g.who g.core g.key .load (x.rowAt s.module g.pair g.row) x.rowBytes)).1 = none →
    (s.fresh x g = true → g.peek = false → moduleOfNumber g.core = s.module → (∀ j b, g.who ≠ .bank j b) → ∃ u p, exec (.homeGather g) s = .next u ∧ u.mem = s.mem ∧
      u.agenda = s.agenda ++ [.replyWritten
        { who := .agent g.who, dest := .area g.area g.d g.count, data := s.readVia (x.rowAt s.module g.pair g.row) x.rowBytes, poison := p,
          row := some g.row }]) ∧
    (g.peek = true → moduleOfNumber g.core = s.module → (∀ j b, g.who ≠ .bank j b) → ∃ u p, exec (.homeGather g) s = .next u ∧ u.mem = s.mem ∧
      u.agenda = s.agenda ++ [.replyWritten (if s.fresh x g then
        { who := .agent g.who, dest := .area g.area g.d (s.metaField x g.pair g.row 0), data := s.readVia (x.rowAt s.module g.pair g.row) x.rowBytes,
          poison := p, row := some g.row }
        else { who := .agent g.who, dest := .area g.area g.d (0x10000 + s.metaField x g.pair g.row 0), row := some g.row })]) ∧
    (s.fresh x g = false → g.peek = false → (s.homes.waiting.filter fun w => w.1 = g.pair % 512).length < maxWaitList → ∃ u, exec (.homeGather g) s = .next u ∧
      u.homes.waiting = s.homes.waiting ++ [(g.pair % 512, { g with since := s.cycle })] ∧ u.mem = s.mem ∧ u.agenda = s.agenda)) ∧
  (∀ g : Gather, s.gang.suspended.contains g.key = false → resendAt g ≤ s.cycle →
    exec (.gatherResend g) s = .next (s.sendGather { g with since := 0 } true)) ∧
  (∀ p w, s.regs.rcontrol.extractLsb' 0 32 ≠ 0#32 → s.homes.waiting = [(p, w)] → w.merge = none → moduleOfNumber w.core = s.module → (∀ j b, w.who ≠ .bank j b) →
    ∃ u, exec (.gatherWaitTimeout p 0) s = .next u ∧ u.homes.waiting = [] ∧ u.mem = s.mem ∧
    u.agenda = s.agenda ++ [.replyWritten { who := .agent w.who, dest := .area w.area w.d 0, refused := some ⟨0x14, 0x03, w.row⟩ }]) ∧
  (∀ n, ∃ u, exec (.mergeWindowExpiry n) s = .next u ∧ u.homes.merges.length = s.homes.merges.length ∧ (∀ e ∈ u.homes.merges, e.id = n → e.closed = true) ∧
    (∀ e, e.id ≠ n → (e ∈ u.homes.merges ↔ e ∈ s.homes.merges)) ∧ u.mem = s.mem ∧ u.agenda = s.agenda) ∧
  (∀ e ∈ s.tickMerges.homes.merges, e.born + memoryCycles 256 < s.cycle → e.closed = true) ∧
  (∀ (a : Accum) (x : Refused), a.held = false → s.accumChecked a = .error x → exec (.homeAccumulate a) s = .next (s.answerAccum a (some x))) ∧
  (∀ (a : Accum) (x : Desc), a.held = false → s.accumChecked a = .ok x →
    s.linesReady (x.gradAt s.module a.pair a.row (a.step8 % 2) + 4 * a.e0) (4 * a.vals.length) = (true, s) →
    exec (.homeAccumulate a) s = .next ((s.applyAccum x a).2.answerAccum a (s.applyAccum x a).1)) ∧
  (∀ (w : RowWrite) (x : Desc), s.tableAt w.pair w.key w.tid = some x → moduleOfNumber w.core = s.module →
    (s.checkRanges (homeAccess w.who w.core w.key .store (x.rowAt s.module w.pair w.row) w.data.length)).1 = none →
    let at' := s.metaField x w.pair w.row 0
    let pa := x.rowAt s.module w.pair w.row
    let answers (n : Nat) (u : State) : State :=
      u.push (replyStep { who := .agent w.who, dest := .count w.d, data := natToBytes 1 n, refused := none, row := some w.row })
    ((stepReaches w.step at' = false ∨ w.step = at') → exec (.homeRowWriteback w) s = .next (answers 1 s)) ∧
    (∀ v, stepReaches w.step at' = true → w.step ≠ at' → s.linesReady pa w.data.length = (true, v) → ∃ u, exec (.homeRowWriteback w) s = .next (answers 0 u) ∧
      let y := v.homeWrite pa w.data
      u = ((if w.poison then y.addPoison pa w.data.length else y).setMeta x w.pair w.row 0 w.step).reevaluate fun g =>
        g.1 = w.pair % 512 && g.2.row = w.row && g.2.key = w.key && g.2.tid = w.tid)) ∧
  (∀ (z : RowZero) (x : Desc), s.tableAt z.pair z.key z.tid = some x → moduleOfNumber z.core = s.module →
    let g := x.gradAt s.module z.pair z.row (z.k % 2)
    (s.checkRanges (homeAccess z.who z.core z.key .store g (4 * x.elems))).1 = none →
    let answers (n : Nat) (u : State) : State := u.push (replyStep { who := .agent z.who, dest := .area 0 z.d n, refused := none, row := some z.row })
    (s.metaField x z.pair z.row (1 + z.k % 2) ≠ z.k → exec (.homeZero z) s = .next (answers 1 s)) ∧
    (s.metaField x z.pair z.row (1 + z.k % 2) = z.k → s.metaField x z.pair z.row (3 + z.k % 2) ≠ z.c → exec (.homeZero z) s = .next (answers 2 s)) ∧
    (s.metaField x z.pair z.row (1 + z.k % 2) = z.k → s.metaField x z.pair z.row (3 + z.k % 2) = z.c → s.linesReady g (4 * x.elems) = (true, s) →
      exec (.homeZero z) s = .next (answers 0 (((s.homeWrite g (List.replicate (4 * x.elems) 0#8)).setMeta x z.pair z.row (3 + z.k % 2) 0).setMeta x z.pair
        z.row (1 + z.k % 2) ((z.k + 2) % 65536))))))

/-! ### Threads on the move, scheduling and launching (R169 to R174, R183 to R205) -/

/-- Migration and spawning of a lookup thread whose release is complete, to any lookup core. MIGR leaves its slot with its pc, x1 to x7, key and
tag; SPAWN sends such a context and goes on; the read of a migrating RLD is made first and its value goes with the context. A context is sent to
its core, through the fabric where that is on another module. An arrival at a core that holds the launch enters its queue, a full queue spills,
and a context that finds no launch goes back (R113, R169 to R173, R271, R341). -/
def Obligations.ContextsOnTheMove : Prop := ∀ (s : State) (c t n : Nat) (a b : BitVec 5) (m : BitVec 3), s.focus = .thread c t → s.cur.wayOpen = false →
  let carried (pc : BitVec 48) (who : Option Agent) (x : Travel) : Prop := x.pc = pc ∧ x.dst = n ∧ x.src = s.coreNo s.focus ∧
    x.key = s.curKey ∧ x.tag = (s.task s.focus).tag ∧ x.spawner = who ∧ x.back = none
  let leaves (i : Instr) : Prop := ∃ x, exec i s = .next (s.depart x fun y => y.sendTravel x) ∧ carried (s.cur.pc + 4#48) none x ∧ x.regs = s.travelRegs
  let spawns (i : Instr) : Prop := ∃ (x : Travel) (u : State), exec i s = .next (u.sendTravel x).complete ∧ carried ((s.x b).setWidth 48) (some s.focus) x ∧
    x.regs = s.travelRegs ∧ x.number = u.cur.holder ∧ u.mem = s.mem ∧ u.agenda = s.agenda ∧ (u.lp c).outbound = (s.lp c).outbound + 1 ∧
    u.cur = { s.cur with spawned := s.cur.spawned + 1, holder := u.cur.holder }
  (s.unanswered = false → s.outboundFull = false → s.releaseFor s.focus (decide (n ≠ s.coreNo s.focus)) false = (true, s) →
    (lookupNumber (s.x a) = some n → leaves (.migr a)) ∧
    (lookupNumber (s.x a) = some n → s.cur.spawned < 8 → (s.x b).toNat % 4 = 0 → spawns (.spawn a b)) ∧
    (checkHandle s.cur.sup (s.h m) (s.x a).toNat 1 1 .load true = none →
      let pa := canon (hBase (s.h m) + (s.x a).toNat)
      spaceOf pa ≠ 6 → homeNumber pa = n → leaves (.migrHandle a m) ∧ (s.cur.spawned < 8 → (s.x b).toNat % 4 = 0 → spawns (.spawnHandle a b m))) ∧
    (∀ (w : BitVec 3) (i : BitVec 6), s.cur.inbox = none →
      let k := widthBytes w
      let ofs := s.mOffset a i k
      let pa := canon (hBase (s.h m) + ofs.toNat)
      checkHandle s.cur.sup (s.h m) ofs.toNat k k .load true = none → spaceOf pa ≠ 6 → homeNumber pa = n →
      exec (.rldMigrate m a w i) s = .next (s.awaitRequest m ofs .load pa k [] (.inbox migrateMark) false false))) ∧
  (∀ (w : BitVec 3) (i : BitVec 6) bs, s.cur.inbox = some [(migrateMark, bs)] → s.cur.failed = none → s.outboundFull = false →
    homeNumber (canon (hBase (s.h m) + (s.mOffset a i (widthBytes w)).toNat)) = n → ∃ x, exec (.rldMigrate m a w i) s =
      .next ((s.setCur { s.cur with inbox := none, failed := none }).depart x fun y => y.sendTravel x) ∧ carried (s.cur.pc + 4#48) none x ∧
      x.regs = s.travelRegs.take 6 ++ [extendBy w (bytesToNat bs)]) ∧
  (lookupNumber (s.x a) = none → exec (.migr a) s = .next (s.takeTrap s.focus { cause := 0x05, tval := s.x a } s.cur.pc)) ∧
  (∀ x : Travel,
    let k := coreIndex x.dst
    (moduleOfNumber x.dst = s.module → s.sendTravel x = s.push (.travelContextArrival x)) ∧
    (moduleOfNumber x.dst ≠ s.module → s.admits (moduleOfNumber x.dst) x.key = true → s.sendTravel x = s.sendPacket x.dst x.src x.key 0 x.tag 0 0 1 (.travel x)) ∧
    (t < 16 → (s.slot c t).isSome = true → ((s.depart x id).slot c t) = none) ∧
    (s.holdsLaunch k x = true → (s.lc k).spill = [] → (s.lp k).arrivals.length < maxArrivals → moduleOfNumber x.src = s.module → coreIndex x.src ≠ k →
      ∃ u, exec (.travelContextArrival x) s = .next u ∧ (u.lp k).arrivals = (s.lp k).arrivals ++ [x] ∧
      (u.lp (coreIndex x.src)).outbound = (s.lp (coreIndex x.src)).outbound - 1 ∧ u.agenda.getLast? = some (.slotGrant k) ∧ u.mem = s.mem) ∧
    (s.holdsLaunch k x = true → (s.lc k).stalled = [] → (s.lc k).spill.length < maxSpill → ((s.lc k).spill ≠ [] ∨ maxArrivals ≤ (s.lp k).arrivals.length) →
      exec (.travelContextArrival x) s = .next ((s.spillTo k x).travelAccepted x.src x.key) ∧ ((s.spillTo k x).lc k).spill = (s.lc k).spill ++ [x]) ∧
    (s.holdsLaunch k x = false → ∃ r : Refused, r.cause = 0x13 ∧ r.tval = x.dst ∧ exec (.travelContextArrival x) s = .next (s.returnTravel x r)) ∧
    (∀ rest, (s.lc k).spill = x :: rest → s.holdsLaunch k x = true → (s.lp k).arrivals.length < maxArrivals → (s.lc k).stalled = [] → ∃ u,
      exec (.spillReturn k) s = .next u ∧ (u.lc k).spill = rest ∧ (u.lp k).arrivals = (s.lp k).arrivals ++ [x] ∧ u.mem = s.mem) ∧
    ((∀ y ∈ (s.lc k).spill, s.holdsLaunch k y = false) ∨ maxArrivals ≤ (s.lp k).arrivals.length → exec (.spillReturn k) s = .next s) ∧
    (let h := coreIndex x.src
     s.holdsLaunch h x = true → (s.lc h).spill = [] → (s.lp h).arrivals.length < maxArrivals → ∃ u, exec (.contextReturn x) s = .next u ∧
      (u.lp h).arrivals = (s.lp h).arrivals ++ [x] ∧ (u.lp h).outbound = (s.lp h).outbound - 1 ∧ u.mem = s.mem) ∧
    (let h := coreIndex x.src
     s.holdsLaunch h x = false → ∃ u v : State, exec (.contextReturn x) s = .next u ∧ u = (v.setLaunch x.tag fun l => { l with killed := l.killed + 1 }).lowerTravel x.tag ∧
      (v.lp h).outbound = (s.lp h).outbound - 1))

/-- Scheduling: a grant to a core whose key is switched out is put off, one with nothing ready leaves it as it is, and else the first task of the
lowest level that a slot is free for, or can be freed for, gets it; a swap of a running slot is over, one of a restoring slot brings its context
back, and one of a leaving slot whose release is complete saves it and starts the task that the slot is for; a context read back from the area is
in the cache, and a full cache sends its oldest to the area; a change of a watched word ends the watch; an expiry disarms and makes its task
ready; age counts; a finished task's entry is free with its incarnation raised, once the launch's mappings have ended; a launch that has ended is
reported and forgotten; production ends its waits (R70, R198 to R203, R335). -/
def Obligations.Scheduling : Prop := ∀ (s : State) (c k : Nat),
  let r := s.refreshReady c
  (s.gang.suspended.contains (s.lp c).key = true → exec (.slotGrant c) s = .next s) ∧
  (s.gang.suspended.contains (s.lp c).key = false →
    (r.repartitioning c = true → exec (.slotGrant c) s = .next (r.push (.slotGrant c))) ∧ (r.repartitioning c = false →
      (∀ i t a b, r.readyOrder c = a ++ i :: b → (∀ j ∈ a, r.slotFor c (r.taskAt c j) = none) → r.slotFor c (r.taskAt c i) = some t →
        exec (.slotGrant c) s = .next (((r.grant c i t).countLoad c t).push (.slotGrant c))) ∧
      ((∀ j ∈ r.readyOrder c, r.slotFor c (r.taskAt c j) = none) →
        (∀ i a b u, r.readyOrder c = a ++ i :: b → (∀ j ∈ a, r.makeSlot c j = none) → r.makeSlot c i = some u →
          exec (.slotGrant c) s = .next (u.push (.slotGrant c))) ∧
        ((∀ j ∈ r.readyOrder c, r.makeSlot c j = none) → exec (.slotGrant c) s = .next r)))) ∧
  (∀ t, s.slot c t = none → exec (.contextSwapComplete c t) s = .next s) ∧
  (∀ t sl, s.slot c t = some sl → (sl.state = .running → exec (.contextSwapComplete c t) s = .next s) ∧
    (sl.state = .restoring → exec (.contextSwapComplete c t) s = .next (s.restoreAll c t (pairSlots (s.taskAt c sl.task).ds t))) ∧
    (∀ asleep v, sl.state = .saving asleep → (s.taskAt c sl.task).ds = false → s.releaseFor (.thread c t) true false = (true, v) →
      v.onTheWay (.thread c t) = false → let x := v.saveOne c t asleep
      (sl.next = none → exec (.contextSwapComplete c t) s = .next (x.push (.slotGrant c))) ∧
      (∀ i, sl.next = some i → x.gang.suspended.contains (x.lp c).key = false → (x.taskAt c i).valid = true → (x.taskAt c i).ds = false → x.slot c t = none →
        exec (.contextSwapComplete c t) s = .next ((x.grant c i t).push (.slotGrant c)))) ∧
    (∀ asleep v, sl.state = .saving asleep → (s.taskAt c sl.task).ds = false → s.releaseFor (.thread c t) true false = (false, v) →
      exec (.contextSwapComplete c t) s = .next (v.push (.contextSwapComplete c t)))) ∧
  (∀ n, let mine (x : SavedCtx) : Bool := x.task = k && x.tid % 16 = n % 16 && x.visitor == decide (32 ≤ n)
    let y := ((s.lp c).area.filter mine).foldl (fun x e => x.toCache c e) (s.setLp c { s.lp c with area := (s.lp c).area.filter fun x => !mine x })
    exec (.contextAreaReadback c k n) s = .next (match (y.lp c).slots.find? (fun e =>
        e.2.task = k && e.2.tid = n % 16 && e.2.visitor == decide (32 ≤ n) && e.2.state = .restoring) with
      | some e => y.push (.contextSwapComplete c e.1)
      | none => y) ∧
    (∀ x, (s.lp c).area.filter mine = [x] → (((s.lp c).cache ++ [x]).map cacheUse).sum ≤ maxContextCache → (y.lp c).cache = (s.lp c).cache ++ [x] ∧
      (∀ z, z ∈ (y.lp c).area ↔ z ∈ (s.lp c).area ∧ mine z = false) ∧ y.mem = s.mem)) ∧
  (∀ x rest, (s.lp c).cache = x :: rest → maxContextCache ≤ ((s.lp c).cache.map cacheUse).sum → ∃ u e, exec (.contextAreaWriteback c) s = .next u ∧
    (u.lp c).cache = rest ∧ (u.lp c).area = (s.lp c).area ++ [{ x with pos := e }] ∧ s.bytesKept u (s.coreArea c + 0x2FBC0000 + e * 0x800) x.image.length) ∧
  (((s.lp c).cache.map cacheUse).sum < maxContextCache → exec (.contextAreaWriteback c) s = .next s) ∧
  (∀ pa, ∃ u, exec (.watchNotify c pa) s = .next u ∧ (∀ w ∈ (u.lp c).watch, w.2.2 ≠ pa) ∧ u.agenda = s.agenda ++ [.slotGrant c] ∧ u.mem = s.mem ∧
    ∀ y ∈ (u.lp c).cache, (∃ w ∈ (s.lp c).watch, w.2.2 = pa ∧ w.2.1 = y.code) → y.asleep = false) ∧
  (exec (.timerExpiry (.lc c) k) s = .next (if (s.taskAt c k).valid then (s.setTaskAt c k { s.taskAt c k with timer := 0#64 }).setReady c k else s)) ∧
  ((findAt (s.dp c).banks (s.dp c).timerBank).isNone = true →
    exec (.timerExpiry (.dt c) k) s = .next (s.setDp c { s.dp c with timer := 0#64 })) ∧
  ((findAt (s.dp c).banks (s.dp c).timerBank).isSome = true → ∃ u, exec (.timerExpiry (.dt c) k) s = .next u ∧ (u.dp c).timer = 0#64 ∧ u.agenda.getLast? = some (.trapDrain c) ∧
    ((u.dp c).traps.getLast?.map (·.cause.cause)) = some 0x18 ∧ u.mem = s.mem) ∧
  (exec (.ageTick c) s = .next (((r.lp c).readyQ.foldl (fun x i => x.ageTask c i) r).push (.slotGrant c)) ∧ ∀ i,
    ((s.taskAt c i).age < 4095 → ((s.ageTask c i).taskAt c i) = { s.taskAt c i with age := (s.taskAt c i).age + 1 }) ∧
    (4095 ≤ (s.taskAt c i).age → ((s.ageTask c i).taskAt c i) = { s.taskAt c i with age := 0, eprio := (s.taskAt c i).eprio - 1 })) ∧
  (let tag := (s.taskAt c k).tag
   let maps := ∃ m ∈ (s.lp c).mappings, m.tag = tag
   let more := ∃ e ∈ (s.lp c).tasks, e.1 ≠ k ∧ e.2.valid = true ∧ e.2.tag = tag
   (s.taskOver c k = true → (¬maps ∨ more) → ∃ u, exec (.taskEnd c k) s = .next u ∧
    (u.taskAt c k).valid = false ∧ (u.taskAt c k).inc = ((s.taskAt c k).inc + 1) % 256 ∧ k ∉ (u.lp c).readyQ ∧ u.agenda.getLast? = some (.slotGrant c)) ∧
   (s.taskOver c k = true → maps → ¬more → exec (.taskEnd c k) s = .next ((s.endMappings c fun m => m.tag = tag).push (.taskEnd c k))) ∧
   (s.taskOver c k = false → exec (.taskEnd c k) s = .next s)) ∧
  (findAt s.disp.launches k = none → exec (.launchComplete k) s = .next s) ∧
  (∀ l, findAt s.disp.launches k = some l → l.ended < l.total → exec (.launchComplete k) s = .next s) ∧
  (∀ l, findAt s.disp.launches k = some l → l.total ≤ l.ended → ∃ u, exec (.launchComplete k) s = .next u ∧ u.disp.launches = dropAt s.disp.launches k ∧
    u.mem = (s.writeCompletion l.record l.port (if l.killed = 0 then 0 else 2) 0 l.ended l.killed l.tstart s.timeNs).mem) ∧
  (∀ g, ∃ u, exec (.producerEnd k g) s = .next u ∧ u.mem = s.mem ∧ ∀ x t sl, t < 16 → s.slot x t = some sl → (s.taskAt x sl.task).key = k →
    (s.ctx (.thread x t)).wait = .production g → (u.ctx (.thread x t)).wait = .again ∧ (u.ctx (.thread x t)).produced = true) ∧
  (∀ l, findAt s.disp.launches k = some l → ∃ u, exec (.dependenceMet k) s = .next u ∧ findAt u.disp.launches k = some { l with depMet := true } ∧ u.mem = s.mem) ∧
  (findAt s.disp.launches k = none → ∃ u, exec (.dependenceMet k) s = .next u ∧ u.disp = s.disp ∧ u.mem = s.mem ∧ u.ctxs = s.ctxs)

/-- Launching: DREG enters and withdraws a producer, LAUNCH issues the record its handle points to and waits, a port takes, drops or overflows,
the dispatch core holds a record with C, accepts or rejects another, and one with its companion together, a late companion is rejected, a die's
table takes a record and binds its oldest, and a repartition gives up the lines of the ways that go and clears the new scratchpad (R33, R154,
R183 to R192, R346, R348). -/
def Obligations.Launching : Prop := ∀ (s : State) (c t : Nat) (d a b : BitVec 5) (n : BitVec 3), s.focus = .thread c t →
  ((s.x a).toNat % 65536 = 0 → (s.xg a 1).toNat ≤ 65536 →
    let count := (s.xg a 1).toNat
    let mine := s.disp.producers.filter fun p => p.key = s.curKey
    let full := maxProducers ≤ mine.length
    let enters (i : Instr) (r : Option (BitVec 512)) : Prop :=
      (count = 0 → ∃ u, exec i s = .next u ∧ u.cur = (({ s.cur with inbox := u.cur.inbox } : Ctx).advance 4#48) ∧ u.mem = s.mem ∧
        ∀ p, p ∈ u.disp.producers ↔ p ∈ s.disp.producers ∧ ¬(p.key = s.curKey ∧ p.va = (s.x a).toNat)) ∧
      (count ≠ 0 → ¬full → ∃ u, exec i s = .next u ∧ u.disp.producers = s.disp.producers ++ [Producer.mk s.curKey (s.x a).toNat count r] ∧
        u.cur = (({ s.cur with inbox := u.cur.inbox } : Ctx).advance 4#48))
    enters (.dreg a b 1#1 n) none ∧
    (count ≠ 0 → full → exec (.dreg a b 1#1 n) s = .next (s.takeTrap s.focus { cause := 0x0A, tval := s.x a, tinfo := 7#64 } s.cur.pc)) ∧
    (∀ ps, let r := BitVec.ofNat 512 (bytesToNat (assemble ps 64))
      checkHandle s.cur.sup (s.h n) (s.x b).toNat 64 64 .load true = none → s.cur.inbox = some ps →
      (s.setCur { s.cur with inbox := none }).recordFault s.curKey r none = none → enters (.dreg a b 0#1 n) (some r))) ∧
  (∀ ps, checkHandle s.cur.sup (s.h n) (s.x a).toNat 64 64 .load true = none → s.releaseFor s.focus true false = (true, s) → s.cur.inbox = some ps →
    ∃ u, exec (.launch d a n) s = .next u ∧ u.disp.issued = s.disp.issued ++ [Issue.mk (some s.focus) (BitVec.ofNat 512 (bytesToNat (assemble ps 64))) none] ∧
      u.agenda = s.agenda ++ [.launchValidate none] ∧ u.mem = s.mem ∧ u.cur = { s.cur with opnd := (d.setWidth 64, n), wait := .completion 0xDC, inbox := none }) ∧
  (∀ (p : Nat) (r : BitVec 512), p < 256 →
    let q := getAt s.disp.ports p LaunchPort.reset
    let after (u : State) : LaunchPort := getAt u.disp.ports p LaunchPort.reset
    (∃ u, exec (.launchPortRecord p r false) s = .next u ∧ after u = { q with mf := true }) ∧
    (q.en = false → ∃ u, exec (.launchPortRecord p r true) s = .next u ∧ after u = { q with dropped := true }) ∧
    (q.en = true → 16 ≤ q.queue.length → ∃ u, exec (.launchPortRecord p r true) s = .next u ∧ after u = { q with ov := true }) ∧
    (q.en = true → q.queue.length < 16 → ∃ u, exec (.launchPortRecord p r true) s = .next u ∧
      after u = { q with queue := q.queue ++ [r], accepted := q.accepted + 1#32 } ∧ u.agenda = s.agenda ++ [.launchValidate (some p)]) ∧
    (q.queue = [] → exec (.launchValidate (some p)) s = .next s) ∧
    (∀ x rest, q.queue = x :: rest →
      let took (u : State) : State :=
        let y := { u with disp := { u.disp with ports := setAt u.disp.ports p { after u with queue := rest } } }
        if rest = [] then y else y.push (.launchValidate (some p))
      let full : Prop := exec (.launchValidate (some p)) s = .next s
      (s.heldOnPort p = none → recC x = true → exec (.launchValidate (some p)) s = .next (took (s.holdRecord p x)) ∧
        (s.holdRecord p x).disp.companions = s.disp.companions ++ [(some p, none, x)]) ∧
      (s.heldOnPort p = none → recC x = false → (∀ u, s.decide1 q.key x (some p) none none = some u → exec (.launchValidate (some p)) s = .next (took u)) ∧
        (s.decide1 q.key x (some p) none none = none → full)) ∧
      (∀ y, s.heldOnPort p = some y → (∀ u, (s.dropHeld p).decide2 q.key y x (some p) none = some u → exec (.launchValidate (some p)) s = .next (took u)) ∧
        ((s.dropHeld p).decide2 q.key y x (some p) none = none → full))) ∧
    (∀ e, s.heldOnPort p = some r → findAt s.disp.holds p = some e →
      exec (.companionTimeout p) s = .next (if e ≤ s.timeNs then (s.dropHeld p).rejectLaunch r (some p) 0x0B else s)) ∧
    (s.heldOnPort p = none → exec (.companionTimeout p) s = .next s)) ∧
  (exec (.companionTimeout (256 + agentId s.focus)) s = .next (let w := agentOfId (agentId s.focus)
    if (s.ctx w).companionEnd ≤ s.timeNs then s.dropCompanion w else s)) ∧
  (s.disp.issued = [] → exec (.launchValidate none) s = .next s) ∧
  (∀ i, s.disp.issued = [i] → let took (u : State) : State := { u with disp := { u.disp with issued := u.disp.issued.drop 1 } }
    (∀ w, i.who = some w → (s.ctx w).companion = none → recC i.record = false →
      (∀ u, s.decide1 (s.key w) i.record none (some w) none = some u → exec (.launchValidate none) s = .next (took u)) ∧
      (s.decide1 (s.key w) i.record none (some w) none = none → exec (.launchValidate none) s = .next s)) ∧
    (∀ w, i.who = some w → (s.ctx w).companion = none → recC i.record = true → exec (.launchValidate none) s =
      .next (took ((s.setCtx w { s.ctx w with companion := some i.record, companionEnd := s.timeNs + 1000000 }).answerWord w 0xDC (BitVec.ofNat 64 (2 ^ 62))))) ∧
    (∀ w r u, i.who = some w → (s.ctx w).companion = some r → (s.setCtx w { s.ctx w with companion := none }).decide2 (s.key w) r i.record none (some w) = some u →
      exec (.launchValidate none) s = .next (took u)) ∧
    (∀ k g x u, i.who = none → i.prod = some (k, g, x) → s.decide1 k i.record none none i.prod = some u → exec (.launchValidate none) s = .next (took u))) ∧
  (∀ (k : Nat) (r : BitVec 512) (p : Option Nat) (w : Option Agent) (e : Option (Nat × Nat × Nat)),
    (∀ f, s.recordFault k r none = some f → s.decide1 k r p w e = some (s.rejectRecord r p w e f)) ∧
    (∀ tag, s.recordFault k r none = none → s.freeTag = some tag → s.decide1 k r p w e = some ((s.acceptLaunch tag r p w e).tellLaunch w (BitVec.ofNat 64 tag)))) ∧
  (∀ (v : Nat) (r : BitVec 256) (rest : List (BitVec 256)), v < 2 →
    ((getAt s.disp.slotTable v []).length < 256 → s.placementOk (bindOf r) = true → ∃ u, exec (.dispatchPlacement v r) s = .next u ∧
      getAt u.disp.slotTable v [] = getAt s.disp.slotTable v [] ++ [r] ∧ u.agenda = s.agenda ++ [.bindRecord v] ∧ u.mem = s.mem) ∧
    (256 ≤ (getAt s.disp.slotTable v []).length ∨ s.placementOk (bindOf r) = false → exec (.dispatchPlacement v r) s = .next s) ∧
    (getAt s.disp.slotTable v [] = [] → exec (.bindRecord v) s = .next s) ∧
    (getAt s.disp.slotTable v [] = r :: rest → ((bindOf r).kind = 1 → ∀ j ∈ tilesOfBind (bindOf r), s.bankReleased j (1 - (s.dp j).active) = true) →
      ∃ u k, exec (.bindRecord v) s = .next u ∧ (getAt u.disp.results v []).getLast? = some k ∧
      k = (State.bind1 { s with disp := { s.disp with slotTable := setAt s.disp.slotTable v rest } } v (bindOf r)).1)) ∧
  (∀ v k, ((s.lp v).mappings = [] → (∀ l ∈ (s.lp v).l1, k ≤ l.way) → (s.lp v).wb = [] → ∃ u, exec (.repartition v k) s = .next u ∧ (u.lp v).banks = k ∧
      ∀ x, if windowAddr s.module (.lc v) 0 ≤ x ∧ x < windowAddr s.module (.lc v) 0 + k * 0x4000 then memGet u.mem x = 0#8 else memGet u.mem x = memGet s.mem x) ∧
    ((s.lp v).mappings ≠ [] → exec (.repartition v k) s = .next ((s.endMappings v fun _ => true).push (.repartition v k))) ∧
    ((s.lp v).mappings = [] → (((s.lp v).l1.filter fun l => decide (l.way < k)).foldl (fun x l => x.evict v l) s |>.lp v).wb ≠ [] →
      exec (.repartition v k) s = .next (((((s.lp v).l1.filter fun l => decide (l.way < k)).foldl (fun x l => x.evict v l) s)).push (.repartition v k))))

/-! ### The matrix unit (R207 to R217, R318 to R328) -/

/-- The matrix operations that set up and make a pass: MCFG replaces acfg from the next cycle or traps on a reserved value; a feed fills its
buffer with the lines of R209 and writes their records, or traps without a format, on an operand off 64 bytes or outside the scratchpad, or on
poison; MSQ gives each cell the sum of (a + b)² over the steps that it makes, on a cleared bank or, resumed, on what it had, and its hem and
check sums; MHEM drains half of cell less hems; MCHK compares plsum with chkv and traps 0x10 after completing where they differ. A busy engine
traps 0x09. Each completes whatever windows of R217 are open, and in an open window a number is one of the two that R217 allows. -/
def Obligations.ArrayPasses : Prop := ∀ (s : State) (j b : Nat), s.focus = .bank j b →
  let ar := s.array j
  let idle (e : Nat) : Prop := getAt (s.dp j).busy e 0 ≤ s.now
  let emptyBank : Win CellBank := ⟨CellBank.zero, CellBank.zero, 0, 0⟩
  let square (k : CellBank) : Prop := (k.cells = [] ∧ k.hr = [] ∧ k.hc = []) ∨
    (k.cells.length = 256 ∧ k.hr.length = 256 ∧ k.hc.length = 256 ∧ ∀ r ∈ k.cells, r.length = 256)
  let cellOf (k : CellBank) (x y : Nat) : Int := (k.cells.getD x []).getD y 0
  (∀ d a, (cfgOk (s.x a) = false → exec (.mcfg d a) s = .next (s.trap 0x01 (s.x a) (0x09 + 256 * s.bslot))) ∧
    (cfgOk (s.x a) = true → ∃ u, exec (.mcfg d a) s = .next u ∧ (∀ v, s.now < v → (u.array j).cfg v = s.x a) ∧
      (u.array j).cfg s.now = ar.cfg s.now ∧ u.mem = s.mem ∧ (u.array j).bank = ar.bank ∧ (u.array j).fa = ar.fa ∧ (u.array j).fb = ar.fb ∧
      (d ≠ 0#5 → ∃ f, (u.dp j).flights = (s.dp j).flights ++ [⟨b, .x d, (ar.cfg s.now).setWidth 4096, BitVec.ofNat 4096 (2 ^ 64 - 1), s.now, 1, f⟩]))) ∧
  (∀ (row : Bool) d a c n, let f := (if row then (ar.cfg s.now).extractLsb' 14 5 else (ar.cfg s.now).extractLsb' 19 5).toNat
    let i : Instr := if row then .mfda d a c n else .mfdb d a c n
    let k := ((ar.cfg s.now).extractLsb' 0 11).toNat + 1
    let w := feedBits f
    let mode := ((ar.cfg s.now).extractLsb' 12 2).toNat
    let g := (k * w + 511) / 512
    let acc := (256 + 16 / g - 1) / (16 / g)
    let uses := (List.range 256).flatMap fun l => ((List.range g).map fun x => (1 + l / (16 / g), (s.x a).toNat + l * (s.xg a 1).toNat + 64 * x)) ++
      (if isMx f then [(1 + l / (16 / g), (s.x c).toNat + l * (s.xg c 1).toNat)] else [])
    let at' (l : Nat) := s.ownAddr s.focus ((s.x a).toNat + l * (s.xg a 1).toNat)
    let sat (l : Nat) := s.ownAddr s.focus ((s.x c).toNat + l * (s.xg c 1).toNat)
    let lined (l : Nat) : Bool := s.poisoned (at' l) (k * w / 8) || (isMx f && s.poisoned (sat l) (k / 32))
    let scale (p : Prop) : Prop := isMx f = true → p
    let even : Prop := (s.x a).toNat % 64 = 0 ∧ (s.xg a 1).toNat % 64 = 0 ∧ scale ((s.x c).toNat % 64 = 0 ∧ (s.xg c 1).toNat % 64 = 0)
    let inside : Prop := (s.x a).toNat + 255 * (s.xg a 1).toNat + k * w / 8 ≤ 0x200000
    let line (l : Nat) : List Int × Nat := feedLine f (modeInfo mode).2.1
      ((List.range k).map fun q => feedVal f (s.readNat (at' l) (k * w / 8) / 2 ^ (w * q) % 2 ^ w)) (if isMx f then (s.read (sat l) (k / 32)).map (·.toNat) else [])
    (s.now < getAt (s.dp j).busy (if row then 0 else 1) 0 → exec i s = .next (s.trap 0x09 0#64 (4096 + 2048 + 512 + if row then 0 else 1))) ∧
    (idle (if row then 0 else 1) → f = 0x1F → exec i s = .next (s.illegal (wordOf i) 0x04)) ∧
    (f ≠ 0x1F → ∀ s1 s2, s.startEngine (if row then 0 else 1) acc = .ok s1 → s1.useBanks j uses = .ok s2 →
    ((s.x a).toNat % 64 ≠ 0 → exec i s = .next (s.trap 0x07 (s.x a) a.toNat)) ∧
    ((s.x a).toNat % 64 = 0 → (s.xg a 1).toNat % 64 ≠ 0 → exec i s = .next (s.trap 0x07 (s.xg a 1) (a.toNat + 1))) ∧
    (isMx f = true → (s.x a).toNat % 64 = 0 → (s.xg a 1).toNat % 64 = 0 → ((s.x c).toNat % 64 ≠ 0 → exec i s = .next (s.trap 0x07 (s.x c) c.toNat)) ∧
      ((s.x c).toNat % 64 = 0 → (s.xg c 1).toNat % 64 ≠ 0 → exec i s = .next (s.trap 0x07 (s.xg c 1) (c.toNat + 1)))) ∧
    (even → ¬inside → exec i s = .next (s.trap 0x05 (s.x a) a.toNat)) ∧
    (even → inside → isMx f = true → 0x200000 < (s.x c).toNat + 255 * (s.xg c 1).toNat + 64 → exec i s = .next (s.trap 0x05 (s.x c) c.toNat)) ∧
    (even → inside → scale ((s.x c).toNat + 255 * (s.xg c 1).toNat + 64 ≤ 0x200000) →
      ((∃ l < 256, lined l = true) → exec i s = .next (s.consumePoison s.focus)) ∧
      ((∀ l < 256, lined l = false) → ∃ u, exec i s = .next u ∧ u.mem = s.mem ∧
      (∃ r0 r1 f0 f1, (u.dp j).flights = (s.dp j).flights ++ [⟨b, .v d, r0, BitVec.allOnes 4096, s.now, acc + 4, f0⟩,
          ⟨b, .v (d + 1#5), r1, BitVec.allOnes 4096, s.now, acc + 4, f1⟩] ∧
        ∀ l < 128, laneOf r0 32 l = (line l).2 ∧ laneOf r1 32 l = (line (128 + l)).2) ∧
      ∃ fill, (fillsOf (u.array j) row n.toNat).new = some fill ∧ fill.mode = mode ∧ fill.kpass = k ∧ fill.fmt = f ∧ fill.lines.length = 256 ∧
        ∀ l < 256, ((fillsOf ar row n.toNat).hi ≤ s.now → fill.lines.getD l [] = (line l).1) ∧
          ∀ q < k, (fill.lines.getD l []).getD q 0 = (line l).1.getD q 0 ∨
            ∃ o, (fillsOf ar row n.toNat).new = some o ∧ (fill.lines.getD l []).getD q 0 = (o.lines.getD l []).getD q 0)))) ∧
  (∀ (d a c : BitVec 1) x y w, idle 2 → fillsOf ar true a.toNat = x → fillsOf ar false c.toNat = y → getAt ar.bank d.toNat emptyBank = w →
    (x.new = none ∨ y.new = none → exec (.msq d a c) s = .next (s.illegal (wordOf (.msq d a c)) 0x05)) ∧
    ∀ p q, x.new = some p → y.new = some q → (p.mode ≠ q.mode ∨ p.kpass ≠ q.kpass → exec (.msq d a c) s = .next (s.illegal (wordOf (.msq d a c)) 0x05)) ∧
    (p.mode = q.mode → p.kpass = q.kpass → ∃ u, exec (.msq d a c) s = .next u ∧ (u.array j).fa = ar.fa ∧ (u.array j).fb = ar.fb ∧
      getAt (u.dp j).busy 2 0 = s.now + (p.kpass - (if s.cur.mpos.getLsbD 63 ∧ (s.dp j).resuming = true then (s.cur.mpos.extractLsb' 0 12).toNat else 0)) / modeP p.mode ∧
      (u.array j).msq.isSome = true ∧ (ar.plane.hi ≤ s.now → u.mem = s.mem ∧ (u.array j).plane = ar.plane) ∧
      (x.hi ≤ s.now → y.hi ≤ s.now → w.hi ≤ s.now → ar.plane.hi ≤ s.now → p.lines.length = 256 → q.lines.length = 256 → square w.new →
      (∀ l ∈ p.lines ++ q.lines, l.length = p.kpass) →
      let f := if s.cur.mpos.getLsbD 63 ∧ (s.dp j).resuming = true then (s.cur.mpos.extractLsb' 0 12).toNat else 0
      let k := (getAt (u.array j).bank d.toNat emptyBank).new
      let el (z : Fill) (i t : Nat) : Int := (z.lines.getD i []).getD t 0
      let steps := (List.range p.kpass).filter fun t => decide (f ≤ t)
      let on (z : Int) : Int := if f = 0 then 0 else z
      (∀ i < 256, ∀ l < 256, cellOf k i l = on (cellOf w.new i l) + (steps.map fun t => (el p i t + el q l t) ^ 2).sum) ∧
      (∀ i < 256, k.hr.getD i 0 = on (w.new.hr.getD i 0) + (steps.map fun t => el p i t ^ 2).sum ∧
        k.hc.getD i 0 = on (w.new.hc.getD i 0) + (steps.map fun t => el q i t ^ 2).sum) ∧
      k.chk = on w.new.chk + (steps.map fun t => (((List.range 256).map fun i => el p i t + el q i t).sum) ^ 2).sum ∧ k.fa = p.fmt ∧ k.fb = q.fmt))) ∧
  (∀ (a : BitVec 1) w, idle 3 → getAt ar.bank a.toNat emptyBank = w →
    ∃ u, exec (.mhem a) s = .next u ∧ (ar.msa = none → u.mem = s.mem) ∧ (u.array j).bank = ar.bank ∧ (u.array j).plane.new.src = a.toNat ∧
      (u.array j).plane.lo = s.now + 6 ∧ (u.array j).plane.hi = s.now + 69 ∧
      (w.hi ≤ s.now → square w.new → let p := (u.array j).plane.new
       (∀ i < 256, ∀ k < 256, (p.elems.getD i []).getD k 0 = (cellOf w.new i k - w.new.hr.getD i 0 - w.new.hc.getD k 0) / 2) ∧
       p.plsum = ((List.range 256).map fun i => (p.elems.getD i []).sum).sum ∧ p.chkv = (w.new.chk - w.new.hsa - w.new.hsb) / 2 ∧
       p.fa = w.new.fa ∧ p.fb = w.new.fb)) ∧
  (∃ l, (l = ar.plane.new ∨ (s.now ≤ ar.plane.hi ∧ ar.plane.hi ≠ 0 ∧ l = ar.plane.old)) ∧
    (l.plsum = l.chkv → exec .mchk s = .next ((s.useFree 1).complete)) ∧
    (l.plsum ≠ l.chkv → ∃ u, exec .mchk s = .next u ∧ u.mem = s.mem ∧ ∃ t, (u.dp j).traps = (s.dp j).traps ++ [t] ∧ t.bank = b ∧ t.slot = s.bslot ∧
      t.cause.cause = 0x10 ∧ t.cause.tval = s.cur.pc.toNat ∧ t.tinfo = l.src % 2 ^ 64 ∧ (s.bslot = 0 → t.pc = (s.cur.advance 16#48).pc))) ∧
  (∀ (d a c : BitVec 1), (s.now < getAt (s.dp j).busy 2 0 → exec (.msq d a c) s = .next (s.trap 0x09 0#64 (4096 + 2048 + 512 + 2))) ∧
    (s.now < getAt (s.dp j).busy 3 0 → exec (.mhem a) s = .next (s.trap 0x09 0#64 (4096 + 2048 + 512 + 3))))

/-- The matrix operations on an accumulator tile and on records: MSA adds the scaled plane into the tile; MZERO clears it and MSWAP exchanges
two; MST and MLD move it row by row with one rounding; MSPEC counts the special or zero lines; MRDV and MWRV move half a row. Each changes no
byte but its own tile's or its rows' in the scratchpad, and completes whatever windows of R217 are open; the values are stated where the tile's
windows are closed. A busy engine traps 0x09, a base or pitch off 64 bytes 0x07, rows outside the scratchpad 0x05; poison that is read parks or
traps. -/
def Obligations.ArrayTiles : Prop := ∀ (s : State) (j b : Nat), s.focus = .bank j b → Memory.wf s.mem = true →
  let idle : Prop := getAt (s.dp j).busy 4 0 ≤ s.now
  let busy (i : Instr) : Prop := s.now < getAt (s.dp j).busy 4 0 → exec i s = .next (s.trap 0x09 0#64 (4096 + 2048 + 512 + 4))
  let shut (t : BitVec 2) : Prop := ∀ w ∈ getAt (s.array j).acc t.toNat [], w.hi ≤ s.now
  let cell (u : State) (t : BitVec 2) (i k : Nat) : Nat := cellsElem (u.accCells j t.toNat) i k
  let kept (u : State) (d a : BitVec 2) : Prop := ∀ x, (∀ t : BitVec 2, t = d ∨ t = a → x < s.accAddr j t.toNat ∨ s.accAddr j t.toNat + 0x40000 ≤ x) →
    memGet u.mem x = memGet s.mem x
  (∀ (d : BitVec 2) a c, busy (.msa d a c) ∧ (idle → ∃ u, exec (.msa d a c) s = .next u ∧ kept u d d ∧
    (shut d → (s.array j).plane.hi ≤ s.now + 63 → ∀ i < 256, ∀ k < 256,
    let er := (s.records a).getD i 0
    let ec := (s.records c).getD k 0
    let p := ((s.array j).plane.new.elems.getD i []).getD k 0
    (recSp er = true ∨ recSp ec = true → cell u d i k = fmtF32.nanCode) ∧
    (recSp er = false → recSp ec = false → (p = 0 → cell u d i k = cell s d i k) ∧
      (p ≠ 0 → cell u d i k = (accumulate (cell s d i k) p (recExp er + recExp ec)).code % 2 ^ 32))))) ∧
  (∀ d, busy (.mzero d) ∧ (idle → ∃ u, exec (.mzero d) s = .next u ∧ kept u d d ∧ u.poisoned (s.accAddr j d.toNat) 0x40000 = false ∧
    (shut d → ∀ i < 256, ∀ k < 256, cell u d i k = 0))) ∧
  (∀ d a, busy (.mswap d a) ∧ (idle → ∃ u, exec (.mswap d a) s = .next u ∧ kept u d a ∧ ∀ i < 256, ∀ k < 256, cell u d i k = cell s a i k ∧
    cell u a i k = cell s d i k)) ∧
  (∀ d a c r f, busy (.mst d a c r f) ∧ busy (.mld d a c f) ∧ ∀ s1 s2, let eb := (storeFmt f).width / 8
    let at' (i : Nat) := s.ownAddr s.focus ((s.x a).toNat + i * (s.x c).toNat)
    s.startEngine 4 64 = .ok s1 → s1.useBanks j ((List.range 256).flatMap fun i => (List.range (256 * eb / 64)).map fun g =>
      (4 + i / 4, (s.x a).toNat + i * (s.x c).toNat + 64 * g)) = .ok s2 →
    ((s.x a).toNat % 64 ≠ 0 → exec (.mst d a c r f) s = .next (s.trap 0x07 (s.x a) a.toNat) ∧
      exec (.mld d a c f) s = .next (s.trap 0x07 (s.x a) a.toNat)) ∧
    ((s.x a).toNat % 64 = 0 → (s.x c).toNat % 64 ≠ 0 → exec (.mst d a c r f) s = .next (s.trap 0x07 (s.x c) c.toNat) ∧
      exec (.mld d a c f) s = .next (s.trap 0x07 (s.x c) c.toNat)) ∧
    ((s.x a).toNat % 64 = 0 → (s.x c).toNat % 64 = 0 → 0x200000 < (s.x a).toNat + 255 * (s.x c).toNat + 256 * eb →
      exec (.mst d a c r f) s = .next (s.trap 0x05 (s.x a) a.toNat) ∧ exec (.mld d a c f) s = .next (s.trap 0x05 (s.x a) a.toNat)) ∧
    ((s.x a).toNat % 64 = 0 → (s.x c).toNat % 64 = 0 → (s.x a).toNat + 255 * (s.x c).toNat + 256 * eb ≤ 0x200000 →
      (s.poisoned (s.accAddr j d.toNat) 0x40000 = true → exec (.mst d a c r f) s = .next (s.consumePoison s.focus)) ∧
      ((∃ i < 256, s.poisoned (at' i) (256 * eb) = true) → exec (.mld d a c f) s = .next (s.consumePoison s.focus)) ∧
      (s.poisoned (s.accAddr j d.toNat) 0x40000 = false → ∃ u, exec (.mst d a c r f) s = .next u ∧
        (∀ x, (∀ i < 256, x < at' i ∨ at' i + 256 * eb ≤ x) → memGet u.mem x = memGet s.mem x) ∧
        (shut d → 256 * eb ≤ (s.x c).toNat → ∀ i < 256, ∀ k < 256, u.readNat (at' i + k * eb) eb =
          (roundVal (storeFmt f) r.toNat (s.laneBits (256 * i + k)) (fmtF32.decode (cell s d i k))).code % 2 ^ (8 * eb))) ∧
      ((∀ i < 256, s.poisoned (at' i) (256 * eb) = false) → ∃ u, exec (.mld d a c f) s = .next u ∧ kept u d d ∧ (shut d → ∀ i < 256, ∀ k < 256,
        cell u d i k = (roundVal fmtF32 0 0 ((storeFmt f).decode (s.readNat (at' i + k * eb) eb))).code % 2 ^ 32)))) ∧
  (∀ d a z, let hits := (List.range 256).filter fun l => if z = 1#1 then recZ ((s.records a).getD l 0) else recSp ((s.records a).getD l 0)
    exec (.mspec d a z) s = .next (s.result 2 d (BitVec.ofNat 64 (hits.length + (hits.head?.getD 256) * 65536)))) ∧
  (∀ d t a h, busy (.mrdv d t a h) ∧ (idle → (256 ≤ (s.x a).toNat → exec (.mrdv d t a h) s = .next (s.laneTrap (s.x a))) ∧
    ((s.x a).toNat < 256 → ∃ u v f, exec (.mrdv d t a h) s = .next u ∧ u.mem = s.mem ∧
      (u.dp j).flights = (s.dp j).flights ++ [⟨b, .v d, v, BitVec.allOnes 4096, s.now, 4, f⟩] ∧
      (shut t → ∀ l < 128, laneOf v 32 l = cell s t (s.x a).toNat (128 * h.toNat + l))))) ∧
  (∀ t a c p h, busy (.mwrv t a c p h) ∧ (idle → (256 ≤ (s.x c).toNat → exec (.mwrv t a c p h) s = .next (s.laneTrap (s.x c))) ∧
    ((s.x c).toNat < 256 → ∃ u, exec (.mwrv t a c p h) s = .next u ∧ kept u t t ∧ (shut t → ∀ i < 256, ∀ k < 256,
      cell u t i k = if i = (s.x c).toNat ∧ k / 128 = h.toNat then
          (if p = 1#1 then ((addVal 0 (fmtF32.decode (cell s t i k)) (fmtF32.decode (laneAt s a 32 (k % 128)))).round fmtF32 0 0).code % 2 ^ 32
           else laneAt s a 32 (k % 128))
        else cell s t i k))))

/-! ### Dense tiles in groups and their bank switch (R178, R179, R204, R345, R365 to R369) -/

/-- VCSYN met by its group, or alone in it, completes; one that a member has passed is illegal; else, or while the tile's own accesses are on
their way, the tile is held. VCGRP without the tile's own bit answers 1, for a member that leaves to another launch's tile 2, and 0 when every
member has asked for the group, which then counts from 0, or has been taken in; else the tile waits. A bank switch takes a standby context where
the group has no active bank left, pre-empts the group for a context that wins, reloads expired slices otherwise, and leaves a suspended key
alone. A trap drain does nothing without a trap due, waits for the group's accesses, and then enters the traps. -/
def Obligations.DenseGroups : Prop := ∀ (s : State) (j b : Nat), s.focus = .bank j b →
  let p := s.dp j
  let passed (i : Nat) : Prop := i ∈ s.groupOf j ∧ i ≠ j ∧ (s.dp i).sync ≠ 1 ∧ (p.vcc < (s.dp i).vcc ∨ (s.dp i).again ≠ [])
  let alone : Prop := ∀ i ∈ s.groupOf j, i = j
  let away : Prop := (p.lates.any fun l => l.bank = b) = true ∨ (¬alone ∧ (s.cur.posted = true ∨ s.cur.wbacks ≠ 0))
  (p.sync = 2 → exec .vcsyn s = .next ((s.setDp j { p with sync := 0 }).complete)) ∧
  (p.sync ≠ 2 → (∃ i, passed i) → exec .vcsyn s = .next ((s.setDp j { p with sync := 0 }).illegal (wordOf .vcsyn) 0x0B)) ∧
  (p.sync ≠ 2 → (∀ i, ¬passed i) → away → exec .vcsyn s = .next s.again) ∧
  (p.sync ≠ 2 → (∀ i, ¬passed i) → ¬away → (∀ i ∈ s.groupOf j, i ≠ j → (s.dp i).sync = 1) → ∃ u, exec .vcsyn s = .next u ∧ (u.dp j).sync = 0 ∧
    (∀ i ∈ s.groupOf j, i ≠ j → (u.dp i).sync = 2) ∧ u.cur = s.complete.cur ∧ u.mem = s.mem) ∧
  (p.sync ≠ 2 → (∀ i, ¬passed i) → ¬away → (∃ i ∈ s.groupOf j, i ≠ j ∧ (s.dp i).sync ≠ 1) →
    ∃ u, exec .vcsyn s = .next u ∧ (u.dp j).sync = 1 ∧ u.cur = { s.cur with wait := .again } ∧ u.mem = s.mem) ∧
  (∀ d a, let m := (s.x a).setWidth 32
    let own : Prop := m.getLsbD (j % 32) = true ∧ (s.x a).toNat < 2 ^ 32
    let asks (i : Nat) : Prop := (s.dp i).wantGroup = some m
    let other (i : Nat) : Prop := s.runsLaunch i (s.task s.focus).tag = false ∨ (i ≠ j ∧ ∃ w, (s.dp i).wantGroup = some w ∧ w ≠ m)
    (p.sync = 3 → exec (.vcgrp d a) s = .next ((s.setDp j { p with sync := 0 }).result 1 d 0#64)) ∧
    (p.sync ≠ 3 → ¬own → exec (.vcgrp d a) s = .next (s.result 1 d 1#64)) ∧
    (p.sync ≠ 3 → own → (∃ i ∈ tilesOf j m, other i) → exec (.vcgrp d a) s = .next ((s.setDp j { p with wantGroup := none }).result 1 d 2#64)) ∧
    (p.sync ≠ 3 → own → (∀ i ∈ tilesOf j m, ¬other i) → (∀ i ∈ tilesOf j m, i = j ∨ asks i) → exec (.vcgrp d a) s = .next ((s.formGroup j m).result 1 d 0#64) ∧
      ∀ i ∈ tilesOf j m, let q := (s.formGroup j m).dp i
        q.members = m ∧ q.vcc = 0 ∧ q.wantGroup = none ∧ q.sync = if i = j then 0 else 3) ∧
    (p.sync ≠ 3 → own → (∀ i ∈ tilesOf j m, ¬other i) → (∃ i ∈ tilesOf j m, i ≠ j ∧ ¬asks i) →
      exec (.vcgrp d a) s = .next ((s.setDp j { p with wantGroup := some m }).again))) ∧
  (∀ t, let js := s.groupOf t
    let due : Prop := ∃ i ∈ js, ∃ e ∈ (s.dp i).traps, e.bank = (s.dp i).active ∧ s.ripe e i = true
    (s.gang.suspended.contains (s.dp t).key = true ∨ ¬due → exec (.trapDrain t) s = .next s) ∧
    (s.gang.suspended.contains (s.dp t).key = false → due → s.groupQuiet t = false → exec (.trapDrain t) s = .next (s.pushOnce (.trapDrain t))) ∧
    (s.gang.suspended.contains (s.dp t).key = false → due → s.groupQuiet t = true → ∃ u, exec (.trapDrain t) s = .next u ∧ (∀ i ∈ js, (u.dp i).sync = 0) ∧
      ∀ e k h l, js = [t] → (s.dp t).traps = [e] → e.batch = none → (s.dp t).flights = [] → (s.array t).msq = none → s.bankInfo t (1 - (s.dp t).active) = none →
        s.bankInfo t (s.dp t).active = some k → k.resume = false → (s.dp t).again = [] → (s.dp t).active < 2 →
        s.route (.bank t (s.dp t).active) e.cause.cause = some (h, l) → let c := s.ctx (.bank t (s.dp t).active)
        let c1 := u.ctx (.bank t (s.dp t).active)
        (u.dp t).active = (s.dp t).active ∧ (u.dp t).hold = some ((s.dp t).hold.getD (s.dp t).vcc) ∧ c1.pc = h ∧ c1.sup = l ∧ c1.epc = c.pc.setWidth 64 ∧
        c1.eres = 0#64 ∧ c1.tval = BitVec.ofNat 64 e.cause.tval ∧ c1.tinfo = BitVec.ofNat 64 e.tinfo ∧ c1.cause.getLsbD 9 = true)) ∧
  (∀ t, let r := s.reload t
    let js := r.groupOf t
    let done (u : State) : Prop := exec (.denseBankSwitch t) s = .next u
    let q := r.dp t
    let stays : Prop := r.gang.suspended.contains q.key = false ∧ q.sync ≠ 4
    let wins : Prop := r.standbyWins t = true ∧ ∀ i ∈ js, r.hasStandby i = true
    let ready : Prop := r.groupQuiet t = true ∧ ∀ i ∈ js, r.bankReleased i (r.dp i).active = true
    (r.gang.suspended.contains q.key = true → done r) ∧
    (r.gang.suspended.contains q.key = false → q.sync = 4 → if r.groupQuiet t = true then done (r.preemptGroup js) else done (r.push (.denseBankSwitch t))) ∧
    (stays → (r.bankInfo t q.active).isNone = true → r.hasStandby t = false → done r.retryBinds) ∧
    (stays → (r.bankInfo t q.active).isNone = true → r.hasStandby t = true → (∃ i ∈ js, (r.bankInfo i (r.dp i).active).isSome = true) → done r) ∧
    (stays → (r.bankInfo t q.active).isNone = true → r.hasStandby t = true → (∀ i ∈ js, (r.bankInfo i (r.dp i).active).isNone = true) →
      ∃ u, done u ∧ ∀ i ∈ js, (u.dp i).active = if r.hasStandby i = true then 1 - (r.dp i).active else (r.dp i).active) ∧
    (stays → (r.bankInfo t q.active).isSome = true → wins → ready → done (r.preemptGroup js) ∧ ∀ i ∈ js, ((r.preemptGroup js).dp i).active = 1 - (r.dp i).active) ∧
    (stays → (r.bankInfo t q.active).isSome = true → wins → ¬ready → done (r.push (.denseBankSwitch t))) ∧
    (stays → (r.bankInfo t q.active).isSome = true → ¬wins → done (r.reloadSlices js)))

/-! ### Asynchronous copies (R141 to R155, R328 to R331) -/

/-- The thirteen copy instructions issue alike (R147, R328): a descriptor off 128 bytes or outside the scratchpad traps 0x0A with detail 1, a
reserved field detail 2, CPMG without the supervisor level 0x03, the 65,537th command of a batch detail 3; poison in it and a failed check end
it; stores that are on their way and a full queue hold it. Else it completes: the destination takes batch and index, nothing is moved yet, and
the command enters the core's queue with the descriptor, the next index of the open batch and the priority of cbko, unless the batch has failed
or been cancelled. -/
def Obligations.CopyIssue : Prop := ∀ (s : State) (c t : Nat) (p : Nat × (BitVec 5 → BitVec 5 → BitVec 14 → Instr)) (d a : BitVec 5) (k : BitVec 14),
  s.focus = .thread c t → c < 512 → t < 16 → p ∈ [(0xA0, Instr.cpl), (0xA1, Instr.cps), (0xA2, Instr.cpg), (0xA3, Instr.cpx), (0xA4, Instr.cpbc), (0xA5, Instr.cpmc), (0xA6, Instr.cpqt),
    (0xA7, Instr.cpfl), (0xA8, Instr.cpof), (0xA9, Instr.cpin), (0xB0, Instr.cpck), (0xB1, Instr.cpmg), (0xB2, Instr.cpvl)] →
  let i := p.2 d a k
  let ofs := s.x a + BitVec.ofNat 64 (k.toNat * 128)
  let pa := s.ownAddr s.focus ofs.toNat
  let desc := BitVec.ofNat 1024 (s.readNat pa 128)
  (ofs.toNat % 128 ≠ 0 ∨ s.padBytes < ofs.toNat + 128 → exec i s = .next (s.trap 0x0A ofs 0x01)) ∧
  (ofs.toNat % 128 = 0 → ofs.toNat + 128 ≤ s.padBytes → s.poisoned pa 128 = false →
    (descReserved p.1 desc = true → exec i s = .next (s.trap 0x0A ofs 0x02)) ∧
    (descReserved p.1 desc = false → p.1 = 0xB1 → s.cur.sup = false → exec i s = .next (s.trap 0x03 ((wordOf i).setWidth 64) 0)) ∧
    (∀ u, s.copyChecks p.1 ofs desc (wordOf i) = some u → exec i s = .next u) ∧
    (s.copyChecks p.1 ofs desc (wordOf i) = none → (65536 ≤ s.cur.ncmd → exec i s = .next (s.trap 0x0A ofs 0x03)) ∧
      (∀ s1, s.cur.ncmd < 65536 → s.releaseFor s.focus true false = (false, s1) → exec i s = .next s1.again) ∧
      ∀ s1, s.cur.ncmd < 65536 → s.releaseFor s.focus true false = (true, s1) → s1.focus = s.focus →
      (16 ≤ (s1.copies c).length → exec i s = .next s1.again) ∧
      ((s1.copies c).length < 16 → let r := s1.needBatch s1.focus
        ∃ b u, r.batch r.focus r.cur.openBatch = some b ∧ b.isSealed = false ∧ exec i s = .next u ∧ u.cur.ncmd = s1.cur.ncmd + 1 ∧
          u.x d = (if d = 0#5 then 0#64 else BitVec.ofNat 64 (s1.cur.openBatch * 65536 + s1.cur.ncmd)) ∧
          (∀ r, r ≠ d → u.x r = s1.x r) ∧ u.mem = s1.mem ∧ u.cur.pc = (s1.cur.advance 4#48).pc ∧
          (b.state = 3 ∨ b.state = 5 → u.copies c = s1.copies c) ∧
          (b.state ≠ 3 → b.state ≠ 5 → ∃ cmd b', u.copies c = s1.copies c ++ [cmd] ∧ cmd.top = p.1 ∧ cmd.desc = desc ∧ cmd.who = s.focus ∧
            cmd.key = s1.curKey ∧ cmd.batch = s1.cur.openBatch ∧ cmd.index = s1.cur.ncmd ∧ cmd.prio = (s1.cur.cbko.extractLsb' 2 2).toNat ∧ cmd.pos = 0 ∧
            cmd.started = false ∧ cmd.edge = r.delegate p.1 desc ∧ u.batch u.focus s1.cur.openBatch = some b' ∧ b'.left = b.left + 1 ∧ b'.state = b.state)))) ∧
  (ofs.toNat % 128 = 0 → ofs.toNat + 128 ≤ s.padBytes → s.poisoned pa 128 = true → exec i s = .next (s.consumePoison s.focus))

/-- The engines' steps (R142, R143, R148, R149, R152): a beat of a linear copy within the module's scratchpads moves at most up to the next 256
destination bytes and 4,096 source bytes, and no other byte; an idle engine does nothing; a stopped command fails its batch with 0x04; a
command's end takes it from the queue and its batch, or fails the batch where a part of it was refused, CPCK storing the complemented CRC; an
edge engine with room takes a delegated command over, and a full one leaves it to a retry or fails the batch; aging raises a command one level. -/
def Obligations.CopySteps : Prop := ∀ (s : State) (e : Nat),
  (s.stopped e = none → s.nextCopy e = none → exec (.copyBeat e) s = .next s) ∧
  (∀ c, s.stopped e = some c → exec (.copyBeat e) s = .next ((match c.fault with
    | none => s.failCopy e c 0x04 0
    | some (x, v) => s.failCopy e c x v).push (.copyBeat e))) ∧
  (∀ c, s.stopped e = none → s.nextCopy e = some c →
    ∃ u, u = s.stepCopy e c ∧ exec (.copyBeat e) s = .next (if (u.nextCopy e).isSome = true then u.pushOnce (.copyBeat e) else u)) ∧
  (∀ c, s.stopped e = none → s.nextCopy e = some c → c.top = 0xA0 → c.got = [] → c.puts = 0 → descSv c.desc = false → descDv c.desc = false →
    descMv c.desc = false → Memory.wf s.mem = true →
    let sr := descWord c.desc 1 + c.pos
    let dr := descWord c.desc 2 + c.pos
    let sa := hBase (c.handles.getD 0 0#128) + sr
    let da := hBase (c.handles.getD 1 0#128) + dr
    let n := min (min (copyTotal 0xA0 c.desc - c.pos) (256 - da % 256)) (4096 - sa % 4096)
    let core := coreNumber s.module (agentCore c.who)
    let r := c.request e core .load sa n []
    let w (bs : List Byte) := c.request e core .store da n bs
    sr + n ≤ hLimit (c.handles.getD 0 0#128) + 1 → dr + n ≤ hLimit (c.handles.getD 1 0#128) + 1 → moduleOf sa = s.module → moduleOf da = s.module →
    spaceOf sa = 4 → spaceOf da = 4 → s.windowRefusal r = none → (∀ bs, bs.length = n → s.windowRefusal (w bs) = none) →
    offsetOf sa % 0x400000 + n ≤ 0x200000 → offsetOf da % 0x400000 + n ≤ 0x200000 → s.poisoned sa n = false →
    ∃ u, exec (.copyBeat e) s = .next u ∧ (∀ i < n, memGet u.mem (da + i) = memGet s.mem (sa + i)) ∧ s.bytesKept u da n ∧ 0 < n ∧
      ∃ c' ∈ u.copies e, c'.id = c.id ∧ c'.pos = c.pos + n ∧ c'.got = [] ∧ c'.puts = 0) ∧
  (∀ c id, (s.copies e).filter (fun x => x.id = id) = [c] → c.fault = none → c.top ≠ 0xB0 →
    ∃ u, exec (.copyCommandComplete e id) s = .next u ∧ u.copies e = (s.copies e).filter (fun x => x.id ≠ id) ∧ u.mem = s.mem ∧
      ∀ b, s.batchOf c = some b → ∃ b', u.batchOf c = some b' ∧ b'.left = b.left - 1 ∧ b'.state = (if b.state = 1 ∧ b.left ≤ 1 then 2 else b.state)) ∧
  (∀ c id, (s.copies e).filter (fun x => x.id = id) = [c] → c.fault = none → c.top = 0xB0 → Memory.wf s.mem = true →
    let pa := windowAddr s.module (agentCore c.who) (geo c.desc 1)
    let word := canon (hBase (c.handles.getD 2 0#128) + descWord c.desc 3)
    ∃ u, exec (.copyCommandComplete e id) s = .next u ∧ u.copies e = (s.copies e).filter (fun x => x.id ≠ id) ∧
      u.readNat pa 4 = (~~~c.crc).toNat ∧ s.bytesKept u pa 4 ∧
      (descMv c.desc = true → moduleOf word = s.module → .milestoneContribution word 4 ∈ u.agenda)) ∧
  (∀ c id x v, (s.copies e).filter (fun x => x.id = id) = [c] → c.fault = some (x, v) → c.top ≠ 0xB0 →
    exec (.copyCommandComplete e id) s = .next (s.failCopy e c x v)) ∧
  (∀ id, (s.copies e).find? (fun x => x.id = id) = none → exec (.copyCommandComplete e id) s = .next s) ∧
  (∀ u id hint, (s.copies (engineNo u)).find? (fun x => x.id = id) = none →
    exec (.edgeAccept u id) s = .next s ∧ exec (.edgeRetry u id) s = .next s ∧ exec (.edgeRefusal u id hint) s = .next s) ∧
  (∀ u c id, (s.copies (engineNo u)).find? (fun x => x.id = id) = some c →
    (c.edge = none → exec (.edgeAccept u id) s = .next s ∧ exec (.edgeRetry u id) s = .next s) ∧
    (c.edge.isSome = true → s.gang.suspended.contains c.key = true →
      exec (.edgeAccept u id) s = .next (s.push (.edgeAccept u id)) ∧ exec (.edgeRetry u id) s = .next (s.push (.edgeAccept u id)))) ∧
  (∀ u c g id, (s.copies (engineNo u)).find? (fun x => x.id = id) = some c → c.edge = some g → s.gang.suspended.contains c.key = false → g ≠ engineNo u → 576 ≤ g →
    ((s.copies g).length < 64 → ∃ t, exec (.edgeAccept u id) s = .next t ∧ exec (.edgeRetry u id) s = .next t ∧ t.copies g = s.copies g ++ [{ c with retryAt := none }] ∧
      t.copies (engineNo u) = (s.copies (engineNo u)).filter (fun x => x.id ≠ id) ∧ t.mem = s.mem ∧ .copyBeat g ∈ t.agenda) ∧
    (64 ≤ (s.copies g).length → ∃ hint t, 16 ≤ hint ∧ t = { s with free := s.free + 1 } ∧ exec (.edgeAccept u id) s = exec (.edgeRefusal u id hint) t ∧
      exec (.edgeRetry u id) s = exec (.edgeRefusal u id hint) t)) ∧
  (∀ u c id hint, (s.copies (engineNo u)).find? (fun x => x.id = id) = some c → let lim := (c.policy.extractLsb' 8 8).toNat
    (lim ≠ 0 → lim ≤ c.tries → exec (.edgeRefusal u id hint) s = .next (s.failCopy (engineNo u) c 0x05 0)) ∧
    (lim = 0 ∨ c.tries < lim → ∃ t, exec (.edgeRefusal u id hint) s = .next t ∧ t.agenda = s.agenda ∧ t.mem = s.mem ∧
      t.copies (engineNo u) = (s.copies (engineNo u)).map (fun x =>
        if x.id = id then { x with tries := x.tries + 1, retryAt := some (s.cycle + memoryCycles (backOff c.policy hint c.tries)) } else x))) ∧
  (∀ id, ∃ t, exec (.copyPriorityAging e id) s = .next t ∧ t.mem = s.mem ∧ t.agenda = s.agenda ∧
    t.copies e = (s.copies e).map (fun x => if x.id = id then { x with prio := x.prio - 1, since := s.cycle } else x))

/-- The batch instructions of a thread (R149, R150, R153, R330, R331): CSEAL closes the open batch and opens the next; CWAIT passes at the count
given and holds above it; CWAIT of a token and CSTAT give the status word, an expired batch reading 6; CCAN cancels one batch, or all and the
open one, and completes once no command of theirs is left in a beat; CTOK names a sealed batch; CPRI and CBKO set cbko, a reserved value being
illegal. -/
def Obligations.CopyBatches : Prop := ∀ (s : State) (c t : Nat), s.focus = .thread c t →
  (∀ d, let counts : Prop := ∃ b, s.batch s.focus s.cur.openBatch = some b ∧ b.isSealed = false ∧ b.sealUp.finished = false
    let r := s.needBatch s.focus
    (counts → 32 ≤ (s.unfinished s.focus).length → exec (.cseal d) s = .next s.again) ∧
    (¬counts ∨ (s.unfinished s.focus).length < 32 → ∃ (b b' : Batch) (u : State), r.batch r.focus s.cur.openBatch = some b ∧ exec (.cseal d) s = .next u ∧
      u.cur.openBatch = (s.cur.openBatch + 1) % 65536 ∧ u.cur.ncmd = 0 ∧ u.x d = (if d = 0#5 then 0#64 else BitVec.ofNat 64 s.cur.openBatch) ∧
      u.mem = s.mem ∧ (∀ r, r ≠ d → u.x r = s.x r) ∧ u.cur.v = s.cur.v ∧ u.cur.pc = (s.cur.advance 4#48).pc ∧
      u.batch u.focus s.cur.openBatch = some b' ∧ b'.isSealed = true ∧ b'.left = b.left ∧ (b.state = 0 → b'.state = if b.left = 0 then 2 else 1))) ∧
  (∀ n s1, s.resumeBatches s.focus (fun b => b.isSealed) = s1 → s1.focus = s.focus →
    ((s1.unfinished s1.focus).length ≤ n.toNat → exec (.cwait n) s = .next (s1.acquireL1 c).complete) ∧
    (n.toNat < (s1.unfinished s1.focus).length → s1.sealedReport s1.focus = none → exec (.cwait n) s = .next s1.again) ∧
    (n.toNat < (s1.unfinished s1.focus).length → ∀ b, s1.sealedReport s1.focus = some b → exec (.cwait n) s = .next ((s1.markReported s1.focus b.number).raise b.trap))) ∧
  (∀ d a, (∀ x i, s.tokenBatch (s.x a) = .error (x, i) → exec (.cwaitTok d a) s = .next (s.trap x (s.x a) i) ∧ exec (.cstat d a 1#1) s = .next (s.trap x (s.x a) i)) ∧
    (s.tokenBatch (s.x a) = .ok none → exec (.cwaitTok d a) s = .next ((s.acquireL1 c).result 1 d 6#64) ∧ exec (.cstat d a 1#1) s = .next (s.result 1 d 6#64)) ∧
    (∀ b, s.tokenBatch (s.x a) = .ok (some b) → exec (.cstat d a 1#1) s = .next (s.result 1 d (BitVec.ofNat 64 b.word)) ∧
      (b.state = 2 ∨ b.state = 5 ∨ (b.state = 3 ∧ b.left = 0) → exec (.cwaitTok d a) s = .next ((s.acquireL1 c).result 1 d (BitVec.ofNat 64 b.word))) ∧
      (b.state ≠ 2 → b.state ≠ 5 → b.state ≠ 3 ∨ b.left ≠ 0 → exec (.cwaitTok d a) s = .next s.again)) ∧
    (∀ b, s.batch s.focus ((s.x a).toNat % 65536) = some b → exec (.cstat d a 0#1) s = .next (s.result 1 d (BitVec.ofNat 64 b.word))) ∧
    (s.batch s.focus ((s.x a).toNat % 65536) = none → exec (.cstat d a 0#1) s = .next (s.result 1 d (if (s.x a).toNat % 65536 = s.cur.openBatch then 0#64 else 6#64)))) ∧
  (∀ a, let n := (s.x a).toNat % 65536
    let ends (u : State) (i : Instr) : Prop := u.focus = s.focus → exec i s = .next (if u.stillStopping s.focus = true then u.awaitStep 0xAD else u.complete)
    ((s.unfinished s.focus).contains n = true → ends (s.cancelBatch s.focus n) (.ccan a 0#1) ∧
      ∃ b, (s.cancelBatch s.focus n).batch s.focus n = some b ∧ b.state = 5) ∧
    ((s.unfinished s.focus).contains n = false → ends s (.ccan a 0#1)) ∧
    ∃ u, (u = let t := (s.unfinished s.focus).foldl (fun x m => x.cancelBatch s.focus m) s
        ((t.needBatch s.focus).cancelBatch s.focus (t.ctx s.focus).openBatch).sealOpen s.focus fun b => { b with isSealed := true }) ∧
      u.mem = s.mem ∧ u.cur.ncmd = 0 ∧ ends u (.ccan a 1#1)) ∧
  (∀ d a, let n := (s.x a).toNat % 65536
    (∀ b, s.batch s.focus n = some b → b.isSealed = true → ∃ w, exec (.ctok d a) s = .next (s.result 1 d w) ∧
      (tokenOf w = some (.thread (match agentCore (holderAgent s.cur.holder) with
        | .lc i => i
        | .dt _ => 0) (agentSlot (holderAgent s.cur.holder) % 16), n) ∨ isTile (agentCore (holderAgent s.cur.holder)) = true)) ∧
    ((∀ b, s.batch s.focus n = some b → b.isSealed = false) → exec (.ctok d a) s = .next (s.trap 0x0A (s.x a) 0x02))) ∧
  (∀ p, ∃ u, exec (.cpri p) s = .next u ∧ u = s.setCur u.cur ∧ u.cur.cbko.extractLsb' 2 2 = p ∧ u.cur.cbko.extractLsb' 4 60 = s.cur.cbko.extractLsb' 4 60 ∧
    u.cur.cbko.extractLsb' 0 2 = s.cur.cbko.extractLsb' 0 2 ∧ u.cur.pc = (s.cur.advance 4#48).pc ∧ u.cur.x = s.cur.x) ∧
  (∀ d a, (cbkoOk (s.x a) = false → exec (.cbko d a) s = .next (s.illegal (wordOf (.cbko d a)) 0x09)) ∧
    (cbkoOk (s.x a) = true → ∃ u, exec (.cbko d a) s = .next u ∧ u = s.setCur u.cur ∧ u.cur.cbko.extractLsb' 2 2 = s.cur.cbko.extractLsb' 2 2 ∧
      u.cur.cbko.extractLsb' 4 60 = (s.x a).extractLsb' 4 60 ∧ u.cur.cbko.extractLsb' 0 2 = (s.x a).extractLsb' 0 2 ∧
      u.x d = (if d = 0#5 then 0#64 else s.cur.cbko) ∧ (∀ r, r ≠ d → u.x r = s.x r) ∧ u.cur.pc = (s.cur.advance 4#48).pc))

/-! ### Partition keys and gang switches (R347, R377 to R394) -/

/-- The partition keys (R347, R380): GKEY.add and the port's ADM admit the key at every allow list and create its set, unless 64 sets are there
and none is the key's: then GKEY writes 1 and the port sets ER; NEW creates a set at reset and admits nothing. GKEY.rm and a removal message end
the key's admission here, and GKEY.rm answers at how many modules the key was held once every module has done so. The bits of a GKEY operand
above the key are illegal. -/
def Obligations.PartitionKeys : Prop := ∀ (s : State),
  (∀ d a, 65536 ≤ (s.x a).toNat → exec (.gkeyAdd d a) s = .next (s.illegal (wordOf (.gkeyAdd d a)) 0x09) ∧
    exec (.gkeyRm d a) s = .next (s.illegal (wordOf (.gkeyRm d a)) 0x09)) ∧
  (∀ c t d a, s.focus = .thread c t → (s.x a).toNat < 65536 → let k := (s.x a).toNat
    ((findAt s.parts k).isSome = true ∨ s.parts.length < 64 → ∃ u, exec (.gkeyAdd d a) s = .next u ∧ (u.part k).admitted = true ∧ (findAt u.parts k).isSome = true ∧
      (∀ i < 16, k ∈ (getAt u.fabric.ports i Port.reset).allow) ∧ (∀ j, j ≠ k → u.part j = s.part j) ∧ u.mem = s.mem ∧
      u.x d = 0#64 ∧ (∀ r, r ≠ d → u.x r = s.x r) ∧ u.cur.pc = (s.cur.advance 4#48).pc) ∧
    (findAt s.parts k = none → 64 ≤ s.parts.length → exec (.gkeyAdd d a) s = .next (s.result 1 d 1#64))) ∧
  (∀ c t d a, s.focus = .thread c t → (s.x a).toNat < 65536 → let k := (s.x a).toNat
    (∀ r ∈ s.gang.removals, r.key = k → s.module ∉ r.left) → (∀ w ∈ s.homes.waiting, w.2.key ≠ k) →
    ∃ u, exec (.gkeyRm d a) s = .next u ∧ (u.part k).admitted = false ∧ u.mem = s.mem ∧ (∀ r, r ≠ d → u.x r = s.x r) ∧
      (s.otherModules = [] → u.x d = (if s.holdsSet k ∧ d ≠ 0#5 then 1#64 else 0#64) ∧ (∀ i, k ∉ (getAt u.fabric.ports i Port.reset).allow) ∧
        u.cur.wait = .none ∧ u.cur.pc = (s.cur.advance 4#48).pc) ∧
      (s.otherModules ≠ [] → u.cur.wait = .completion 0xD2 ∧ ∃ r ∈ u.gang.removals, r.key = k ∧ r.left = s.otherModules ∧ r.count = bit (s.holdsSet k))) ∧
  (∀ k src, exec (.gkeyRemoveMessage k src) s = .next ((s.removeHere1 k).sendPacket src (coreNumber s.module (.lc 0)) k 0 0 0 0 0
      (.done .host 0xD2 [k, s.module, bit (s.holdsSet k)])) ∧
    ((∀ w ∈ s.homes.waiting, w.2.key ≠ k) → let u := s.removeHere1 k
      (u.part k).admitted = false ∧ u.mem = s.mem ∧ u.ctxs = s.ctxs ∧ (∀ i, k ∉ (getAt u.fabric.ports i Port.reset).allow) ∧
      ∀ j, j ≠ k → u.part j = s.part j)) ∧
  (let k := s.regs.psel.toNat
   ((findAt s.parts k).isSome = true ∨ s.parts.length < 64 → exec .partitionPortAdmit s = .next (s.admitHere k)) ∧
   ((findAt s.parts k).isSome = true → exec .partitionPortCreate s = .next s) ∧
   (findAt s.parts k = none → s.parts.length < 64 → exec .partitionPortCreate s = .next (s.setPart k PartSet.reset)) ∧
   (findAt s.parts k = none → 64 ≤ s.parts.length → ∃ u, exec .partitionPortAdmit s = .next u ∧ exec .partitionPortCreate s = .next u ∧
     u = { s with regs := u.regs } ∧ u.regs = { s.regs with pEr := true }))

/-- A gang switch step by step (R347, R381 to R391): GANG refuses other bits, its own key and a key under way, else starts a run and waits; the
port's commands set ER while one is under way; a module that fails a condition ends the run with its status and changes nothing else, else it
stops the key; the stop ends when nothing of the key is on its way, and a module with no ports swaps the planes at once; a marker and a lost link
are counted once; the incoming key goes on once its last captured packet is delivered and what it asked for is performed. -/
def Obligations.GangSwitch : Prop := ∀ (s : State),
  (∀ d a, let v := (s.x a).toNat
    let k := v % 65536
    (2 ^ 17 ≤ v → exec (.gang d a) s = .next (s.illegal (wordOf (.gang d a)) 0x09)) ∧
    (v < 2 ^ 17 → k = s.curKey → exec (.gang d a) s = .next (s.trap 0x15 0#64 0)) ∧
    (v < 2 ^ 17 → k ≠ s.curKey → (s.runOf k).isSome = true ∨ s.underWay k k = true → ∃ w, exec (.gang d a) s = .next (s.result 1 d w) ∧ w.extractLsb' 24 3 = 4#3 ∧
      w.extractLsb' 48 16 = BitVec.ofNat 16 k) ∧
    (∀ c t, s.focus = .thread c t → v < 2 ^ 17 → k ≠ s.curKey → s.runOf k = none → s.underWay k k = false → ∃ u r, exec (.gang d a) s = .next u ∧
      u.gang.runs = s.gang.runs ++ [r] ∧ r.out = k ∧ r.phase = 0 ∧ r.waiter = some s.focus ∧ r.slow = decide (2 ^ 16 ≤ v) ∧ r.origin = s.module ∧
      u.cur.wait = .completion 0xD1 ∧ u.mem = s.mem ∧ u.gang.suspended = s.gang.suspended ∧ .gangStartMessage k (decide (2 ^ 16 ≤ v)) ∈ u.agenda)) ∧
  (∀ k slow, (s.gangBusy = true → let e := { s with regs := { s.regs with gEr := true } }
      exec (.gangPortSwitch k slow) s = .next e ∧ exec (.gangPortPageOut k) s = .next e ∧ exec (.gangPortPageIn k) s = .next e) ∧
    (s.gangBusy = false → ∃ u r, exec (.gangPortSwitch k slow) s = .next u ∧ u.gang.runs = [r] ∧ r.out = k ∧ r.host = true ∧ r.waiter = none ∧ r.slow = slow ∧
      u.mem = s.mem ∧ .gangStartMessage k slow ∈ u.agenda)) ∧
  (∀ k slow, s.runOf k = none → exec (.gangStartMessage k slow) s = .next s) ∧
  (∀ k slow r, s.runOf k = some r → r.phase ≠ 0 → exec (.gangStartMessage k slow) s = .next s) ∧
  (∀ k slow r n, s.runOf k = some r → r.phase = 0 → (match s.incomingOf k with
      | .ok m => m
      | .error _ => none) = n →
    let busy : Prop := s.underWay k k = true ∨ ∃ m, n = some m ∧ (s.underWay k m = true ∨ (s.runOf m).isSome = true)
    let paged : Prop := s.pageOf1 k = true ∨ ∃ m, n = some m ∧ s.pageOf1 m = true
    let noArea : Prop := ((findAt s.parts k).isSome = true ∧ (s.part k).selbase = 0#64) ∨ ∃ m, n = some m ∧ (s.part m).selbase = 0#64
    let reports (st : Nat) : Prop := exec (.gangStartMessage k slow) s = .next ((s.mapRun k fun _ => { r with incoming := n }).reportRun { r with incoming := n } 0 st)
    (¬busy → paged → slow = true → exec (.gangStartMessage k slow) s = .next ((s.mapRun k fun x => { x with took := true }).push (.gangStartMessage k slow))) ∧
    (busy ∨ (paged ∧ slow = false) → reports 4) ∧
    (¬busy → ¬paged → (s.incomingOf k = .error () → reports 1) ∧ (s.incomingOf k = .ok n → (slow = false → s.gang.paging.isSome = true → reports 2) ∧
      (slow = true ∨ s.gang.paging = none → (noArea → reports 5) ∧ (¬noArea → reports 0))))) ∧
  (∀ k slow r, s.runOf k = some r → r.phase = 0 → r.origin = s.module → r.left = [s.module] → s.otherModules = [] → r.status = 0 →
    let fails (st : Nat) : Prop := ∃ u, exec (.gangStartMessage k slow) s = .next u ∧ u.runOf k = none ∧ u.regs.gangstat.extractLsb' 24 3 = BitVec.ofNat 3 st ∧
      u.mem = s.mem ∧ u.gang.suspended = s.gang.suspended ∧ u.gang.captured = s.gang.captured
    (s.underWay k k = true → fails 4) ∧
    (s.underWay k k = false → s.pageOf1 k = false → s.incomingOf k = .error () → fails 1) ∧
    (s.underWay k k = false → s.pageOf1 k = false → s.incomingOf k = .ok none → slow = false → s.gang.paging.isSome = true → fails 2) ∧
    (s.underWay k k = false → s.pageOf1 k = false → s.incomingOf k = .ok none → slow = true ∨ s.gang.paging = none →
      ((findAt s.parts k).isSome = true → (s.part k).selbase = 0#64 → fails 5) ∧
      ((findAt s.parts k).isSome = true → (s.part k).selbase ≠ 0#64 → ∃ u, exec (.gangStartMessage k slow) s = .next u ∧ k ∈ u.gang.suspended ∧
        .gangStopComplete k ∈ u.agenda))) ∧
  (∀ k, (s.stopping k = true → exec (.gangStopComplete k) s = .next (s.push (.gangStopComplete k))) ∧
    (s.stopping k = false → let up := (s.fabric.ports.filter fun e => e.2.state = .up || e.2.state = .training).map (·.1)
      let s1 := (s.mapRun k fun r => { r with start := s.timeNs, ports := up }).setPhase k 2
      exec (.gangStopComplete k) s = .next (((List.range 6).foldl (fun x vc => (List.range 16).foldl (fun y n => y.markPort k vc n) x) s1).sweepStep k)) ∧
    (∀ r c, s.stopping k = false → s.runOf k = some r → r.incoming = none → s.fabric.ports = [] → s.coreSet k = [.lc c] → (s.lc c).shadow = none →
      Memory.wf s.mem = true → ∃ u h, exec (.gangStopComplete k) s = .next u ∧ (u.lc c).shadow = some h ∧ h.key = k ∧ h.plane = (s.lc c).plane ∧
        ∀ x, memGet u.mem x = if inTile (windowAddr s.module (.lc c) 0) 0x50000 x then 0#8 else memGet s.mem x)) ∧
  (∀ k port vc, (s.runOf k = none → exec (.sweepMarker k port vc) s = .next s ∧ exec (.sweepLinkTimeout k port) s = .next s) ∧
    ∀ r, s.runOf k = some r →
    ((port, vc) ∈ r.markers → exec (.sweepMarker k port vc) s = .next s) ∧
    ((port, vc) ∉ r.markers → exec (.sweepMarker k port vc) s = .next ((s.mapRun k fun x => { x with markers := x.markers ++ [(port, vc)] }).sweepStep k)) ∧
    ((port, vc) ∉ r.markers → r.phase ≠ 2 → exec (.sweepMarker k port vc) s = .next (s.mapRun k fun x => { x with markers := x.markers ++ [(port, vc)] })) ∧
    ((getAt s.fabric.ports port Port.reset).state = .up ∨ port ∈ r.gone → exec (.sweepLinkTimeout k port) s = .next s) ∧
    ((getAt s.fabric.ports port Port.reset).state ≠ .up → port ∉ r.gone →
      let u := (s.mapRun k fun x => { x with gone := x.gone ++ [port], status := if x.status = 0 then 3 else x.status }).sweepStep k
      (r.origin ≠ u.module ∨ u.usablePorts 0 k ≠ [] ∨ u.runOf k = none → exec (.sweepLinkTimeout k port) s = .next u) ∧
      ∀ x, r.origin = u.module → u.usablePorts 0 k = [] → u.runOf k = some x → exec (.sweepLinkTimeout k port) s = .next ((x.left.filter (· ≠ u.module)).foldl
        (fun y m => y.gangReport k (if x.phase = 0 then 0 else 1) m (if x.phase = 0 then 0 else 3) none false 0) u)) ∧
    ((getAt s.fabric.ports port Port.reset).state ≠ .up → port ∉ r.gone → r.phase ≠ 2 → r.origin ≠ s.module → exec (.sweepLinkTimeout k port) s =
      .next (s.mapRun k fun x => { x with gone := x.gone ++ [port], status := if x.status = 0 then 3 else x.status }))) ∧
  (∀ k, let old (e : Nat × Packet) : Prop := e.2.key = k ∧ e.2.scnt ≠ (s.part k).scount.toNat
    let left : Prop := (∃ p ∈ s.gang.captured, p.key = k) ∨ ∃ e ∈ s.gang.inLink, old e
    let due : Prop := s.agenda.any (s.belongs k) = true ∨ ∃ w ∈ s.homes.heldWrites, w.2.key = k
    (left → ∃ u, exec (.reinjectionComplete k) s = .next u ∧ .reinjectionComplete k ∈ u.agenda) ∧
    (¬left → due → exec (.reinjectionComplete k) s = .next (s.push (.reinjectionComplete k))) ∧
    (¬left → ¬due → ((∀ r ∈ (s.resumeKey k).gang.runs, r.incoming ≠ some k) → exec (.reinjectionComplete k) s = .next (s.resumeKey k)) ∧
      ∀ r, (s.resumeKey k).gang.runs.find? (fun r => r.incoming = some k) = some r → exec (.reinjectionComplete k) s = .next ((s.resumeKey k).finishRun r.out)))

/-- A plane page (R382, R391 to R393): the port's command marks gangstat with phase 5 or 6; a page out writes the image's header, empties the
key's shadow planes and ends with DN; a page in loads the image's planes, and without a matching image ends with status 6, with a shadow plane in
its way with status 1; each module's part ends by itself; a page refused at its start moves nothing. -/
def Obligations.PlanePages : Prop := ∀ (s : State),
  (∀ k, s.gangBusy = false → let begun (i : Instr) (op : Nat) : Prop := ∃ u p, exec i s = .next u ∧ u.gang.paging = some p ∧ p.key = k ∧
      p.op = op ∧ p.status = 0 ∧ p.moved = false ∧ p.left = s.module :: s.otherModules ∧ u.regs.gangstat.extractLsb' 27 4 = BitVec.ofNat 4 (4 + op) ∧ u.mem = s.mem ∧ .planePageComplete ∈ u.agenda
    begun (.gangPortPageOut k) 1 ∧ begun (.gangPortPageIn k) 2) ∧
  (s.gang.paging = none → exec .planePageComplete s = .next s) ∧
  ∀ p, s.gang.paging = some p → (p.moved = true → exec .planePageComplete s = .next s) ∧
    (p.moved = false →
      let ends (st : Nat) (x : State) : Prop :=
        exec .planePageComplete s = .next (State.pageReport { x with gang := { x.gang with paging := some { p with moved := true } } } x.module st)
      (p.status ≠ 0 → ends p.status s) ∧ (p.status = 0 → p.op = 1 → ends 0 (s.writePlanes p.key)) ∧
      (p.status = 0 → p.op ≠ 1 → ends (s.readPlanes p.key).1 (s.readPlanes p.key).2)) ∧
    (p.moved = false → p.left ≠ [] → p.left.erase s.module ≠ [] → ∃ u q, exec .planePageComplete s = .next u ∧ u.gang.paging = some q ∧ q.moved = true ∧
      q.left = p.left.erase s.module ∧ q.key = p.key) ∧
    (p.moved = false → p.left = [s.module] → p.origin = none → p.key < 65536 →
      let ended (u : State) (st : Nat) : Prop := exec .planePageComplete s = .next u ∧ u.gang.paging = none ∧ u.regs.gDn = true ∧
        u.regs.gangstat.extractLsb' 24 3 = BitVec.ofNat 3 st ∧ u.regs.gangstat.extractLsb' 27 4 = 0#4 ∧ u.regs.gEr = (s.regs.gEr || decide (st ≠ 0))
      (p.status ≠ 0 → p.status < 8 → ∃ u, ended u p.status ∧ u.mem = s.mem ∧ ∀ k, u.shadowsOf k = s.shadowsOf k) ∧
      (p.status = 0 → p.op = 1 → Memory.wf s.mem = true → ∃ u, ended u 0 ∧ u.shadowsOf p.key = [] ∧
        u.readNat (canon s.regs.gimg.toNat) 8 = 2 ^ 63 + (s.part p.key).scount.toNat * 65536 + p.key) ∧
      (p.status = 0 → p.op = 2 → (∀ i ∈ s.gang.images, i.key ≠ p.key) → ∃ u, ended u 6 ∧ u.mem = s.mem ∧ ∀ k, u.shadowsOf k = s.shadowsOf k) ∧
      (∀ i, p.status = 0 → p.op = 2 → s.gang.images.find? (fun i => i.key = p.key && s.imageAt i) = some i →
        ((∃ e ∈ i.lookup, (s.lc e.1).shadow.isSome = true) ∨ (∃ e ∈ i.dense, (s.dt e.1).shadow.isSome = true) → ∃ u, ended u 1 ∧ u.mem = s.mem) ∧
        ((∀ e ∈ i.lookup, (s.lc e.1).shadow = none) → (∀ e ∈ i.dense, (s.dt e.1).shadow = none) → ∃ u, ended u 0 ∧ u.mem = s.mem ∧
          p.key ∈ u.gang.suspended ∧ (∀ e ∈ i.lookup, (u.lc e.1).shadow.isSome = true) ∧ (∀ e ∈ i.dense, (u.dt e.1).shadow.isSome = true))))

/-! ### Revocation and the module's registers (R25 to R30, R41, R373, R391, R410) -/

/-- A revocation at a core, its acknowledgements and its end, the revocation port, and the writes of the module's registers: at the core no
handle that matches is left valid, no translation stays, and every copy through one is stopped (R25), and the number goes up once the last core
has applied it (R27); the core acknowledges once none of its accesses through them is in flight; the end answers the module that sent it, sets
DN, or lets the waiting TRNS, HINV or DROP go on once it is its last; the queue heads move within what is filled; counters halve; an unlocked
line is evicted; reserved offsets change nothing. -/
def Obligations.RevocationsAndRegisters : Prop := ∀ (s : State),
  (∀ w r, let there : Prop := match w with
      | .lc c => c < 512
      | .dt j => j < 64
    ∃ u, exec (.revocationApply w r) s = .next u ∧ .revocationAck w r ∈ u.agenda ∧
    (∀ a ∈ residents w, there → ∀ k, findAt u.ctxs (agentId a) = some k → ∀ i, matchesRev r (k.readH i) = false) ∧
    (∀ e ∈ u.trans w, e.key = r.key → overlaps (leafPage e.leaf) (leafPage e.leaf + 2 ^ e.lg - 1) r.lo r.hi = false) ∧
    (∀ q ∈ u.copies (engineNo w), there → (∃ h ∈ q.handles, matchesRev r h = true) → q.stop = true) ∧
    (∀ v, s.revs = [v] → v.rev = r → v.seq = 0 → (∀ x ∈ v.todo, x = w) → u.revSeq = s.revSeq + 1) ∧
    (∀ v, s.revs = [v] → v.rev = r → (∃ x ∈ v.todo, x ≠ w) → u.revLog = s.revLog)) ∧
  (∀ w r, let busy : Prop := s.agenda.any (inFlight s.module w r) = true ∨ s.coreBusy w r = true
    (busy → exec (.revocationAck w r) s = .next (s.push (.revocationAck w r))) ∧
    (¬busy → (∀ v ∈ s.revs, v.rev ≠ r) → exec (.revocationAck w r) s = .next s) ∧
    (∀ v, ¬busy → s.revs.find? (fun x => x.rev = r) = some v → ∃ u, exec (.revocationAck w r) s = .next u ∧
      u.revs = s.revs.map (fun x => if x = v then { v with cores := v.cores.filter (· ≠ w) } else x) ∧ u.mem = s.mem ∧ u.ctxs = s.ctxs ∧
      ((∀ x ∈ v.cores, x = w) → v.mods = [] → .revocationComplete r ∈ u.agenda))) ∧
  (∀ r run, s.revs.find? (fun v => v.rev = r) = run → let t := { s with revs := s.revs.filter fun v => v.rev ≠ r }
    let done (u : State) : Prop := exec (.revocationComplete r) s = .next u
    let away : Prop := s.keyOut r.key = true ∧ ∃ a, r.who = .agent a
    (away → done (s.push (.revocationComplete r))) ∧
    (∀ v m, ¬away → run = some v → v.origin = some m →
      done (t.sendPacket (coreNumber m (.lc 0)) (coreNumber t.module (.lc 0)) r.key 0 0 0 0 0 (.done r.who 0x27 [r.key, r.lo, r.hi, r.scope, t.module, r.id]))) ∧
    ((∀ v, run = some v → v.origin = none) → (r.who = .host → ∃ u, done u ∧ u.regs.rvBsy = false ∧ u.regs.rvDn = true ∧
        u.regs.rvSeq = BitVec.ofNat 32 (match run with
          | some v => v.seq
          | none => s.revSeq) ∧ u.mem = s.mem ∧ u.revs = t.revs) ∧
      (∀ a, ¬away → r.who = .agent a → ((∃ v ∈ t.revs, v.rev.who = .agent a) → done t) ∧
        ((∀ v ∈ t.revs, v.rev.who ≠ .agent a) → (s.waitsFor a 0x29 = false → done (t.wake a 0x27)) ∧
          (s.waitsFor a 0x29 = true → (s.ctx a).opnd.2 ≠ 1#3 → done (t.finish a 0x29)) ∧
          (s.waitsFor a 0x29 = true → (s.ctx a).opnd.2 = 1#3 → done (t.failStep a 0x29 { cause := 0x0A, tval := (s.ctx a).opnd.1, tinfo := 5#64 })) ∧
          (∀ c t1, a = .thread c t1 → (s.ctx a).wait = .completion 0x27 ∨ ((s.ctx a).wait = .completion 0x29 ∧ (s.ctx a).opnd.2 ≠ 1#3) →
            ∃ u, done u ∧ (u.ctx a).wait = .none ∧ (u.ctx a).pc = ((s.ctx a).advance 4#48).pc ∧ u.mem = s.mem))))) ∧
  (∀ (v : BitVec 64) k, let q := s.regs
    let bad : Prop := (q.rvScope.toNat ≠ 4 ∧ q.rvScope.toNat ≠ 5) ∨ q.rvBsy = true ∨ ∃ key, k = some key ∧ key ≠ q.rvKey.toNat
    (v.getLsbD 0 = false → exec (.revocationPortGo k v) s = .next s) ∧
    (v.getLsbD 0 = true → bad → exec (.revocationPortGo k v) s = .next { s with regs := { q with rvEr := true } }) ∧
    (v.getLsbD 0 = true → ¬bad → q.rvLen = 0#64 → ∃ u, exec (.revocationPortGo k v) s = .next u ∧
      u.regs.rvDn = true ∧ u.regs.rvBsy = false ∧ u.revs = s.revs ∧ u.revLog = s.revLog) ∧
    (v.getLsbD 0 = true → ¬bad → q.rvLen ≠ 0#64 → (∀ x ∈ s.revs, x.rev.id ≠ s.module * 2 ^ 32 + s.nextRev % 2 ^ 32) →
      ∃ u w, exec (.revocationPortGo k v) s = .next u ∧ u.regs.rvBsy = true ∧ u.revs = s.revs ++ [w] ∧ w.rev.key = q.rvKey.toNat ∧ w.rev.lo = q.rvBase.toNat ∧
      w.rev.scope = q.rvScope.toNat ∧ w.rev.who = .host ∧ w.rev.hi = min (q.rvBase.toNat + q.rvLen.toNat - 1) (2 ^ 64 - 1) ∧
      (∀ x ∈ w.cores, .revocationApply x w.rev ∈ u.agenda) ∧ (w.cores = [] → w.mods = [] → .revocationComplete w.rev ∈ u.agenda))) ∧
  (∀ v : BitVec 64, let q := s.regs
    ((q.nqtail - q.nqhead).toNat < (v.setWidth 12 - q.nqhead).toNat → exec (.nqheadWrite v) s = .next s) ∧
    ((v.setWidth 12 - q.nqhead).toNat ≤ (q.nqtail - q.nqhead).toNat → ∃ u, exec (.nqheadWrite v) s = .next u ∧ u.regs = { q with nqhead := v.setWidth 12 } ∧
      u.mem = s.mem ∧ (v.setWidth 12 = q.nqtail → 257 ∉ u.boot.coalesced) ∧
      let notice (i : Nat) : Nat := s.readNat (canon (q.nqbase.toNat + 16 * (q.nqhead + BitVec.ofNat 12 i).toNat)) 16
      u.homes.counters = s.homes.counters.map fun c => if c.queued = true ∧ ∃ i < (v.setWidth 12 - q.nqhead).toNat,
        c.pair = bitsOf (notice i) 84 76 ∧ c.region = bitsOf (notice i) 127 85 then { c with count := 0, queued := false } else c) ∧
    ((q.fqtail - q.fqhead).toNat < (v.setWidth 11 - q.fqhead).toNat → exec (.fqheadWrite v) s = .next s) ∧
    ((v.setWidth 11 - q.fqhead).toNat ≤ (q.fqtail - q.fqhead).toNat → ∃ u, exec (.fqheadWrite v) s = .next u ∧ u.regs = { q with fqhead := v.setWidth 11 } ∧
      u.mem = s.mem ∧ (v.setWidth 11 = q.fqtail → 256 ∉ u.boot.coalesced))) ∧
  ((s.regs.decay = 0#32 → exec .counterDecay s = .next s) ∧
    (s.regs.decay ≠ 0#32 → ∃ u, exec .counterDecay s = .next u ∧ u = { s with homes := { s.homes with counters := u.homes.counters } } ∧
      u.homes.counters.length = s.homes.counters.length ∧ ∀ (i : Nat) c d, s.homes.counters[i]? = some c → u.homes.counters[i]? = some d →
        (c.queued = false → c.overflow = false → d = { c with count := c.count / 2 }) ∧
        (c.queued = true ∨ c.overflow = true → d = { c with count := max (c.count / 2) (min c.count (s.regionThreshold c.region)) }))) ∧
  (∀ c set way, ((s.lp c).l1.find? (fun l => Machine.setOf l.line = set && l.way = way) = none → exec (.l1Eviction c set way) s = .next s) ∧
    (∀ l, (s.lp c).l1.find? (fun l => Machine.setOf l.line = set && l.way = way) = some l →
      (l.lock ≠ 0 → exec (.l1Eviction c set way) s = .next s) ∧
      (l.lock = 0 → ∃ u, exec (.l1Eviction c set way) s = .next u ∧ (u.lp c).l1 = (s.lp c).l1.filter (fun x => x.line ≠ l.line) ∧ u.mem = s.mem ∧
        (l.dirty = 0#64 → u.agenda = s.agenda) ∧ (moduleOf (l.line * 64) = s.module → u.ctxs = s.ctxs ∧ (l.dirty ≠ 0#64 →
          ∃ r i, i ∈ u.agenda ∧ i = (if spaceOf (l.line * 64) = 4 then .tileWindowAccess r else .homeRequest r) ∧ r.pa = l.line * 64 ∧ r.len = 64 ∧
            r.op = .writeBack l.writers ∧ r.mask = (List.range 64).map l.dirty.getLsbD ∧ r.data = (List.range 64).map (lineByte l)))))) ∧
  (∀ k o v, exec (.registerWrite .control k o v) s = .next (s.controlWrite (k.getD 0) o v) ∧ ∃ u, exec (.registerWrite .bar2 k o v) s = .next u) ∧
  (∀ k (v : BitVec 64), let w (n : Nat) (q : Regs) : Prop := exec (.registerWrite .control k n v) s = .next { s with regs := q }
    w 0x10018 { s.regs with nqen := v.getLsbD 32, nqlost := clear1 s.regs.nqlost v } ∧ w 0x10318 { s.regs with fqen := v.getLsbD 32, fqlost := clear1 s.regs.fqlost v } ∧
    w 0x10020 { s.regs with thost := v.extractLsb' 32 16, tbulk := v.extractLsb' 16 16, thbm := v.extractLsb' 0 16 } ∧
    w 0x10100 { s.regs with rcontrol := v &&& 0x1FFFFFFFF#64 } ∧ w 0x10600 { s.regs with lateCount := clear1 s.regs.lateCount v } ∧
    w 0x10700 { s.regs with rvScope := v.extractLsb' 16 4, rvKey := v.setWidth 16 } ∧ w 0x10708 { s.regs with rvBase := v } ∧ w 0x10710 { s.regs with rvLen := v } ∧
    exec (.registerWrite .bar2 k 0x110008 v) s = .next { s with regs := { s.regs with hostErrors := clear1 s.regs.hostErrors v } } ∧
    exec (.registerWrite .bar2 k 0x130000 v) s = .next { s with regs := { s.regs with psel := v.setWidth 16, pEr := s.regs.pEr && !v.getLsbD 17 } } ∧
    (v.getLsbD 1 = true → exec (.registerWrite .bar2 k 0x130008 v) s = exec .partitionPortAdmit s) ∧
    (v.getLsbD 1 = false → v.getLsbD 0 = true → exec (.registerWrite .bar2 k 0x130008 v) s = exec .partitionPortCreate s)) ∧
  (∀ k v, exec (.registerWrite .control k 0x10000 v) s = .next { s with regs := { s.regs with nqbase := v } } ∧
    exec (.registerWrite .control k 0x10028 v) s = .next { s with regs := { s.regs with decay := v.setWidth 32 } } ∧
    exec (.registerWrite .control k 0x10300 v) s = .next { s with regs := { s.regs with fqbase := v } } ∧
    exec (.registerWrite .control k 0x1FFF8 v) s = .next s ∧
    (∀ key p, k = some key → s.putPart key 6 v = some p → exec (.registerWrite .control k 0x10210 v) s = .next p) ∧
    exec (.registerWrite .bar2 k 0x100000 v) s = .next { s with regs := { s.regs with gimg := v } } ∧
    exec (.registerWrite .bar2 k 0x110000 v) s = exec (.hwinWrite v) s ∧ exec (.registerWrite .bar2 k 0x120018 v) s = exec (.revocationPortGo none v) s ∧
    (2 ≤ s.boot.stage → v.extractLsb' 17 47 = 0#47 → exec (.registerWrite .bar2 k 0x100008 v) s = exec (.gangPortSwitch (v.toNat % 65536) (v.getLsbD 16)) s) ∧
    (2 ≤ s.boot.stage → v.extractLsb' 17 45 ≠ 0#45 ∨ v.extractLsb' 62 2 = 3#2 →
      exec (.registerWrite .bar2 k 0x100008 v) s = .next { s with regs := { s.regs with gEr := true } }))

/-! ### Laralair links, the host's attachment and bring-up (R396 to R431) -/

/-- A port's steps (R399 to R407): a flit out of order or with a bad CRC is dropped, a duplicate acknowledged again, the next one taken; an
acknowledgement retires what it covers; stop and go set and clear a channel; a lane's failure narrows the link or takes it down; a retrain brings
it up with the channels it can carry; a disabled port stays so until enabled. A packet for another module goes on, one in sequence is taken and
what it held up follows, one behind a gap is held, an old one dropped; the gap's timeout goes on with what is held; an unreachable packet is
refused. A port that does not exist is no unit. -/
def Obligations.LinkSteps : Prop := ∀ (s : State) (n : Nat),
  let q := getAt s.fabric.ports n Port.reset
  let at' (u : State) := getAt u.fabric.ports n Port.reset
  (16 ≤ n → ∀ ok f p a b i, exec (.flitArrival n ok f) s = .fault .noSuchUnit ∧ exec (.packetArrival n p) s = .fault .noSuchUnit ∧
    exec (.flitAck n a) s = .fault .noSuchUnit ∧ exec (.flowControlSignal n a b) s = .fault .noSuchUnit ∧ exec (.replayTimeout n) s = .fault .noSuchUnit ∧
    exec (.laneFailure n a) s = .fault .noSuchUnit ∧ exec (.retrainComplete n i) s = .fault .noSuchUnit ∧ exec (.lctlFullRetrain n) s = .fault .noSuchUnit ∧
    exec (.lctlDisable n b) s = .fault .noSuchUnit) ∧
  (n < 16 →
    (∀ ok f, (q.state ≠ .up ∨ ok = false ∨ q.expect < f.num → exec (.flitArrival n ok f) s = .next s) ∧
      (q.state = .up → ok = true → f.num < q.expect → exec (.flitArrival n ok f) s = .next (s.setPort n { q with acks := q.acks ++ [f.num] })) ∧
      (q.state = .up → ok = true → f.num = q.expect → f.pkt = none → ∃ u, exec (.flitArrival n ok f) s = .next u ∧ u.mem = s.mem ∧
        (at' u).expect = q.expect + 1 ∧ (at' u).acks = q.acks ++ [f.num] ∧ getAt (at' u).occupancy f.vc 0 = getAt q.occupancy f.vc 0 + 1) ∧
      (∀ p, q.state = .up → ok = true → f.num = q.expect → f.pkt = some p → exec (.flitArrival n ok f) s = .next ((s.setPort n (occupy1
        { q with expect := q.expect + 1, acks := q.acks ++ [f.num] } f.vc (getAt q.occupancy f.vc 0 + 1))).packetArrives n p))) ∧
    (∀ a, exec (.flitAck n a) s = .next (s.setPort n { q with replay := q.replay.filter fun f => decide (a < f.num) })) ∧
    (∀ vc < 6, ∀ stop, ∃ u, exec (.flowControlSignal n vc stop) s = .next u ∧ (at' u).stopped.getLsbD vc = stop ∧ u.mem = s.mem ∧
      (∀ w < 6, w ≠ vc → (at' u).stopped.getLsbD w = q.stopped.getLsbD w) ∧ (at' u).state = q.state) ∧
    ((q.state = .up → ∃ u, exec (.replayTimeout n) s = .next u ∧ (at' u).replays = min (q.replays + q.replay.length) 0xFFFF ∧ (at' u).replay = q.replay ∧ u.mem = s.mem) ∧
      (q.state ≠ .up → exec (.replayTimeout n) s = .next s)) ∧
    (∀ lane, (8 ≤ lane → exec (.laneFailure n lane) s = .fault .noSuchUnit) ∧
      (lane < 8 → q.state = .up ∨ q.state = .training → q.failed.getLsbD lane = false → ∃ u, exec (.laneFailure n lane) s = .next u ∧ u.mem = s.mem ∧
        (at' u).failed = q.failed ||| (1#8 <<< lane) ∧ (2 ≤ q.width → (at' u).state = .down ∧ (at' u).width = 3) ∧
        (q.width < 2 → (at' u).state = .training ∧ (at' u).width = q.width + 1)) ∧
      (lane < 8 → q.state = .down ∨ q.state = .disabled ∨ q.failed.getLsbD lane = true → ∃ u, exec (.laneFailure n lane) s = .next u ∧ u.mem = s.mem ∧
        (at' u).failed = q.failed ||| (1#8 <<< lane) ∧ (at' u).state = q.state ∧ (at' u).width = q.width)) ∧
    (∀ rtt, let w := if q.full then 0 else q.width
      (q.state ≠ .training → ∃ u, exec (.retrainComplete n rtt) s = .next u ∧ (at' u).state = q.state ∧ (at' u).width = q.width ∧ u.mem = s.mem) ∧
      (q.state = .training → carriedSet w rtt = none → ∃ u, exec (.retrainComplete n rtt) s = .next u ∧ (at' u).state = .down ∧ u.mem = s.mem) ∧
      (∀ v, q.state = .training → carriedSet w rtt = some v → ∃ u, exec (.retrainComplete n rtt) s = .next u ∧ (at' u).state = .up ∧ (at' u).susp = v ∧
        (at' u).width = w ∧ (at' u).rtt = rtt ∧ (at' u).full = false ∧ u.mem = s.mem)) ∧
    ((q.dis = true → ∃ u, exec (.lctlFullRetrain n) s = .next u ∧ (at' u).state = q.state) ∧
      (q.dis = false → ∃ u, exec (.lctlFullRetrain n) s = .next u ∧ (at' u).state = .training ∧ (at' u).full = true ∧ (at' u).failed = 0#8 ∧ u.mem = s.mem)) ∧
    ((∃ u, exec (.lctlDisable n true) s = .next u ∧ (at' u).dis = true ∧ (at' u).state = .disabled ∧ u.mem = s.mem) ∧
      (q.dis = true → ∃ u, exec (.lctlDisable n false) s = .next u ∧ (at' u).dis = false ∧ (at' u).state = .training ∧ (at' u).full = true) ∧
      (q.dis = false → ∃ u, exec (.lctlDisable n false) s = .next u ∧ (at' u).state = q.state ∧ (at' u).dis = false)) ∧
    (∀ p k, p.body = .marker k → let t := s.freeFlits n p
      (t.runOf k = none → exec (.packetArrival n p) s = .next (t.logLate n p)) ∧
      (∀ r, t.runOf k = some r → (r.markers.contains (n, p.vc) = true → exec (.packetArrival n p) s = .next t) ∧ (r.markers.contains (n, p.vc) = false →
        exec (.packetArrival n p) s = .next ((t.mapRun k fun x => { x with markers := x.markers ++ [(n, p.vc)] }).sweepStep k)))) ∧
    (∀ p, (∀ k, p.body ≠ .marker k) → let ix := seqIndex (moduleOfNumber p.src) s.module p.vc
      let want := getAt s.fabric.seqIn ix 0
      let ahead := (p.seq + 65536 - want % 65536) % 65536
      (moduleOfNumber p.dst ≠ s.module → exec (.packetArrival n p) s = .next ((s.freeFlits n p).route1 { p with since := 0 })) ∧
      (moduleOfNumber p.dst = s.module → p.seq = want →
        let t := ({ s with fabric := { s.fabric with seqIn := setAt s.fabric.seqIn ix ((want + 1) % 65536) } } : State).takePacket n p
        exec (.packetArrival n p) s = .next (State.releaseHeld s.fabric.held.length t ix) ∧ (s.fabric.held = [] → exec (.packetArrival n p) s = .next t)) ∧
      (moduleOfNumber p.dst = s.module → p.seq ≠ want → ahead < 2 ^ 15 →
        exec (.packetArrival n p) s = .next { s with fabric := { s.fabric with held := s.fabric.held ++ [(n, { p with since := s.cycle })] } }) ∧
      (moduleOfNumber p.dst = s.module → p.seq ≠ want → 2 ^ 15 ≤ ahead → exec (.packetArrival n p) s = .next (s.freeFlits n p)))) ∧
  (∀ src dst vc, let ix := seqIndex src dst vc
    let want := getAt s.fabric.seqIn ix 0
    let mine (e : Nat × Packet) : Prop := seqIndex (moduleOfNumber e.2.src) (moduleOfNumber e.2.dst) e.2.vc = ix
    let ahead (e : Nat × Packet) : Nat := (e.2.seq + 65536 - want % 65536) % 65536
    ((∀ e ∈ s.fabric.held, ¬mine e) → exec (.seqGapTimeout src dst vc) s = .next s) ∧
    ∀ e ∈ s.fabric.held, mine e → (∀ f ∈ s.fabric.held, mine f → ahead e ≤ ahead f) → exec (.seqGapTimeout src dst vc) s =
      .next (State.releaseHeld s.fabric.held.length { s with fabric := { s.fabric with seqIn := setAt s.fabric.seqIn ix ((want + ahead e) % 65536) } } ix)) ∧
  (∀ e src dst vc, s.fabric.held = [e] → seqIndex (moduleOfNumber e.2.src) (moduleOfNumber e.2.dst) e.2.vc = seqIndex src dst vc → e.2.seq < 65536 →
    ∃ u, exec (.seqGapTimeout src dst vc) s = .next u ∧ u.fabric.held = [] ∧ getAt u.fabric.seqIn (seqIndex src dst vc) 0 = (e.2.seq + 1) % 65536) ∧
  (∀ (i : Nat), (s.fabric.waiting[i]? = none → exec (.unreachableTimeout i) s = .next s) ∧
    ∀ p, s.fabric.waiting[i]? = some p → let gone := { s with fabric := { s.fabric with waiting := s.fabric.waiting.eraseIdx i } }
      (p.vc = 0 → exec (.unreachableTimeout i) s = .next s) ∧ (p.vc = 2 → exec (.unreachableTimeout i) s = .next gone) ∧
      (p.vc ≠ 0 → p.vc ≠ 2 → p.vc ≠ 4 → exec (.unreachableTimeout i) s = .next (gone.refusePacket p ⟨0x15, 1, p.dst⟩)) ∧
      (p.vc = 4 → s.admits (moduleOfNumber p.dst) p.key = true → exec (.unreachableTimeout i) s = .next s) ∧
      (p.vc = 4 → s.admits (moduleOfNumber p.dst) p.key = false → exec (.unreachableTimeout i) s = .next (gone.refusePacket p ⟨0x15, 0, 0⟩)))

/-- The host over CXL (R410 to R415, R425): hwin takes a value within the 384 GiB and not after the commit; an access beyond the window has no
address; before stage C reads are poisoned and writes dropped; a host write in the window reaches the bytes it names and no other, a read answers
its bytes; a snoop gives a held line up; a read or ownership answer places its line and what waited for it is served in order, an error poisons a
read and loses a write; a back-invalidate answer frees the line for the writes that wait; a link down ends what waits for it. -/
def Obligations.HostAttachment : Prop := ∀ (s : State),
  (∀ v : BitVec 64, (s.regs.hdmCommitted = true ∨ 384 < bitsOf v.toNat 40 32 + bitsOf v.toNat 8 0 → exec (.hwinWrite v) s = .next s) ∧
    (s.regs.hdmCommitted = false → bitsOf v.toNat 40 32 + bitsOf v.toNat 8 0 ≤ 384 →
      exec (.hwinWrite v) s = .next { s with regs := { s.regs with hwin := v &&& 0x000001FF000001FF#64 } })) ∧
  (∀ a, let h := s.regs.hwin.toNat
    let pa := s.module * 2 ^ 52 + bitsOf h 8 0 * 2 ^ 30 + a.addr
    let n := if a.write then a.data.length else a.len
    (bitsOf h 40 32 * 2 ^ 30 < a.addr + n → exec (.hostWindowAccess a) s = .fault .noSuchAddress) ∧
    (a.addr + n ≤ bitsOf h 40 32 * 2 ^ 30 → s.boot.stage < 2 → (a.write = true → exec (.hostWindowAccess a) s = .next s) ∧
      (a.write = false → ∃ u bs, exec (.hostWindowAccess a) s = .next u ∧ u.boot.hostReads = s.boot.hostReads ++ [(bs, true)] ∧ bs.length = n ∧ u.mem = s.mem)) ∧
    (a.addr + n ≤ bitsOf h 40 32 * 2 ^ 30 → 2 ≤ s.boot.stage →
      let lines := (List.range ((pa + n + 63) / 64 - pa / 64)).map (· + pa / 64)
      let t := if a.write then s else { s with homes := { s.homes with
        hostLines := s.homes.hostLines ++ lines.filter fun l => !s.homes.hostLines.contains l } }
      let r : Request := {
        who := .host
        core := coreNumber s.module (.lc 0)
        key := hostKey
        op := if a.write then .store else .load
        pa := pa
        len := n
        data := a.data
        dest := if a.write then .none else .inbox 0 }
      exec (.hostWindowAccess a) s = .next (((t.countAccess pa).countL2 pa).atHome r)) ∧
    (a.addr + n ≤ bitsOf h 40 32 * 2 ^ 30 → 2 ≤ s.boot.stage → a.write = false → s.regs.nqen = false → s.homes.ranges = [] → spaceOf pa = 0 →
      s.module < 4096 → a.data = [] → (∀ l ∈ s.homes.l2, spaceOf (l.line * 64) ≠ 5) → ∃ (u : State) (r : Reply), exec (.hostWindowAccess a) s = .next u ∧ u.mem = s.mem ∧
        .replyWritten r ∈ u.agenda ∧ r.who = .host ∧ r.data = s.readVia (canon pa) n) ∧
    (a.addr + n ≤ bitsOf h 40 32 * 2 ^ 30 → 2 ≤ s.boot.stage → a.write = true → s.regs.nqen = false → s.homes.ranges = [] → spaceOf pa = 0 →
      (∀ l ∈ s.homes.l2, spaceOf (l.line * 64) ≠ 5) → Memory.wf s.mem = true → ∃ u, exec (.hostWindowAccess a) s = .next u ∧ s.bytesKept u pa n ∧ (∀ i < n, memGet u.mem (pa + i) = a.data.getD i 0#8) ∧ u.ctxs = s.ctxs)) ∧
  (∀ line, let g := s.gatherLine line
    (g.homes.l2.find? (fun l => l.line = line) = none → exec (.hostSnoop line) s =
      .next { g with boot := { g.boot with snoops := g.boot.snoops ++ [(line, [], false)] } }) ∧
    (∀ l, g.homes.l2.find? (fun l => l.line = line) = some l → ∃ u, exec (.hostSnoop line) s = .next u ∧ u.mem = g.mem ∧
      u.boot.snoops = g.boot.snoops ++ [(line, g.read (line * 64) 64, l.dirty)] ∧ u.homes.l2 = g.homes.l2.filter (fun x => x.line ≠ line)) ∧
    (s.agenda = [] → (∀ e ∈ s.lcs, (s.lp e.1).l1 = []) → g = s)) ∧
  (∀ line kind data err, (s.boot.cacheReqs.contains (line, kind) = false → exec (.hostCacheReply line kind data err) s = .next s) ∧
    (s.boot.cacheReqs.contains (line, .writeBack) = true → ∃ u, exec (.hostCacheReply line .writeBack data err) s = .next u ∧ u.mem = s.mem ∧
      u.boot.cacheReqs = s.boot.cacheReqs.erase (line, .writeBack) ∧
      u.regs.hostErrors = (if err = true ∧ s.regs.hostErrors ≠ BitVec.allOnes 32 then s.regs.hostErrors + 1#32 else s.regs.hostErrors)) ∧
    (let t : State := { s with
        boot := { s.boot with cacheReqs := s.boot.cacheReqs.erase (line, .read) }
        homes := { s.homes with heldWrites := s.homes.heldWrites.filter fun w => w.1 ≠ line } }
      let rs := (s.homes.heldWrites.filter fun w => w.1 = line).map (·.2)
      s.boot.cacheReqs.contains (line, .read) = true → exec (.hostCacheReply line .read data false) s =
        .next (rs.foldl (fun x r => x.atHome r) ((State.write { t with free := t.free + 1 } (line * 64) (data.take 64)).placeLine line false)) ∧
      ∃ bs, bs.length = 64 ∧ exec (.hostCacheReply line .read data true) s =
        .next (rs.foldl (fun x r => x.atHome r) (((State.write { t with free := t.free + 1 } (line * 64) bs).addPoison (line * 64) 64).placeLine line false))) ∧
    (let t : State := { s with
        boot := { s.boot with cacheReqs := s.boot.cacheReqs.erase (line, .own) }
        homes := { s.homes with heldWrites := s.homes.heldWrites.filter fun w => w.1 ≠ line } }
      let rs := (s.homes.heldWrites.filter fun w => w.1 = line).map (·.2)
      let brings : Bool := !(s.homes.l2.any fun l => l.line = line) && data ≠ []
      s.boot.cacheReqs.contains (line, .own) = true → exec (.hostCacheReply line .own data false) s =
        .next (rs.foldl (fun x r => x.atHome r) ((if brings then t.write (line * 64) (data.take 64) else t).placeLine line true)) ∧
      exec (.hostCacheReply line .own data true) s = .next (rs.foldl (fun x r => x.loseWrite r) { t with regs := { t.regs with
        hostErrors := if t.regs.hostErrors = BitVec.allOnes 32 then t.regs.hostErrors else t.regs.hostErrors + 1#32 } })) ∧
    (s.boot.cacheReqs.contains (line, .read) = true → (∀ w ∈ s.homes.heldWrites, w.1 ≠ line) → s.homes.l2.length < 16 ∨ (∀ l ∈ s.homes.l2, spaceOf (l.line * 64) ≠ 5) →
      data.length = 64 → Memory.wf s.mem = true →
      ∃ u, exec (.hostCacheReply line .read data false) s = .next u ∧ u.read (line * 64) 64 = data ∧ s.bytesKept u (line * 64) 64 ∧
        (∃ l ∈ u.homes.l2, l.line = line ∧ l.own = false ∧ l.dirty = false)) ∧
    (s.boot.cacheReqs.contains (line, .own) = true → (∀ w ∈ s.homes.heldWrites, w.1 ≠ line) → s.homes.l2.length < 16 ∨ (∀ l ∈ s.homes.l2, spaceOf (l.line * 64) ≠ 5) →
      ∃ u, exec (.hostCacheReply line .own [] false) s = .next u ∧ u.mem = s.mem ∧ (∃ l ∈ u.homes.l2, l.line = line ∧ l.own = true))) ∧
  (∀ line, (s.boot.backInvalidates.contains line = false → exec (.backInvalidateResponse line) s = .next s) ∧
    (s.boot.backInvalidates.contains line = true → let t : State := { s with
        boot := { s.boot with backInvalidates := s.boot.backInvalidates.erase line }
        homes := { s.homes with hostLines := s.homes.hostLines.filter (· ≠ line), heldWrites := s.homes.heldWrites.filter fun w => w.1 ≠ line } }
      exec (.backInvalidateResponse line) s = .next (((s.homes.heldWrites.filter fun w => w.1 = line).map (·.2)).foldl (fun x r => x.atHome r) t))) ∧
  (∃ u, exec .cxlLinkDown s = .next u ∧ u.boot.cxlUp = false ∧ u.boot.cacheReqs = [] ∧ ∀ w ∈ u.homes.heldWrites, spaceOf w.2.pa ≠ 5)

/-- Bring-up and health (R425 to R431): power-good leaves the reset state with the fused version; a good image of a version not below the fuse's
reaches stage B, a bad one sets its failure code; stage C starts the ports; the attestation answers with the nonce; throttling rises over its
limits and falls below them by one step; a trip ends the run; a storage error is counted, and an uncorrected one poisons its granule, or the line
that the struck place of an L1 holds. -/
def Obligations.BringUp : Prop := ∀ (s : State),
  (∃ u, exec .powerGood s = .next u ∧ u.mem = State.reset.mem ∧ u.ctxs = State.reset.ctxs ∧ u.lcs = State.reset.lcs ∧ u.dts = State.reset.dts ∧
    u.regs = State.reset.regs ∧ u.homes = State.reset.homes ∧ u.boot.stage = 0 ∧ u.boot.powered = true ∧ u.boot.fail = 0 ∧ u.boot.tripped = false ∧
    u.boot.fuseVersion = s.boot.fuseVersion ∧ u.fabric.domain = s.fabric.domain ∧ u.module = s.module) ∧
  (∀ f x, let b := s.boot
    (b.powered = false ∨ b.stage ≠ 0 ∨ b.tripped = true ∨ b.fail ≠ 0 → exec (.firmwareVerify f x) s = .next s) ∧
    (f.version < b.fuseVersion → imageOk b.fuseVersion f = false) ∧
    (b.powered = true → b.stage = 0 → b.tripped = false → b.fail = 0 → exec (.firmwareVerify f x) s = .next { s with
      boot := (if imageOk b.fuseVersion f = false then { b with fail := 0x01 } else if 2 ≤ x ∧ x ≤ 4 then { b with fail := x }
        else { b with stage := 1, yobenDigest := Config.sm3 f.body, version := f.version, fuseVersion := f.version }) })) ∧
  (∀ ps, (s.boot.stage ≠ 1 → exec (.stageCReached ps) s = .next s) ∧
    (s.boot.stage = 1 → ∃ u, exec (.stageCReached ps) s = .next u ∧ u.boot.stage = 2 ∧ u.boot.fail = (if ps = [] then s.boot.fail else 0x05) ∧ u.mem = s.mem ∧
      ∀ n < 16, ps.contains n = false → (getAt s.fabric.ports n Port.reset).dis = false → (getAt u.fabric.ports n Port.reset).state = .training)) ∧
  (∀ nonce, (s.boot.powered = false → exec (.attestationRequest nonce) s = .next s ∧ exec .certificateRead s = .next s) ∧
    (s.boot.powered = true → ∃ u r, exec (.attestationRequest nonce) s = .next u ∧ u.boot.replies = s.boot.replies ++ [r] ∧ r.take 32 = natToBytes 32 nonce.toNat ∧
      r.length = 168 ∧ u.mem = s.mem ∧ u.boot.stage = s.boot.stage) ∧
    (s.boot.powered = true → exec .certificateRead s = .next { s with boot := { s.boot with replies := s.boot.replies ++ [Config.certificate] } })) ∧
  (∀ tmax pwr hbm, (∃ u, exec (.throttleRaise tmax pwr hbm) s = .next u ∧ u.boot.tmax = tmax ∧ u.boot.pwr = pwr ∧ u.boot.thbm = hbm ∧ u.mem = s.mem ∧
      u.boot.thr = (if 95 < tmax ∨ 2400 < pwr then min (s.boot.thr + 1) 3 else s.boot.thr) ∧ u.boot.tw = (s.boot.tw || decide (u.boot.thr ≠ s.boot.thr))) ∧
    (∃ u, exec (.throttleLower tmax pwr hbm) s = .next u ∧ u.boot.tmax = tmax ∧ u.boot.pwr = pwr ∧ u.boot.thbm = hbm ∧ u.mem = s.mem ∧
      u.boot.thr = (if tmax < 90 ∧ pwr ≤ 2400 then s.boot.thr - 1 else s.boot.thr))) ∧
  (∀ tmax, (tmax < 110 → exec (.thermalTrip tmax) s = .next { s with boot := { s.boot with tmax := tmax } }) ∧
    (110 ≤ tmax → ∃ u, exec (.thermalTrip tmax) s = .next u ∧ u.boot.stage = 0 ∧ u.boot.tp = true ∧ u.boot.tripped = true ∧ u.agenda = [] ∧
      (∀ c < 512, (u.lc c).halted = true) ∧ (∀ j < 64, (u.dt j).halted = true) ∧ ∀ e ∈ u.fabric.ports, e.2.state = .down)) ∧
  (∀ pa, let sec := homeCore pa / 16
    exec (.storageError pa true) s = .next (s.countSector sec 0x0107 1) ∧
    ∃ u, exec (.storageError pa false) s = .next u ∧ u.mem = s.mem ∧ u.ctxs = s.ctxs ∧ (s.l1Place pa = none → canon pa / 64 ∈ u.poison) ∧
      (∀ c set way, s.l1Place pa = some (c, set, way) → u.poison = s.poison ∧
        (u.lp c).l1 = (s.lp c).l1.map fun l => if Machine.setOf l.line = set ∧ l.way = way then { l with poison := true } else l) ∧
      (getAt u.sectors sec Sector.reset).ue = BitVec.ofNat 16 (min ((getAt s.sectors sec Sector.reset).ue.toNat + 1) 0xFFFF))
end

