-- ==== Sys2Proof/Laws/Map.lean ====
section
/-! SUPPORT. Sparse tables and memory: a read after a write, writes to other places, and the canonical form that every write keeps. -/

namespace Sys2Proof.Machine

variable {α : Type}

/-! ### Tables -/

@[simp] theorem findAt_setAt_same (m : SMap α) (k : Nat) (v : α) : findAt (setAt m k v) k = some v := by
  induction m with
  | nil => simp [setAt, findAt]
  | cons e m ih =>
    obtain ⟨j, u⟩ := e
    simp only [setAt]
    split
    · simp [findAt]
    · split
      · simp [findAt]
      · rename_i h _
        simp [findAt, h, ih]

theorem findAt_setAt_ne (m : SMap α) (k n : Nat) (v : α) (h : n ≠ k) : findAt (setAt m k v) n = findAt m n := by
  induction m with
  | nil => simp [setAt, findAt, Ne.symm h]
  | cons e m ih =>
    obtain ⟨j, u⟩ := e
    simp only [setAt]
    split
    · rename_i hj
      subst hj
      simp [findAt, Ne.symm h]
    · split
      · simp [findAt, Ne.symm h]
      · simp [findAt, ih]

/-- An entry of a table after another has been set. -/
theorem findAt_setAt (m : SMap α) (k n : Nat) (v : α) : findAt (setAt m k v) n = if n = k then some v else findAt m n := by
  split
  · subst n; simp
  · exact findAt_setAt_ne _ _ _ _ ‹_›

@[simp] theorem getAt_setAt_same (m : SMap α) (k : Nat) (v d : α) : getAt (setAt m k v) k d = v := by simp [getAt]

theorem getAt_setAt_ne (m : SMap α) (k n : Nat) (v d : α) (h : n ≠ k) : getAt (setAt m k v) n d = getAt m n d := by
  simp [getAt, findAt_setAt_ne _ _ _ _ h]

/-- The later of two writes to an entry is the one that counts. -/
@[simp] theorem setAt_setAt (m : SMap α) (k : Nat) (v w : α) : setAt (setAt m k v) k w = setAt m k w := by
  induction m with
  | nil => simp [setAt]
  | cons e m ih =>
    obtain ⟨j, u⟩ := e
    simp only [setAt]
    split
    · simp [setAt]
    · split
      · simp [setAt]
      · rename_i h h'
        simp [setAt, h, h', ih]

/-! ### Memory -/

/-- Below its first address a memory in canonical form lists nothing. -/
theorem memGet_below (m : Mem) (n : Nat) (v : Byte) (h : Memory.wf ((n, v) :: m) = true) (x : Nat) (hx : x ≤ n) :
    memGet m x = unlisted := by
  induction m generalizing n v with
  | nil => rfl
  | cons e m ih =>
    obtain ⟨k, u⟩ := e
    simp only [Memory.wf, Bool.and_eq_true, decide_eq_true_eq] at h
    have hk : k ≠ x := by omega
    simp only [memGet, hk, if_false]
    exact ih k u h.2 (by omega)

theorem memGet_memSet_same (m : Mem) (a : Nat) (b : Byte) (h : Memory.wf m = true) : memGet (memSet m a b) a = b := by
  induction m with
  | nil => simp only [memSet]; split <;> simp_all [memGet]
  | cons e m ih =>
    obtain ⟨j, v⟩ := e
    have hm : Memory.wf m = true := by
      cases m with
      | nil => rfl
      | cons e m => simp only [Memory.wf, Bool.and_eq_true] at h; exact h.2
    simp only [memSet]
    split
    · rename_i hj
      subst hj
      split
      · rename_i hb
        rw [hb]; exact memGet_below m j v h j (Nat.le_refl j)
      · simp [memGet]
    · rename_i hj
      split
      · rename_i hlt
        split
        · rename_i hb
          rw [hb]
          simp only [memGet, hj, if_false]
          exact memGet_below m j v h a (by omega)
        · simp [memGet]
      · simp [memGet, hj, ih hm]

theorem memGet_memSet_ne (m : Mem) (a n : Nat) (b : Byte) (h : n ≠ a) : memGet (memSet m a b) n = memGet m n := by
  induction m with
  | nil => simp only [memSet]; split <;> simp [memGet, Ne.symm h]
  | cons e m ih =>
    obtain ⟨j, v⟩ := e
    simp only [memSet]
    split
    · rename_i hj
      subst hj
      split <;> simp [memGet, Ne.symm h]
    · split
      · split <;> simp [memGet, Ne.symm h]
      · simp [memGet, ih]

/-- A write of one byte keeps the canonical form. -/
theorem memSet_wf (m : Mem) (a : Nat) (b : Byte) (h : Memory.wf m = true) : Memory.wf (memSet m a b) = true := by
  have head : ∀ (l : Mem), Memory.wf l = true → ∀ j v, v ≠ unlisted → (∀ k u r, l = (k, u) :: r → j < k) → Memory.wf ((j, v) :: l) = true := by
    intro l hl j v hv hj
    cases l with
    | nil => simp [Memory.wf, hv]
    | cons e l => obtain ⟨k, u⟩ := e; simp [Memory.wf, hv, hj k u l rfl, hl]
  have tail : ∀ (j : Nat) (v : Byte) (l : Mem), Memory.wf ((j, v) :: l) = true →
      Memory.wf l = true ∧ v ≠ unlisted ∧ ∀ k u r, l = (k, u) :: r → j < k := by
    intro j v l hl
    cases l with
    | nil => simp_all [Memory.wf]
    | cons e l => obtain ⟨k, u⟩ := e; simp_all [Memory.wf]
  induction m with
  | nil =>
    simp only [memSet]
    split
    · rfl
    · rename_i hb
      exact head [] rfl a b hb (by simp)
  | cons e m ih =>
    obtain ⟨j, v⟩ := e
    obtain ⟨hm, hv, hj⟩ := tail j v m h
    simp only [memSet]
    split
    · rename_i hja
      subst hja
      split
      · exact hm
      · exact head m hm j b ‹_› hj
    · split
      · split
        · exact h
        · refine head _ h a b ‹_› ?_
          intro k u r hr
          injection hr with hr _
          injection hr with hr _
          omega
      · refine head _ (ih hm) j v hv ?_
        intro k u r hr
        cases m with
        | nil =>
          simp only [memSet] at hr
          split at hr <;> simp at hr
          omega
        | cons e m =>
          obtain ⟨k', u'⟩ := e
          have := hj k' u' m rfl
          simp only [memSet] at hr
          split at hr
          · split at hr
            · cases m with
              | nil => simp at hr
              | cons e2 m2 =>
                obtain ⟨k2, u2⟩ := e2
                have h2 := (tail k' u' _ hm).2.2 k2 u2 m2 rfl
                simp at hr
                omega
            · simp at hr
              omega
          · split at hr
            · split at hr <;> simp at hr <;> omega
            · simp at hr
              omega

/-- A write of bytes keeps the canonical form. -/
theorem memWrite_wf (m : Mem) (a : Nat) (bs : List Byte) (h : Memory.wf m = true) : Memory.wf (memWrite m a bs) = true := by
  induction bs generalizing m a with
  | nil => exact h
  | cons b bs ih => exact ih _ _ (memSet_wf m a b h)

/-- A byte outside those written reads as before. -/
theorem memGet_memWrite_ne (m : Mem) (a n : Nat) (bs : List Byte) (h : n < a ∨ a + bs.length ≤ n) :
    memGet (memWrite m a bs) n = memGet m n := by
  induction bs generalizing m a with
  | nil => rfl
  | cons b bs ih =>
    simp only [List.length_cons] at h
    rw [memWrite, ih _ _ (by omega), memGet_memSet_ne _ _ _ _ (by omega)]

/-- The bytes written read back. -/
theorem memGet_memWrite (m : Mem) (a i : Nat) (bs : List Byte) (h : Memory.wf m = true) (hi : i < bs.length) :
    memGet (memWrite m a bs) (a + i) = bs[i] := by
  induction bs generalizing m a i with
  | nil => simp at hi
  | cons b bs ih =>
    cases i with
    | zero =>
      simp only [memWrite, Nat.add_zero]
      rw [memGet_memWrite_ne _ _ _ _ (by omega)]
      simpa using memGet_memSet_same m a b h
    | succ i =>
      have := ih (memSet m a b) (a + 1) i (memSet_wf m a b h) (by simpa using hi)
      simpa [memWrite, Nat.add_assoc, Nat.add_comm 1 i] using this

end Sys2Proof.Machine
end

