-- ==== Sys2Proof/Laws/PerInstr.lean ====
section
/-! SUPPORT. The word of an instruction taken apart, per constructor: its row gives the instruction's own fields back, with no
reserved bit and no register bit beyond its file set (R220, R221, R238). -/

set_option Elab.async false
set_option linter.unusedSimpArgs false

namespace Sys2Proof.Laws.RowWord

/-- The word of a well-formed instruction has the row of exactly that instruction. -/
def Statement (i : Instr) : Prop := i.wf = true → ∀ w ∈ encode i, rowOf w = some (Row.mk i 0#32 0#32)

theorem extract_low {v w : Nat} {x : BitVec v} {y : BitVec w} {p n : Nat} (h : p + n ≤ w) :
    (x ++ y).extractLsb' p n = y.extractLsb' p n := BitVec.extractLsb'_append_eq_of_add_le h

theorem extract_high {v w : Nat} {x : BitVec v} {y : BitVec w} {p n : Nat} (h : w ≤ p) :
    (x ++ y).extractLsb' p n = x.extractLsb' (p - w) n := BitVec.extractLsb'_append_eq_of_le h

theorem nop : Statement (.nop) := by
  intro wf word hw
  have hw : word = (0x00#8 ++ 0#24 : BitVec 32) := List.mem_singleton.mp hw
  have hg : word.extractLsb' 29 3 = 0#3 := by
    subst hw; simp (disch := decide) only [extract_low, extract_high]; rfl
  have ho : word.extractLsb' 24 5 = 0#5 := by
    subst hw; simp (disch := decide) only [extract_low, extract_high]; rfl
  have hm : word &&& 0x00FFFFFF#32 = 0x00000000#32 := by
    rw [hw, show (0x00FFFFFF#32 : BitVec 32) = 0#8 ++ 16777215#24 from by decide, BitVec.and_append]
    rfl
  simp [rowOf, engineOf, rowScl, hg, ho, hm]

theorem add (d : BitVec 5) (a : BitVec 5) (b : BitVec 5) (s : BitVec 3) : Statement (.add d a b s) := by
  intro wf word hw
  have hw : word = (0x01#8 ++ d ++ a ++ b ++ 0#6 ++ s : BitVec 32) := List.mem_singleton.mp hw
  have hg : word.extractLsb' 29 3 = 0#3 := by
    subst hw; simp (disch := decide) only [extract_low, extract_high]; rfl
  have ho : word.extractLsb' 24 5 = 1#5 := by
    subst hw; simp (disch := decide) only [extract_low, extract_high]; rfl
  have f0 : word.extractLsb' 19 5 = d := by
    subst hw; simp (disch := decide) only [extract_low, extract_high]; simp
  have f1 : word.extractLsb' 14 5 = a := by
    subst hw; simp (disch := decide) only [extract_low, extract_high]; simp
  have f2 : word.extractLsb' 9 5 = b := by
    subst hw; simp (disch := decide) only [extract_low, extract_high]; simp
  have f3 : word.extractLsb' 0 3 = s := by
    subst hw; simp (disch := decide) only [extract_low, extract_high]; simp
  have hm : word &&& 0x000001F8#32 = 0x00000000#32 := by
    rw [hw, show (0x000001F8#32 : BitVec 32) = 0#8 ++ 0#5 ++ 0#5 ++ 0#5 ++ 63#6 ++ 0#3 from by decide, BitVec.and_append]
    simp only [BitVec.and_append, BitVec.and_zero]; rfl
  simp [rowOf, engineOf, rowScl, hg, ho, f0, f1, f2, f3, hm]

theorem sub (d : BitVec 5) (a : BitVec 5) (b : BitVec 5) (s : BitVec 3) : Statement (.sub d a b s) := by
  intro wf word hw
  have hw : word = (0x02#8 ++ d ++ a ++ b ++ 0#6 ++ s : BitVec 32) := List.mem_singleton.mp hw
  have hg : word.extractLsb' 29 3 = 0#3 := by
    subst hw; simp (disch := decide) only [extract_low, extract_high]; rfl
  have ho : word.extractLsb' 24 5 = 2#5 := by
    subst hw; simp (disch := decide) only [extract_low, extract_high]; rfl
  have f0 : word.extractLsb' 19 5 = d := by
    subst hw; simp (disch := decide) only [extract_low, extract_high]; simp
  have f1 : word.extractLsb' 14 5 = a := by
    subst hw; simp (disch := decide) only [extract_low, extract_high]; simp
  have f2 : word.extractLsb' 9 5 = b := by
    subst hw; simp (disch := decide) only [extract_low, extract_high]; simp
  have f3 : word.extractLsb' 0 3 = s := by
    subst hw; simp (disch := decide) only [extract_low, extract_high]; simp
  have hm : word &&& 0x000001F8#32 = 0x00000000#32 := by
    rw [hw, show (0x000001F8#32 : BitVec 32) = 0#8 ++ 0#5 ++ 0#5 ++ 0#5 ++ 63#6 ++ 0#3 from by decide, BitVec.and_append]
    simp only [BitVec.and_append, BitVec.and_zero]; rfl
  simp [rowOf, engineOf, rowScl, hg, ho, f0, f1, f2, f3, hm]

theorem addi (d : BitVec 5) (a : BitVec 5) (i : BitVec 14) : Statement (.addi d a i) := by
  intro wf word hw
  have hw : word = (0x03#8 ++ d ++ a ++ i : BitVec 32) := List.mem_singleton.mp hw
  have hg : word.extractLsb' 29 3 = 0#3 := by
    subst hw; simp (disch := decide) only [extract_low, extract_high]; rfl
  have ho : word.extractLsb' 24 5 = 3#5 := by
    subst hw; simp (disch := decide) only [extract_low, extract_high]; rfl
  have f0 : word.extractLsb' 19 5 = d := by
    subst hw; simp (disch := decide) only [extract_low, extract_high]; simp
  have f1 : word.extractLsb' 14 5 = a := by
    subst hw; simp (disch := decide) only [extract_low, extract_high]; simp
  have f2 : word.extractLsb' 0 14 = i := by
    subst hw; simp (disch := decide) only [extract_low, extract_high]; simp
  have hm : word &&& 0#32 = 0#32 := BitVec.and_zero
  simp [rowOf, engineOf, rowScl, hg, ho, f0, f1, f2, hm]

theorem mul (d : BitVec 5) (a : BitVec 5) (b : BitVec 5) : Statement (.mul d a b) := by
  intro wf word hw
  have hw : word = (0x04#8 ++ d ++ a ++ b ++ 0#9 : BitVec 32) := List.mem_singleton.mp hw
  have hg : word.extractLsb' 29 3 = 0#3 := by
    subst hw; simp (disch := decide) only [extract_low, extract_high]; rfl
  have ho : word.extractLsb' 24 5 = 4#5 := by
    subst hw; simp (disch := decide) only [extract_low, extract_high]; rfl
  have f0 : word.extractLsb' 19 5 = d := by
    subst hw; simp (disch := decide) only [extract_low, extract_high]; simp
  have f1 : word.extractLsb' 14 5 = a := by
    subst hw; simp (disch := decide) only [extract_low, extract_high]; simp
  have f2 : word.extractLsb' 9 5 = b := by
    subst hw; simp (disch := decide) only [extract_low, extract_high]; simp
  have hm : word &&& 0x000001FF#32 = 0x00000000#32 := by
    rw [hw, show (0x000001FF#32 : BitVec 32) = 0#8 ++ 0#5 ++ 0#5 ++ 0#5 ++ 511#9 from by decide, BitVec.and_append]
    simp only [BitVec.and_append, BitVec.and_zero]; rfl
  simp [rowOf, engineOf, rowScl, hg, ho, f0, f1, f2, hm]

theorem mulh (d : BitVec 5) (a : BitVec 5) (b : BitVec 5) (u : BitVec 1) : Statement (.mulh d a b u) := by
  intro wf word hw
  have hw : word = (0x05#8 ++ d ++ a ++ b ++ 0#8 ++ u : BitVec 32) := List.mem_singleton.mp hw
  have hg : word.extractLsb' 29 3 = 0#3 := by
    subst hw; simp (disch := decide) only [extract_low, extract_high]; rfl
  have ho : word.extractLsb' 24 5 = 5#5 := by
    subst hw; simp (disch := decide) only [extract_low, extract_high]; rfl
  have f0 : word.extractLsb' 19 5 = d := by
    subst hw; simp (disch := decide) only [extract_low, extract_high]; simp
  have f1 : word.extractLsb' 14 5 = a := by
    subst hw; simp (disch := decide) only [extract_low, extract_high]; simp
  have f2 : word.extractLsb' 9 5 = b := by
    subst hw; simp (disch := decide) only [extract_low, extract_high]; simp
  have f3 : word.extractLsb' 0 1 = u := by
    subst hw; simp (disch := decide) only [extract_low, extract_high]; simp
  have hm : word &&& 0x000001FE#32 = 0x00000000#32 := by
    rw [hw, show (0x000001FE#32 : BitVec 32) = 0#8 ++ 0#5 ++ 0#5 ++ 0#5 ++ 255#8 ++ 0#1 from by decide, BitVec.and_append]
    simp only [BitVec.and_append, BitVec.and_zero]; rfl
  simp [rowOf, engineOf, rowScl, hg, ho, f0, f1, f2, f3, hm]

theorem div (d : BitVec 5) (a : BitVec 5) (b : BitVec 5) (u : BitVec 1) : Statement (.div d a b u) := by
  intro wf word hw
  have hw : word = (0x06#8 ++ d ++ a ++ b ++ 0#8 ++ u : BitVec 32) := List.mem_singleton.mp hw
  have hg : word.extractLsb' 29 3 = 0#3 := by
    subst hw; simp (disch := decide) only [extract_low, extract_high]; rfl
  have ho : word.extractLsb' 24 5 = 6#5 := by
    subst hw; simp (disch := decide) only [extract_low, extract_high]; rfl
  have f0 : word.extractLsb' 19 5 = d := by
    subst hw; simp (disch := decide) only [extract_low, extract_high]; simp
  have f1 : word.extractLsb' 14 5 = a := by
    subst hw; simp (disch := decide) only [extract_low, extract_high]; simp
  have f2 : word.extractLsb' 9 5 = b := by
    subst hw; simp (disch := decide) only [extract_low, extract_high]; simp
  have f3 : word.extractLsb' 0 1 = u := by
    subst hw; simp (disch := decide) only [extract_low, extract_high]; simp
  have hm : word &&& 0x000001FE#32 = 0x00000000#32 := by
    rw [hw, show (0x000001FE#32 : BitVec 32) = 0#8 ++ 0#5 ++ 0#5 ++ 0#5 ++ 255#8 ++ 0#1 from by decide, BitVec.and_append]
    simp only [BitVec.and_append, BitVec.and_zero]; rfl
  simp [rowOf, engineOf, rowScl, hg, ho, f0, f1, f2, f3, hm]

theorem rem (d : BitVec 5) (a : BitVec 5) (b : BitVec 5) (u : BitVec 1) : Statement (.rem d a b u) := by
  intro wf word hw
  have hw : word = (0x07#8 ++ d ++ a ++ b ++ 0#8 ++ u : BitVec 32) := List.mem_singleton.mp hw
  have hg : word.extractLsb' 29 3 = 0#3 := by
    subst hw; simp (disch := decide) only [extract_low, extract_high]; rfl
  have ho : word.extractLsb' 24 5 = 7#5 := by
    subst hw; simp (disch := decide) only [extract_low, extract_high]; rfl
  have f0 : word.extractLsb' 19 5 = d := by
    subst hw; simp (disch := decide) only [extract_low, extract_high]; simp
  have f1 : word.extractLsb' 14 5 = a := by
    subst hw; simp (disch := decide) only [extract_low, extract_high]; simp
  have f2 : word.extractLsb' 9 5 = b := by
    subst hw; simp (disch := decide) only [extract_low, extract_high]; simp
  have f3 : word.extractLsb' 0 1 = u := by
    subst hw; simp (disch := decide) only [extract_low, extract_high]; simp
  have hm : word &&& 0x000001FE#32 = 0x00000000#32 := by
    rw [hw, show (0x000001FE#32 : BitVec 32) = 0#8 ++ 0#5 ++ 0#5 ++ 0#5 ++ 255#8 ++ 0#1 from by decide, BitVec.and_append]
    simp only [BitVec.and_append, BitVec.and_zero]; rfl
  simp [rowOf, engineOf, rowScl, hg, ho, f0, f1, f2, f3, hm]

theorem and (d : BitVec 5) (a : BitVec 5) (b : BitVec 5) : Statement (.and d a b) := by
  intro wf word hw
  have hw : word = (0x08#8 ++ d ++ a ++ b ++ 0#9 : BitVec 32) := List.mem_singleton.mp hw
  have hg : word.extractLsb' 29 3 = 0#3 := by
    subst hw; simp (disch := decide) only [extract_low, extract_high]; rfl
  have ho : word.extractLsb' 24 5 = 8#5 := by
    subst hw; simp (disch := decide) only [extract_low, extract_high]; rfl
  have f0 : word.extractLsb' 19 5 = d := by
    subst hw; simp (disch := decide) only [extract_low, extract_high]; simp
  have f1 : word.extractLsb' 14 5 = a := by
    subst hw; simp (disch := decide) only [extract_low, extract_high]; simp
  have f2 : word.extractLsb' 9 5 = b := by
    subst hw; simp (disch := decide) only [extract_low, extract_high]; simp
  have hm : word &&& 0x000001FF#32 = 0x00000000#32 := by
    rw [hw, show (0x000001FF#32 : BitVec 32) = 0#8 ++ 0#5 ++ 0#5 ++ 0#5 ++ 511#9 from by decide, BitVec.and_append]
    simp only [BitVec.and_append, BitVec.and_zero]; rfl
  simp [rowOf, engineOf, rowScl, hg, ho, f0, f1, f2, hm]

theorem or (d : BitVec 5) (a : BitVec 5) (b : BitVec 5) : Statement (.or d a b) := by
  intro wf word hw
  have hw : word = (0x09#8 ++ d ++ a ++ b ++ 0#9 : BitVec 32) := List.mem_singleton.mp hw
  have hg : word.extractLsb' 29 3 = 0#3 := by
    subst hw; simp (disch := decide) only [extract_low, extract_high]; rfl
  have ho : word.extractLsb' 24 5 = 9#5 := by
    subst hw; simp (disch := decide) only [extract_low, extract_high]; rfl
  have f0 : word.extractLsb' 19 5 = d := by
    subst hw; simp (disch := decide) only [extract_low, extract_high]; simp
  have f1 : word.extractLsb' 14 5 = a := by
    subst hw; simp (disch := decide) only [extract_low, extract_high]; simp
  have f2 : word.extractLsb' 9 5 = b := by
    subst hw; simp (disch := decide) only [extract_low, extract_high]; simp
  have hm : word &&& 0x000001FF#32 = 0x00000000#32 := by
    rw [hw, show (0x000001FF#32 : BitVec 32) = 0#8 ++ 0#5 ++ 0#5 ++ 0#5 ++ 511#9 from by decide, BitVec.and_append]
    simp only [BitVec.and_append, BitVec.and_zero]; rfl
  simp [rowOf, engineOf, rowScl, hg, ho, f0, f1, f2, hm]

theorem xor (d : BitVec 5) (a : BitVec 5) (b : BitVec 5) : Statement (.xor d a b) := by
  intro wf word hw
  have hw : word = (0x0A#8 ++ d ++ a ++ b ++ 0#9 : BitVec 32) := List.mem_singleton.mp hw
  have hg : word.extractLsb' 29 3 = 0#3 := by
    subst hw; simp (disch := decide) only [extract_low, extract_high]; rfl
  have ho : word.extractLsb' 24 5 = 10#5 := by
    subst hw; simp (disch := decide) only [extract_low, extract_high]; rfl
  have f0 : word.extractLsb' 19 5 = d := by
    subst hw; simp (disch := decide) only [extract_low, extract_high]; simp
  have f1 : word.extractLsb' 14 5 = a := by
    subst hw; simp (disch := decide) only [extract_low, extract_high]; simp
  have f2 : word.extractLsb' 9 5 = b := by
    subst hw; simp (disch := decide) only [extract_low, extract_high]; simp
  have hm : word &&& 0x000001FF#32 = 0x00000000#32 := by
    rw [hw, show (0x000001FF#32 : BitVec 32) = 0#8 ++ 0#5 ++ 0#5 ++ 0#5 ++ 511#9 from by decide, BitVec.and_append]
    simp only [BitVec.and_append, BitVec.and_zero]; rfl
  simp [rowOf, engineOf, rowScl, hg, ho, f0, f1, f2, hm]

theorem logi (d : BitVec 5) (a : BitVec 5) (f : BitVec 3) (i : BitVec 11) : Statement (.logi d a f i) := by
  intro wf word hw
  have hw : word = (0x0B#8 ++ d ++ a ++ f ++ i : BitVec 32) := List.mem_singleton.mp hw
  have hg : word.extractLsb' 29 3 = 0#3 := by
    subst hw; simp (disch := decide) only [extract_low, extract_high]; rfl
  have ho : word.extractLsb' 24 5 = 11#5 := by
    subst hw; simp (disch := decide) only [extract_low, extract_high]; rfl
  have f0 : word.extractLsb' 19 5 = d := by
    subst hw; simp (disch := decide) only [extract_low, extract_high]; simp
  have f1 : word.extractLsb' 14 5 = a := by
    subst hw; simp (disch := decide) only [extract_low, extract_high]; simp
  have f2 : word.extractLsb' 11 3 = f := by
    subst hw; simp (disch := decide) only [extract_low, extract_high]; simp
  have f3 : word.extractLsb' 0 11 = i := by
    subst hw; simp (disch := decide) only [extract_low, extract_high]; simp
  have hm : word &&& 0#32 = 0#32 := BitVec.and_zero
  simp [rowOf, engineOf, rowScl, hg, ho, f0, f1, f2, f3, hm]

theorem shift (d : BitVec 5) (a : BitVec 5) (b : BitVec 5) (f : BitVec 2) : Statement (.shift d a b f) := by
  intro wf word hw
  have hw : word = (0x0C#8 ++ d ++ a ++ b ++ 0#7 ++ f : BitVec 32) := List.mem_singleton.mp hw
  have hg : word.extractLsb' 29 3 = 0#3 := by
    subst hw; simp (disch := decide) only [extract_low, extract_high]; rfl
  have ho : word.extractLsb' 24 5 = 12#5 := by
    subst hw; simp (disch := decide) only [extract_low, extract_high]; rfl
  have f0 : word.extractLsb' 19 5 = d := by
    subst hw; simp (disch := decide) only [extract_low, extract_high]; simp
  have f1 : word.extractLsb' 14 5 = a := by
    subst hw; simp (disch := decide) only [extract_low, extract_high]; simp
  have f2 : word.extractLsb' 9 5 = b := by
    subst hw; simp (disch := decide) only [extract_low, extract_high]; simp
  have f3 : word.extractLsb' 0 2 = f := by
    subst hw; simp (disch := decide) only [extract_low, extract_high]; simp
  have hm : word &&& 0x000001FC#32 = 0x00000000#32 := by
    rw [hw, show (0x000001FC#32 : BitVec 32) = 0#8 ++ 0#5 ++ 0#5 ++ 0#5 ++ 127#7 ++ 0#2 from by decide, BitVec.and_append]
    simp only [BitVec.and_append, BitVec.and_zero]; rfl
  simp [rowOf, engineOf, rowScl, hg, ho, f0, f1, f2, f3, hm]

theorem shifti (d : BitVec 5) (a : BitVec 5) (f : BitVec 2) (n : BitVec 6) : Statement (.shifti d a f n) := by
  intro wf word hw
  have hw : word = (0x0D#8 ++ d ++ a ++ f ++ 0#6 ++ n : BitVec 32) := List.mem_singleton.mp hw
  have hg : word.extractLsb' 29 3 = 0#3 := by
    subst hw; simp (disch := decide) only [extract_low, extract_high]; rfl
  have ho : word.extractLsb' 24 5 = 13#5 := by
    subst hw; simp (disch := decide) only [extract_low, extract_high]; rfl
  have f0 : word.extractLsb' 19 5 = d := by
    subst hw; simp (disch := decide) only [extract_low, extract_high]; simp
  have f1 : word.extractLsb' 14 5 = a := by
    subst hw; simp (disch := decide) only [extract_low, extract_high]; simp
  have f2 : word.extractLsb' 12 2 = f := by
    subst hw; simp (disch := decide) only [extract_low, extract_high]; simp
  have f3 : word.extractLsb' 0 6 = n := by
    subst hw; simp (disch := decide) only [extract_low, extract_high]; simp
  have hm : word &&& 0x00000FC0#32 = 0x00000000#32 := by
    rw [hw, show (0x00000FC0#32 : BitVec 32) = 0#8 ++ 0#5 ++ 0#5 ++ 0#2 ++ 63#6 ++ 0#6 from by decide, BitVec.and_append]
    simp only [BitVec.and_append, BitVec.and_zero]; rfl
  simp [rowOf, engineOf, rowScl, hg, ho, f0, f1, f2, f3, hm]

theorem cmp (d : BitVec 5) (a : BitVec 5) (b : BitVec 5) (f : BitVec 3) : Statement (.cmp d a b f) := by
  intro wf word hw
  have hw : word = (0x0E#8 ++ d ++ a ++ b ++ 0#6 ++ f : BitVec 32) := List.mem_singleton.mp hw
  have hg : word.extractLsb' 29 3 = 0#3 := by
    subst hw; simp (disch := decide) only [extract_low, extract_high]; rfl
  have ho : word.extractLsb' 24 5 = 14#5 := by
    subst hw; simp (disch := decide) only [extract_low, extract_high]; rfl
  have f0 : word.extractLsb' 19 5 = d := by
    subst hw; simp (disch := decide) only [extract_low, extract_high]; simp
  have f1 : word.extractLsb' 14 5 = a := by
    subst hw; simp (disch := decide) only [extract_low, extract_high]; simp
  have f2 : word.extractLsb' 9 5 = b := by
    subst hw; simp (disch := decide) only [extract_low, extract_high]; simp
  have f3 : word.extractLsb' 0 3 = f := by
    subst hw; simp (disch := decide) only [extract_low, extract_high]; simp
  have hm : word &&& 0x000001F8#32 = 0x00000000#32 := by
    rw [hw, show (0x000001F8#32 : BitVec 32) = 0#8 ++ 0#5 ++ 0#5 ++ 0#5 ++ 63#6 ++ 0#3 from by decide, BitVec.and_append]
    simp only [BitVec.and_append, BitVec.and_zero]; rfl
  simp [rowOf, engineOf, rowScl, hg, ho, f0, f1, f2, f3, hm]

theorem cmpi (d : BitVec 5) (a : BitVec 5) (f : BitVec 3) (i : BitVec 11) : Statement (.cmpi d a f i) := by
  intro wf word hw
  have hw : word = (0x0F#8 ++ d ++ a ++ f ++ i : BitVec 32) := List.mem_singleton.mp hw
  have hg : word.extractLsb' 29 3 = 0#3 := by
    subst hw; simp (disch := decide) only [extract_low, extract_high]; rfl
  have ho : word.extractLsb' 24 5 = 15#5 := by
    subst hw; simp (disch := decide) only [extract_low, extract_high]; rfl
  have f0 : word.extractLsb' 19 5 = d := by
    subst hw; simp (disch := decide) only [extract_low, extract_high]; simp
  have f1 : word.extractLsb' 14 5 = a := by
    subst hw; simp (disch := decide) only [extract_low, extract_high]; simp
  have f2 : word.extractLsb' 11 3 = f := by
    subst hw; simp (disch := decide) only [extract_low, extract_high]; simp
  have f3 : word.extractLsb' 0 11 = i := by
    subst hw; simp (disch := decide) only [extract_low, extract_high]; simp
  have hm : word &&& 0#32 = 0#32 := BitVec.and_zero
  simp [rowOf, engineOf, rowScl, hg, ho, f0, f1, f2, f3, hm]

theorem min (d : BitVec 5) (a : BitVec 5) (b : BitVec 5) (u : BitVec 1) : Statement (.min d a b u) := by
  intro wf word hw
  have hw : word = (0x10#8 ++ d ++ a ++ b ++ 0#8 ++ u : BitVec 32) := List.mem_singleton.mp hw
  have hg : word.extractLsb' 29 3 = 0#3 := by
    subst hw; simp (disch := decide) only [extract_low, extract_high]; rfl
  have ho : word.extractLsb' 24 5 = 16#5 := by
    subst hw; simp (disch := decide) only [extract_low, extract_high]; rfl
  have f0 : word.extractLsb' 19 5 = d := by
    subst hw; simp (disch := decide) only [extract_low, extract_high]; simp
  have f1 : word.extractLsb' 14 5 = a := by
    subst hw; simp (disch := decide) only [extract_low, extract_high]; simp
  have f2 : word.extractLsb' 9 5 = b := by
    subst hw; simp (disch := decide) only [extract_low, extract_high]; simp
  have f3 : word.extractLsb' 0 1 = u := by
    subst hw; simp (disch := decide) only [extract_low, extract_high]; simp
  have hm : word &&& 0x000001FE#32 = 0x00000000#32 := by
    rw [hw, show (0x000001FE#32 : BitVec 32) = 0#8 ++ 0#5 ++ 0#5 ++ 0#5 ++ 255#8 ++ 0#1 from by decide, BitVec.and_append]
    simp only [BitVec.and_append, BitVec.and_zero]; rfl
  simp [rowOf, engineOf, rowScl, hg, ho, f0, f1, f2, f3, hm]

theorem max (d : BitVec 5) (a : BitVec 5) (b : BitVec 5) (u : BitVec 1) : Statement (.max d a b u) := by
  intro wf word hw
  have hw : word = (0x11#8 ++ d ++ a ++ b ++ 0#8 ++ u : BitVec 32) := List.mem_singleton.mp hw
  have hg : word.extractLsb' 29 3 = 0#3 := by
    subst hw; simp (disch := decide) only [extract_low, extract_high]; rfl
  have ho : word.extractLsb' 24 5 = 17#5 := by
    subst hw; simp (disch := decide) only [extract_low, extract_high]; rfl
  have f0 : word.extractLsb' 19 5 = d := by
    subst hw; simp (disch := decide) only [extract_low, extract_high]; simp
  have f1 : word.extractLsb' 14 5 = a := by
    subst hw; simp (disch := decide) only [extract_low, extract_high]; simp
  have f2 : word.extractLsb' 9 5 = b := by
    subst hw; simp (disch := decide) only [extract_low, extract_high]; simp
  have f3 : word.extractLsb' 0 1 = u := by
    subst hw; simp (disch := decide) only [extract_low, extract_high]; simp
  have hm : word &&& 0x000001FE#32 = 0x00000000#32 := by
    rw [hw, show (0x000001FE#32 : BitVec 32) = 0#8 ++ 0#5 ++ 0#5 ++ 0#5 ++ 255#8 ++ 0#1 from by decide, BitVec.and_append]
    simp only [BitVec.and_append, BitVec.and_zero]; rfl
  simp [rowOf, engineOf, rowScl, hg, ho, f0, f1, f2, f3, hm]

theorem sel (d : BitVec 5) (a : BitVec 5) (b : BitVec 5) (c : BitVec 3) (x : BitVec 5) : Statement (.sel d a b c x) := by
  intro wf word hw
  have hw : word = (0x12#8 ++ d ++ a ++ b ++ 0#1 ++ c ++ x : BitVec 32) := List.mem_singleton.mp hw
  have hg : word.extractLsb' 29 3 = 0#3 := by
    subst hw; simp (disch := decide) only [extract_low, extract_high]; rfl
  have ho : word.extractLsb' 24 5 = 18#5 := by
    subst hw; simp (disch := decide) only [extract_low, extract_high]; rfl
  have f0 : word.extractLsb' 19 5 = d := by
    subst hw; simp (disch := decide) only [extract_low, extract_high]; simp
  have f1 : word.extractLsb' 14 5 = a := by
    subst hw; simp (disch := decide) only [extract_low, extract_high]; simp
  have f2 : word.extractLsb' 9 5 = b := by
    subst hw; simp (disch := decide) only [extract_low, extract_high]; simp
  have f3 : word.extractLsb' 5 3 = c := by
    subst hw; simp (disch := decide) only [extract_low, extract_high]; simp
  have f4 : word.extractLsb' 0 5 = x := by
    subst hw; simp (disch := decide) only [extract_low, extract_high]; simp
  have hm : word &&& 0x00000100#32 = 0x00000000#32 := by
    rw [hw, show (0x00000100#32 : BitVec 32) = 0#8 ++ 0#5 ++ 0#5 ++ 0#5 ++ 1#1 ++ 0#3 ++ 0#5 from by decide, BitVec.and_append]
    simp only [BitVec.and_append, BitVec.and_zero]; rfl
  simp [rowOf, engineOf, rowScl, hg, ho, f0, f1, f2, f3, f4, hm]

theorem bitc (d : BitVec 5) (a : BitVec 5) (w : BitVec 1) (o : BitVec 2) : Statement (.bitc d a w o) := by
  intro wf word hw
  have hw : word = (0x13#8 ++ d ++ a ++ 0#11 ++ w ++ o : BitVec 32) := List.mem_singleton.mp hw
  have hg : word.extractLsb' 29 3 = 0#3 := by
    subst hw; simp (disch := decide) only [extract_low, extract_high]; rfl
  have ho : word.extractLsb' 24 5 = 19#5 := by
    subst hw; simp (disch := decide) only [extract_low, extract_high]; rfl
  have f0 : word.extractLsb' 19 5 = d := by
    subst hw; simp (disch := decide) only [extract_low, extract_high]; simp
  have f1 : word.extractLsb' 14 5 = a := by
    subst hw; simp (disch := decide) only [extract_low, extract_high]; simp
  have f2 : word.extractLsb' 2 1 = w := by
    subst hw; simp (disch := decide) only [extract_low, extract_high]; simp
  have f3 : word.extractLsb' 0 2 = o := by
    subst hw; simp (disch := decide) only [extract_low, extract_high]; simp
  have hm : word &&& 0x00003FF8#32 = 0x00000000#32 := by
    rw [hw, show (0x00003FF8#32 : BitVec 32) = 0#8 ++ 0#5 ++ 0#5 ++ 2047#11 ++ 0#1 ++ 0#2 from by decide, BitVec.and_append]
    simp only [BitVec.and_append, BitVec.and_zero]; rfl
  simp [rowOf, engineOf, rowScl, hg, ho, f0, f1, f2, f3, hm]

theorem extr (d : BitVec 5) (a : BitVec 5) (s : BitVec 1) (p : BitVec 6) (l : BitVec 6) : Statement (.extr d a s p l) := by
  intro wf word hw
  have hw : word = (0x14#8 ++ d ++ a ++ s ++ 0#1 ++ p ++ l : BitVec 32) := List.mem_singleton.mp hw
  have hg : word.extractLsb' 29 3 = 0#3 := by
    subst hw; simp (disch := decide) only [extract_low, extract_high]; rfl
  have ho : word.extractLsb' 24 5 = 20#5 := by
    subst hw; simp (disch := decide) only [extract_low, extract_high]; rfl
  have f0 : word.extractLsb' 19 5 = d := by
    subst hw; simp (disch := decide) only [extract_low, extract_high]; simp
  have f1 : word.extractLsb' 14 5 = a := by
    subst hw; simp (disch := decide) only [extract_low, extract_high]; simp
  have f2 : word.extractLsb' 13 1 = s := by
    subst hw; simp (disch := decide) only [extract_low, extract_high]; simp
  have f3 : word.extractLsb' 6 6 = p := by
    subst hw; simp (disch := decide) only [extract_low, extract_high]; simp
  have f4 : word.extractLsb' 0 6 = l := by
    subst hw; simp (disch := decide) only [extract_low, extract_high]; simp
  have hm : word &&& 0x00001000#32 = 0x00000000#32 := by
    rw [hw, show (0x00001000#32 : BitVec 32) = 0#8 ++ 0#5 ++ 0#5 ++ 0#1 ++ 1#1 ++ 0#6 ++ 0#6 from by decide, BitVec.and_append]
    simp only [BitVec.and_append, BitVec.and_zero]; rfl
  simp [rowOf, engineOf, rowScl, hg, ho, f0, f1, f2, f3, f4, hm]

theorem insr (d : BitVec 5) (a : BitVec 5) (p : BitVec 6) (l : BitVec 6) : Statement (.insr d a p l) := by
  intro wf word hw
  have hw : word = (0x15#8 ++ d ++ a ++ 0#2 ++ p ++ l : BitVec 32) := List.mem_singleton.mp hw
  have hg : word.extractLsb' 29 3 = 0#3 := by
    subst hw; simp (disch := decide) only [extract_low, extract_high]; rfl
  have ho : word.extractLsb' 24 5 = 21#5 := by
    subst hw; simp (disch := decide) only [extract_low, extract_high]; rfl
  have f0 : word.extractLsb' 19 5 = d := by
    subst hw; simp (disch := decide) only [extract_low, extract_high]; simp
  have f1 : word.extractLsb' 14 5 = a := by
    subst hw; simp (disch := decide) only [extract_low, extract_high]; simp
  have f2 : word.extractLsb' 6 6 = p := by
    subst hw; simp (disch := decide) only [extract_low, extract_high]; simp
  have f3 : word.extractLsb' 0 6 = l := by
    subst hw; simp (disch := decide) only [extract_low, extract_high]; simp
  have hm : word &&& 0x00003000#32 = 0x00000000#32 := by
    rw [hw, show (0x00003000#32 : BitVec 32) = 0#8 ++ 0#5 ++ 0#5 ++ 3#2 ++ 0#6 ++ 0#6 from by decide, BitVec.and_append]
    simp only [BitVec.and_append, BitVec.and_zero]; rfl
  simp [rowOf, engineOf, rowScl, hg, ho, f0, f1, f2, f3, hm]

theorem li (d : BitVec 5) (i : BitVec 19) : Statement (.li d i) := by
  intro wf word hw
  have hw : word = (0x16#8 ++ d ++ i : BitVec 32) := List.mem_singleton.mp hw
  have hg : word.extractLsb' 29 3 = 0#3 := by
    subst hw; simp (disch := decide) only [extract_low, extract_high]; rfl
  have ho : word.extractLsb' 24 5 = 22#5 := by
    subst hw; simp (disch := decide) only [extract_low, extract_high]; rfl
  have f0 : word.extractLsb' 19 5 = d := by
    subst hw; simp (disch := decide) only [extract_low, extract_high]; simp
  have f1 : word.extractLsb' 0 19 = i := by
    subst hw; simp (disch := decide) only [extract_low, extract_high]; simp
  have hm : word &&& 0#32 = 0#32 := BitVec.and_zero
  simp [rowOf, engineOf, rowScl, hg, ho, f0, f1, hm]

theorem lih (d : BitVec 5) (p : BitVec 3) (c : BitVec 16) : Statement (.lih d p c) := by
  intro wf word hw
  have hw : word = (0x17#8 ++ d ++ p ++ c : BitVec 32) := List.mem_singleton.mp hw
  have hg : word.extractLsb' 29 3 = 0#3 := by
    subst hw; simp (disch := decide) only [extract_low, extract_high]; rfl
  have ho : word.extractLsb' 24 5 = 23#5 := by
    subst hw; simp (disch := decide) only [extract_low, extract_high]; rfl
  have f0 : word.extractLsb' 19 5 = d := by
    subst hw; simp (disch := decide) only [extract_low, extract_high]; simp
  have f1 : word.extractLsb' 16 3 = p := by
    subst hw; simp (disch := decide) only [extract_low, extract_high]; simp
  have f2 : word.extractLsb' 0 16 = c := by
    subst hw; simp (disch := decide) only [extract_low, extract_high]; simp
  have hm : word &&& 0#32 = 0#32 := BitVec.and_zero
  simp [rowOf, engineOf, rowScl, hg, ho, f0, f1, f2, hm]

theorem br (c : BitVec 3) (a : BitVec 5) (o : BitVec 16) : Statement (.br c a o) := by
  intro wf word hw
  have hw : word = (0x18#8 ++ c ++ a ++ o : BitVec 32) := List.mem_singleton.mp hw
  have hg : word.extractLsb' 29 3 = 0#3 := by
    subst hw; simp (disch := decide) only [extract_low, extract_high]; rfl
  have ho : word.extractLsb' 24 5 = 24#5 := by
    subst hw; simp (disch := decide) only [extract_low, extract_high]; rfl
  have f0 : word.extractLsb' 21 3 = c := by
    subst hw; simp (disch := decide) only [extract_low, extract_high]; simp
  have f1 : word.extractLsb' 16 5 = a := by
    subst hw; simp (disch := decide) only [extract_low, extract_high]; simp
  have f2 : word.extractLsb' 0 16 = o := by
    subst hw; simp (disch := decide) only [extract_low, extract_high]; simp
  have hm : word &&& 0#32 = 0#32 := BitVec.and_zero
  simp [rowOf, engineOf, rowScl, hg, ho, f0, f1, f2, hm]

theorem jmp (l : BitVec 1) (o : BitVec 23) : Statement (.jmp l o) := by
  intro wf word hw
  have hw : word = (0x19#8 ++ l ++ o : BitVec 32) := List.mem_singleton.mp hw
  have hg : word.extractLsb' 29 3 = 0#3 := by
    subst hw; simp (disch := decide) only [extract_low, extract_high]; rfl
  have ho : word.extractLsb' 24 5 = 25#5 := by
    subst hw; simp (disch := decide) only [extract_low, extract_high]; rfl
  have f0 : word.extractLsb' 23 1 = l := by
    subst hw; simp (disch := decide) only [extract_low, extract_high]; simp
  have f1 : word.extractLsb' 0 23 = o := by
    subst hw; simp (disch := decide) only [extract_low, extract_high]; simp
  have hm : word &&& 0#32 = 0#32 := BitVec.and_zero
  simp [rowOf, engineOf, rowScl, hg, ho, f0, f1, hm]

theorem jmpr (d : BitVec 5) (a : BitVec 5) : Statement (.jmpr d a) := by
  intro wf word hw
  have hw : word = (0x1A#8 ++ d ++ a ++ 0#14 : BitVec 32) := List.mem_singleton.mp hw
  have hg : word.extractLsb' 29 3 = 0#3 := by
    subst hw; simp (disch := decide) only [extract_low, extract_high]; rfl
  have ho : word.extractLsb' 24 5 = 26#5 := by
    subst hw; simp (disch := decide) only [extract_low, extract_high]; rfl
  have f0 : word.extractLsb' 19 5 = d := by
    subst hw; simp (disch := decide) only [extract_low, extract_high]; simp
  have f1 : word.extractLsb' 14 5 = a := by
    subst hw; simp (disch := decide) only [extract_low, extract_high]; simp
  have hm : word &&& 0x00003FFF#32 = 0x00000000#32 := by
    rw [hw, show (0x00003FFF#32 : BitVec 32) = 0#8 ++ 0#5 ++ 0#5 ++ 16383#14 from by decide, BitVec.and_append]
    simp only [BitVec.and_append, BitVec.and_zero]; rfl
  simp [rowOf, engineOf, rowScl, hg, ho, f0, f1, hm]

theorem loop (a : BitVec 5) (i : BitVec 14) : Statement (.loop a i) := by
  intro wf word hw
  have hw : word = (0x1B#8 ++ 0#5 ++ a ++ i : BitVec 32) := List.mem_singleton.mp hw
  have hg : word.extractLsb' 29 3 = 0#3 := by
    subst hw; simp (disch := decide) only [extract_low, extract_high]; rfl
  have ho : word.extractLsb' 24 5 = 27#5 := by
    subst hw; simp (disch := decide) only [extract_low, extract_high]; rfl
  have f0 : word.extractLsb' 14 5 = a := by
    subst hw; simp (disch := decide) only [extract_low, extract_high]; simp
  have f1 : word.extractLsb' 0 14 = i := by
    subst hw; simp (disch := decide) only [extract_low, extract_high]; simp
  have hm : word &&& 0x00F80000#32 = 0x00000000#32 := by
    rw [hw, show (0x00F80000#32 : BitVec 32) = 0#8 ++ 31#5 ++ 0#5 ++ 0#14 from by decide, BitVec.and_append]
    simp only [BitVec.and_append, BitVec.and_zero]; rfl
  simp [rowOf, engineOf, rowScl, hg, ho, f0, f1, hm]

theorem lexit (a : BitVec 5) (n : BitVec 3) : Statement (.lexit a n) := by
  intro wf word hw
  have hw : word = (0x1C#8 ++ 0#5 ++ a ++ 0#11 ++ n : BitVec 32) := List.mem_singleton.mp hw
  have hg : word.extractLsb' 29 3 = 0#3 := by
    subst hw; simp (disch := decide) only [extract_low, extract_high]; rfl
  have ho : word.extractLsb' 24 5 = 28#5 := by
    subst hw; simp (disch := decide) only [extract_low, extract_high]; rfl
  have f0 : word.extractLsb' 14 5 = a := by
    subst hw; simp (disch := decide) only [extract_low, extract_high]; simp
  have f1 : word.extractLsb' 0 3 = n := by
    subst hw; simp (disch := decide) only [extract_low, extract_high]; simp
  have hm : word &&& 0x00F83FF8#32 = 0x00000000#32 := by
    rw [hw, show (0x00F83FF8#32 : BitVec 32) = 0#8 ++ 31#5 ++ 0#5 ++ 2047#11 ++ 0#3 from by decide, BitVec.and_append]
    simp only [BitVec.and_append, BitVec.and_zero]; rfl
  simp [rowOf, engineOf, rowScl, hg, ho, f0, f1, hm]

theorem lidx (d : BitVec 5) (l : BitVec 3) : Statement (.lidx d l) := by
  intro wf word hw
  have hw : word = (0x1D#8 ++ d ++ 0#16 ++ l : BitVec 32) := List.mem_singleton.mp hw
  have hg : word.extractLsb' 29 3 = 0#3 := by
    subst hw; simp (disch := decide) only [extract_low, extract_high]; rfl
  have ho : word.extractLsb' 24 5 = 29#5 := by
    subst hw; simp (disch := decide) only [extract_low, extract_high]; rfl
  have f0 : word.extractLsb' 19 5 = d := by
    subst hw; simp (disch := decide) only [extract_low, extract_high]; simp
  have f1 : word.extractLsb' 0 3 = l := by
    subst hw; simp (disch := decide) only [extract_low, extract_high]; simp
  have hm : word &&& 0x0007FFF8#32 = 0x00000000#32 := by
    rw [hw, show (0x0007FFF8#32 : BitVec 32) = 0#8 ++ 0#5 ++ 65535#16 ++ 0#3 from by decide, BitVec.and_append]
    simp only [BitVec.and_append, BitVec.and_zero]; rfl
  simp [rowOf, engineOf, rowScl, hg, ho, f0, f1, hm]

theorem ld (d : BitVec 5) (h : BitVec 3) (a : BitVec 5) (w : BitVec 3) (o : BitVec 2) (i : BitVec 6) : Statement (.ld d h a w o i) := by
  intro wf word hw
  have hw : word = (0x20#8 ++ d ++ h ++ a ++ w ++ o ++ i : BitVec 32) := List.mem_singleton.mp hw
  have hg : word.extractLsb' 29 3 = 1#3 := by
    subst hw; simp (disch := decide) only [extract_low, extract_high]; rfl
  have ho : word.extractLsb' 24 5 = 0#5 := by
    subst hw; simp (disch := decide) only [extract_low, extract_high]; rfl
  have f0 : word.extractLsb' 19 5 = d := by
    subst hw; simp (disch := decide) only [extract_low, extract_high]; simp
  have f1 : word.extractLsb' 16 3 = h := by
    subst hw; simp (disch := decide) only [extract_low, extract_high]; simp
  have f2 : word.extractLsb' 11 5 = a := by
    subst hw; simp (disch := decide) only [extract_low, extract_high]; simp
  have f3 : word.extractLsb' 8 3 = w := by
    subst hw; simp (disch := decide) only [extract_low, extract_high]; simp
  have f4 : word.extractLsb' 6 2 = o := by
    subst hw; simp (disch := decide) only [extract_low, extract_high]; simp
  have f5 : word.extractLsb' 0 6 = i := by
    subst hw; simp (disch := decide) only [extract_low, extract_high]; simp
  have hm : word &&& 0#32 = 0#32 := BitVec.and_zero
  simp [rowOf, engineOf, rowMem, hg, ho, f0, f1, f2, f3, f4, f5, hm]

theorem st (d : BitVec 5) (h : BitVec 3) (a : BitVec 5) (w : BitVec 3) (o : BitVec 2) (i : BitVec 6) : Statement (.st d h a w o i) := by
  intro wf word hw
  have hw : word = (0x21#8 ++ d ++ h ++ a ++ w ++ o ++ i : BitVec 32) := List.mem_singleton.mp hw
  have hg : word.extractLsb' 29 3 = 1#3 := by
    subst hw; simp (disch := decide) only [extract_low, extract_high]; rfl
  have ho : word.extractLsb' 24 5 = 1#5 := by
    subst hw; simp (disch := decide) only [extract_low, extract_high]; rfl
  have f0 : word.extractLsb' 19 5 = d := by
    subst hw; simp (disch := decide) only [extract_low, extract_high]; simp
  have f1 : word.extractLsb' 16 3 = h := by
    subst hw; simp (disch := decide) only [extract_low, extract_high]; simp
  have f2 : word.extractLsb' 11 5 = a := by
    subst hw; simp (disch := decide) only [extract_low, extract_high]; simp
  have f3 : word.extractLsb' 8 3 = w := by
    subst hw; simp (disch := decide) only [extract_low, extract_high]; simp
  have f4 : word.extractLsb' 6 2 = o := by
    subst hw; simp (disch := decide) only [extract_low, extract_high]; simp
  have f5 : word.extractLsb' 0 6 = i := by
    subst hw; simp (disch := decide) only [extract_low, extract_high]; simp
  have hm : word &&& 0#32 = 0#32 := BitVec.and_zero
  simp [rowOf, engineOf, rowMem, hg, ho, f0, f1, f2, f3, f4, f5, hm]

theorem ldv (d : BitVec 5) (h : BitVec 3) (a : BitVec 5) (o : BitVec 2) (i : BitVec 6) : Statement (.ldv d h a o i) := by
  intro wf word hw
  have hw : word = (0x22#8 ++ d ++ h ++ a ++ 0#3 ++ o ++ i : BitVec 32) := List.mem_singleton.mp hw
  have hg : word.extractLsb' 29 3 = 1#3 := by
    subst hw; simp (disch := decide) only [extract_low, extract_high]; rfl
  have ho : word.extractLsb' 24 5 = 2#5 := by
    subst hw; simp (disch := decide) only [extract_low, extract_high]; rfl
  have f0 : word.extractLsb' 19 5 = d := by
    subst hw; simp (disch := decide) only [extract_low, extract_high]; simp
  have f1 : word.extractLsb' 16 3 = h := by
    subst hw; simp (disch := decide) only [extract_low, extract_high]; simp
  have f2 : word.extractLsb' 11 5 = a := by
    subst hw; simp (disch := decide) only [extract_low, extract_high]; simp
  have f3 : word.extractLsb' 6 2 = o := by
    subst hw; simp (disch := decide) only [extract_low, extract_high]; simp
  have f4 : word.extractLsb' 0 6 = i := by
    subst hw; simp (disch := decide) only [extract_low, extract_high]; simp
  have hm : word &&& 0x00000700#32 = 0x00000000#32 := by
    rw [hw, show (0x00000700#32 : BitVec 32) = 0#8 ++ 0#5 ++ 0#3 ++ 0#5 ++ 7#3 ++ 0#2 ++ 0#6 from by decide, BitVec.and_append]
    simp only [BitVec.and_append, BitVec.and_zero]; rfl
  simp [rowOf, engineOf, rowMem, hg, ho, f0, f1, f2, f3, f4, hm]

theorem stv (d : BitVec 5) (h : BitVec 3) (a : BitVec 5) (o : BitVec 2) (i : BitVec 6) : Statement (.stv d h a o i) := by
  intro wf word hw
  have hw : word = (0x23#8 ++ d ++ h ++ a ++ 0#3 ++ o ++ i : BitVec 32) := List.mem_singleton.mp hw
  have hg : word.extractLsb' 29 3 = 1#3 := by
    subst hw; simp (disch := decide) only [extract_low, extract_high]; rfl
  have ho : word.extractLsb' 24 5 = 3#5 := by
    subst hw; simp (disch := decide) only [extract_low, extract_high]; rfl
  have f0 : word.extractLsb' 19 5 = d := by
    subst hw; simp (disch := decide) only [extract_low, extract_high]; simp
  have f1 : word.extractLsb' 16 3 = h := by
    subst hw; simp (disch := decide) only [extract_low, extract_high]; simp
  have f2 : word.extractLsb' 11 5 = a := by
    subst hw; simp (disch := decide) only [extract_low, extract_high]; simp
  have f3 : word.extractLsb' 6 2 = o := by
    subst hw; simp (disch := decide) only [extract_low, extract_high]; simp
  have f4 : word.extractLsb' 0 6 = i := by
    subst hw; simp (disch := decide) only [extract_low, extract_high]; simp
  have hm : word &&& 0x00000700#32 = 0x00000000#32 := by
    rw [hw, show (0x00000700#32 : BitVec 32) = 0#8 ++ 0#5 ++ 0#3 ++ 0#5 ++ 7#3 ++ 0#2 ++ 0#6 from by decide, BitVec.and_append]
    simp only [BitVec.and_append, BitVec.and_zero]; rfl
  simp [rowOf, engineOf, rowMem, hg, ho, f0, f1, f2, f3, f4, hm]

theorem ldvs (d : BitVec 5) (a : BitVec 5) (b : BitVec 5) (m : BitVec 3) (q : BitVec 3) (e : BitVec 2) : Statement (.ldvs d a b m q e) := by
  intro wf word hw
  have hw : word = (0x24#8 ++ d ++ a ++ b ++ m ++ q ++ 0#1 ++ e : BitVec 32) := List.mem_singleton.mp hw
  have hg : word.extractLsb' 29 3 = 1#3 := by
    subst hw; simp (disch := decide) only [extract_low, extract_high]; rfl
  have ho : word.extractLsb' 24 5 = 4#5 := by
    subst hw; simp (disch := decide) only [extract_low, extract_high]; rfl
  have f0 : word.extractLsb' 19 5 = d := by
    subst hw; simp (disch := decide) only [extract_low, extract_high]; simp
  have f1 : word.extractLsb' 14 5 = a := by
    subst hw; simp (disch := decide) only [extract_low, extract_high]; simp
  have f2 : word.extractLsb' 9 5 = b := by
    subst hw; simp (disch := decide) only [extract_low, extract_high]; simp
  have f3 : word.extractLsb' 6 3 = m := by
    subst hw; simp (disch := decide) only [extract_low, extract_high]; simp
  have f4 : word.extractLsb' 3 3 = q := by
    subst hw; simp (disch := decide) only [extract_low, extract_high]; simp
  have f5 : word.extractLsb' 0 2 = e := by
    subst hw; simp (disch := decide) only [extract_low, extract_high]; simp
  have hm : word &&& 0x00000004#32 = 0x00000000#32 := by
    rw [hw, show (0x00000004#32 : BitVec 32) = 0#8 ++ 0#5 ++ 0#5 ++ 0#5 ++ 0#3 ++ 0#3 ++ 1#1 ++ 0#2 from by decide, BitVec.and_append]
    simp only [BitVec.and_append, BitVec.and_zero]; rfl
  simp [rowOf, engineOf, rowMem, hg, ho, f0, f1, f2, f3, f4, f5, hm]

theorem stvs (d : BitVec 5) (a : BitVec 5) (b : BitVec 5) (m : BitVec 3) (q : BitVec 3) (e : BitVec 2) : Statement (.stvs d a b m q e) := by
  intro wf word hw
  have hw : word = (0x25#8 ++ d ++ a ++ b ++ m ++ q ++ 0#1 ++ e : BitVec 32) := List.mem_singleton.mp hw
  have hg : word.extractLsb' 29 3 = 1#3 := by
    subst hw; simp (disch := decide) only [extract_low, extract_high]; rfl
  have ho : word.extractLsb' 24 5 = 5#5 := by
    subst hw; simp (disch := decide) only [extract_low, extract_high]; rfl
  have f0 : word.extractLsb' 19 5 = d := by
    subst hw; simp (disch := decide) only [extract_low, extract_high]; simp
  have f1 : word.extractLsb' 14 5 = a := by
    subst hw; simp (disch := decide) only [extract_low, extract_high]; simp
  have f2 : word.extractLsb' 9 5 = b := by
    subst hw; simp (disch := decide) only [extract_low, extract_high]; simp
  have f3 : word.extractLsb' 6 3 = m := by
    subst hw; simp (disch := decide) only [extract_low, extract_high]; simp
  have f4 : word.extractLsb' 3 3 = q := by
    subst hw; simp (disch := decide) only [extract_low, extract_high]; simp
  have f5 : word.extractLsb' 0 2 = e := by
    subst hw; simp (disch := decide) only [extract_low, extract_high]; simp
  have hm : word &&& 0x00000004#32 = 0x00000000#32 := by
    rw [hw, show (0x00000004#32 : BitVec 32) = 0#8 ++ 0#5 ++ 0#5 ++ 0#5 ++ 0#3 ++ 0#3 ++ 1#1 ++ 0#2 from by decide, BitVec.and_append]
    simp only [BitVec.and_append, BitVec.and_zero]; rfl
  simp [rowOf, engineOf, rowMem, hg, ho, f0, f1, f2, f3, f4, f5, hm]

theorem trns (d : BitVec 3) (a : BitVec 5) : Statement (.trns d a) := by
  intro wf word hw
  have hw : word = (0x26#8 ++ 0#2 ++ d ++ a ++ 0#14 : BitVec 32) := List.mem_singleton.mp hw
  have hg : word.extractLsb' 29 3 = 1#3 := by
    subst hw; simp (disch := decide) only [extract_low, extract_high]; rfl
  have ho : word.extractLsb' 24 5 = 6#5 := by
    subst hw; simp (disch := decide) only [extract_low, extract_high]; rfl
  have f0 : word.extractLsb' 19 3 = d := by
    subst hw; simp (disch := decide) only [extract_low, extract_high]; simp
  have f1 : word.extractLsb' 14 5 = a := by
    subst hw; simp (disch := decide) only [extract_low, extract_high]; simp
  have hm : word &&& 0x00003FFF#32 = 0x00000000#32 := by
    rw [hw, show (0x00003FFF#32 : BitVec 32) = 0#8 ++ 0#2 ++ 0#3 ++ 0#5 ++ 16383#14 from by decide, BitVec.and_append]
    simp only [BitVec.and_append, BitVec.and_zero]; rfl
  have hr : word &&& 0x00C00000#32 = 0x00000000#32 := by
    rw [hw, show (0x00C00000#32 : BitVec 32) = 0#8 ++ 3#2 ++ 0#3 ++ 0#5 ++ 0#14 from by decide, BitVec.and_append]
    simp only [BitVec.and_append, BitVec.and_zero]; rfl
  have hx : word.extractLsb' 13 1 = 0#1 := by subst hw; simp (disch := decide) only [extract_low, extract_high]; rfl
  have hb : word[13] = false := by simpa using congrArg (BitVec.getLsbD · 0) hx
  simp [rowOf, engineOf, rowMem, hg, ho, f0, f1, hm, hr, hb]

theorem trnsPhys (d : BitVec 3) (a : BitVec 5) (r : BitVec 3) (l : BitVec 6) : Statement (.trnsPhys d a r l) := by
  intro wf word hw
  have hw : word = (0x26#8 ++ 0#2 ++ d ++ a ++ 1#1 ++ r ++ 0#4 ++ l : BitVec 32) := List.mem_singleton.mp hw
  have hg : word.extractLsb' 29 3 = 1#3 := by
    subst hw; simp (disch := decide) only [extract_low, extract_high]; rfl
  have ho : word.extractLsb' 24 5 = 6#5 := by
    subst hw; simp (disch := decide) only [extract_low, extract_high]; rfl
  have f0 : word.extractLsb' 19 3 = d := by
    subst hw; simp (disch := decide) only [extract_low, extract_high]; simp
  have f1 : word.extractLsb' 14 5 = a := by
    subst hw; simp (disch := decide) only [extract_low, extract_high]; simp
  have f2 : word.extractLsb' 10 3 = r := by
    subst hw; simp (disch := decide) only [extract_low, extract_high]; simp
  have f3 : word.extractLsb' 0 6 = l := by
    subst hw; simp (disch := decide) only [extract_low, extract_high]; simp
  have hm : word &&& 0x000023C0#32 = 0x00002000#32 := by
    rw [hw, show (0x000023C0#32 : BitVec 32) = 0#8 ++ 0#2 ++ 0#3 ++ 0#5 ++ 1#1 ++ 0#3 ++ 15#4 ++ 0#6 from by decide, BitVec.and_append]
    simp only [BitVec.and_append, BitVec.and_zero]; rfl
  have hr : word &&& 0x00C00000#32 = 0x00000000#32 := by
    rw [hw, show (0x00C00000#32 : BitVec 32) = 0#8 ++ 3#2 ++ 0#3 ++ 0#5 ++ 0#1 ++ 0#3 ++ 0#4 ++ 0#6 from by decide, BitVec.and_append]
    simp only [BitVec.and_append, BitVec.and_zero]; rfl
  have hx : word.extractLsb' 13 1 = 1#1 := by subst hw; simp (disch := decide) only [extract_low, extract_high]; rfl
  have hb : word[13] = true := by simpa using congrArg (BitVec.getLsbD · 0) hx
  simp [rowOf, engineOf, rowMem, hg, ho, f0, f1, f2, f3, hm, hr, hb]

theorem hinv (a : BitVec 5) (b : BitVec 5) (s : BitVec 4) : Statement (.hinv a b s) := by
  intro wf word hw
  have hw : word = (0x27#8 ++ 0#5 ++ a ++ b ++ 0#5 ++ s : BitVec 32) := List.mem_singleton.mp hw
  have hg : word.extractLsb' 29 3 = 1#3 := by
    subst hw; simp (disch := decide) only [extract_low, extract_high]; rfl
  have ho : word.extractLsb' 24 5 = 7#5 := by
    subst hw; simp (disch := decide) only [extract_low, extract_high]; rfl
  have f0 : word.extractLsb' 14 5 = a := by
    subst hw; simp (disch := decide) only [extract_low, extract_high]; simp
  have f1 : word.extractLsb' 9 5 = b := by
    subst hw; simp (disch := decide) only [extract_low, extract_high]; simp
  have f2 : word.extractLsb' 0 4 = s := by
    subst hw; simp (disch := decide) only [extract_low, extract_high]; simp
  have hm : word &&& 0x00F801F0#32 = 0x00000000#32 := by
    rw [hw, show (0x00F801F0#32 : BitVec 32) = 0#8 ++ 31#5 ++ 0#5 ++ 0#5 ++ 31#5 ++ 0#4 from by decide, BitVec.and_append]
    simp only [BitVec.and_append, BitVec.and_zero]; rfl
  simp [rowOf, engineOf, rowMem, hg, ho, f0, f1, f2, hm]

theorem hop (d : BitVec 5) (n : BitVec 3) (o : BitVec 3) : Statement (.hop d n o) := by
  intro wf word hw
  have hw : word = (0x28#8 ++ d ++ 0#13 ++ n ++ o : BitVec 32) := List.mem_singleton.mp hw
  have hg : word.extractLsb' 29 3 = 1#3 := by
    subst hw; simp (disch := decide) only [extract_low, extract_high]; rfl
  have ho : word.extractLsb' 24 5 = 8#5 := by
    subst hw; simp (disch := decide) only [extract_low, extract_high]; rfl
  have f0 : word.extractLsb' 19 5 = d := by
    subst hw; simp (disch := decide) only [extract_low, extract_high]; simp
  have f1 : word.extractLsb' 3 3 = n := by
    subst hw; simp (disch := decide) only [extract_low, extract_high]; simp
  have f2 : word.extractLsb' 0 3 = o := by
    subst hw; simp (disch := decide) only [extract_low, extract_high]; simp
  have hm : word &&& 0x0007FFC0#32 = 0x00000000#32 := by
    rw [hw, show (0x0007FFC0#32 : BitVec 32) = 0#8 ++ 0#5 ++ 8191#13 ++ 0#3 ++ 0#3 from by decide, BitVec.and_append]
    simp only [BitVec.and_append, BitVec.and_zero]; rfl
  simp [rowOf, engineOf, rowMem, hg, ho, f0, f1, f2, hm]

theorem drop (a : BitVec 5) (b : BitVec 5) : Statement (.drop a b) := by
  intro wf word hw
  have hw : word = (0x29#8 ++ 0#5 ++ a ++ b ++ 0#9 : BitVec 32) := List.mem_singleton.mp hw
  have hg : word.extractLsb' 29 3 = 1#3 := by
    subst hw; simp (disch := decide) only [extract_low, extract_high]; rfl
  have ho : word.extractLsb' 24 5 = 9#5 := by
    subst hw; simp (disch := decide) only [extract_low, extract_high]; rfl
  have f0 : word.extractLsb' 14 5 = a := by
    subst hw; simp (disch := decide) only [extract_low, extract_high]; simp
  have f1 : word.extractLsb' 9 5 = b := by
    subst hw; simp (disch := decide) only [extract_low, extract_high]; simp
  have hm : word &&& 0x00F801FF#32 = 0x00000000#32 := by
    rw [hw, show (0x00F801FF#32 : BitVec 32) = 0#8 ++ 31#5 ++ 0#5 ++ 0#5 ++ 511#9 from by decide, BitVec.and_append]
    simp only [BitVec.and_append, BitVec.and_zero]; rfl
  simp [rowOf, engineOf, rowMem, hg, ho, f0, f1, hm]

theorem amo (d : BitVec 5) (a : BitVec 5) (b : BitVec 5) (m : BitVec 3) (o : BitVec 2) (z : BitVec 1) (f : BitVec 3) : Statement (.amo d a b m o z f) := by
  intro wf word hw
  have hw : word = (0x2A#8 ++ d ++ a ++ b ++ m ++ o ++ z ++ f : BitVec 32) := List.mem_singleton.mp hw
  have hg : word.extractLsb' 29 3 = 1#3 := by
    subst hw; simp (disch := decide) only [extract_low, extract_high]; rfl
  have ho : word.extractLsb' 24 5 = 10#5 := by
    subst hw; simp (disch := decide) only [extract_low, extract_high]; rfl
  have f0 : word.extractLsb' 19 5 = d := by
    subst hw; simp (disch := decide) only [extract_low, extract_high]; simp
  have f1 : word.extractLsb' 14 5 = a := by
    subst hw; simp (disch := decide) only [extract_low, extract_high]; simp
  have f2 : word.extractLsb' 9 5 = b := by
    subst hw; simp (disch := decide) only [extract_low, extract_high]; simp
  have f3 : word.extractLsb' 6 3 = m := by
    subst hw; simp (disch := decide) only [extract_low, extract_high]; simp
  have f4 : word.extractLsb' 4 2 = o := by
    subst hw; simp (disch := decide) only [extract_low, extract_high]; simp
  have f5 : word.extractLsb' 3 1 = z := by
    subst hw; simp (disch := decide) only [extract_low, extract_high]; simp
  have f6 : word.extractLsb' 0 3 = f := by
    subst hw; simp (disch := decide) only [extract_low, extract_high]; simp
  have hm : word &&& 0#32 = 0#32 := BitVec.and_zero
  simp [rowOf, engineOf, rowMem, hg, ho, f0, f1, f2, f3, f4, f5, f6, hm]

theorem cas (d : BitVec 5) (a : BitVec 5) (b : BitVec 5) (m : BitVec 3) (o : BitVec 2) (z : BitVec 1) : Statement (.cas d a b m o z) := by
  intro wf word hw
  have hw : word = (0x2B#8 ++ d ++ a ++ b ++ m ++ o ++ z ++ 0#3 : BitVec 32) := List.mem_singleton.mp hw
  have hg : word.extractLsb' 29 3 = 1#3 := by
    subst hw; simp (disch := decide) only [extract_low, extract_high]; rfl
  have ho : word.extractLsb' 24 5 = 11#5 := by
    subst hw; simp (disch := decide) only [extract_low, extract_high]; rfl
  have f0 : word.extractLsb' 19 5 = d := by
    subst hw; simp (disch := decide) only [extract_low, extract_high]; simp
  have f1 : word.extractLsb' 14 5 = a := by
    subst hw; simp (disch := decide) only [extract_low, extract_high]; simp
  have f2 : word.extractLsb' 9 5 = b := by
    subst hw; simp (disch := decide) only [extract_low, extract_high]; simp
  have f3 : word.extractLsb' 6 3 = m := by
    subst hw; simp (disch := decide) only [extract_low, extract_high]; simp
  have f4 : word.extractLsb' 4 2 = o := by
    subst hw; simp (disch := decide) only [extract_low, extract_high]; simp
  have f5 : word.extractLsb' 3 1 = z := by
    subst hw; simp (disch := decide) only [extract_low, extract_high]; simp
  have hm : word &&& 0x00000007#32 = 0x00000000#32 := by
    rw [hw, show (0x00000007#32 : BitVec 32) = 0#8 ++ 0#5 ++ 0#5 ++ 0#5 ++ 0#3 ++ 0#2 ++ 0#1 ++ 7#3 from by decide, BitVec.and_append]
    simp only [BitVec.and_append, BitVec.and_zero]; rfl
  simp [rowOf, engineOf, rowMem, hg, ho, f0, f1, f2, f3, f4, f5, hm]

theorem radd (d : BitVec 5) (a : BitVec 5) (m : BitVec 3) (t : BitVec 2) (q : BitVec 3) : Statement (.radd d a m t q) := by
  intro wf word hw
  have hw : word = (0x2C#8 ++ d ++ a ++ 0#5 ++ m ++ 0#1 ++ t ++ q : BitVec 32) := List.mem_singleton.mp hw
  have hg : word.extractLsb' 29 3 = 1#3 := by
    subst hw; simp (disch := decide) only [extract_low, extract_high]; rfl
  have ho : word.extractLsb' 24 5 = 12#5 := by
    subst hw; simp (disch := decide) only [extract_low, extract_high]; rfl
  have f0 : word.extractLsb' 19 5 = d := by
    subst hw; simp (disch := decide) only [extract_low, extract_high]; simp
  have f1 : word.extractLsb' 14 5 = a := by
    subst hw; simp (disch := decide) only [extract_low, extract_high]; simp
  have f2 : word.extractLsb' 6 3 = m := by
    subst hw; simp (disch := decide) only [extract_low, extract_high]; simp
  have f3 : word.extractLsb' 3 2 = t := by
    subst hw; simp (disch := decide) only [extract_low, extract_high]; simp
  have f4 : word.extractLsb' 0 3 = q := by
    subst hw; simp (disch := decide) only [extract_low, extract_high]; simp
  have hm : word &&& 0x00003E20#32 = 0x00000000#32 := by
    rw [hw, show (0x00003E20#32 : BitVec 32) = 0#8 ++ 0#5 ++ 0#5 ++ 31#5 ++ 0#3 ++ 1#1 ++ 0#2 ++ 0#3 from by decide, BitVec.and_append]
    simp only [BitVec.and_append, BitVec.and_zero]; rfl
  have hx : word.extractLsb' 5 1 = 0#1 := by subst hw; simp (disch := decide) only [extract_low, extract_high]; rfl
  have hb : word[5] = false := by simpa using congrArg (BitVec.getLsbD · 0) hx
  simp [rowOf, engineOf, rowMem, hg, ho, f0, f1, f2, f3, f4, hm, hb]

theorem raddTable (d : BitVec 5) (a : BitVec 5) (b : BitVec 5) (t : BitVec 2) (q : BitVec 3) : Statement (.raddTable d a b t q) := by
  intro wf word hw
  have hw : word = (0x2C#8 ++ d ++ a ++ b ++ 1#4 ++ t ++ q : BitVec 32) := List.mem_singleton.mp hw
  have hg : word.extractLsb' 29 3 = 1#3 := by
    subst hw; simp (disch := decide) only [extract_low, extract_high]; rfl
  have ho : word.extractLsb' 24 5 = 12#5 := by
    subst hw; simp (disch := decide) only [extract_low, extract_high]; rfl
  have f0 : word.extractLsb' 19 5 = d := by
    subst hw; simp (disch := decide) only [extract_low, extract_high]; simp
  have f1 : word.extractLsb' 14 5 = a := by
    subst hw; simp (disch := decide) only [extract_low, extract_high]; simp
  have f2 : word.extractLsb' 9 5 = b := by
    subst hw; simp (disch := decide) only [extract_low, extract_high]; simp
  have f3 : word.extractLsb' 3 2 = t := by
    subst hw; simp (disch := decide) only [extract_low, extract_high]; simp
  have f4 : word.extractLsb' 0 3 = q := by
    subst hw; simp (disch := decide) only [extract_low, extract_high]; simp
  have hm : word &&& 0x000001E0#32 = 0x00000020#32 := by
    rw [hw, show (0x000001E0#32 : BitVec 32) = 0#8 ++ 0#5 ++ 0#5 ++ 0#5 ++ 15#4 ++ 0#2 ++ 0#3 from by decide, BitVec.and_append]
    simp only [BitVec.and_append, BitVec.and_zero]; rfl
  have hx : word.extractLsb' 5 1 = 1#1 := by subst hw; simp (disch := decide) only [extract_low, extract_high]; rfl
  have hb : word[5] = true := by simpa using congrArg (BitVec.getLsbD · 0) hx
  simp [rowOf, engineOf, rowMem, hg, ho, f0, f1, f2, f3, f4, hm, hb]

theorem rst (d : BitVec 5) (h : BitVec 3) (a : BitVec 5) (w : BitVec 3) (o : BitVec 2) (i : BitVec 6) : Statement (.rst d h a w o i) := by
  intro wf word hw
  have hw : word = (0x2D#8 ++ d ++ h ++ a ++ w ++ o ++ i : BitVec 32) := List.mem_singleton.mp hw
  have hg : word.extractLsb' 29 3 = 1#3 := by
    subst hw; simp (disch := decide) only [extract_low, extract_high]; rfl
  have ho : word.extractLsb' 24 5 = 13#5 := by
    subst hw; simp (disch := decide) only [extract_low, extract_high]; rfl
  have f0 : word.extractLsb' 19 5 = d := by
    subst hw; simp (disch := decide) only [extract_low, extract_high]; simp
  have f1 : word.extractLsb' 16 3 = h := by
    subst hw; simp (disch := decide) only [extract_low, extract_high]; simp
  have f2 : word.extractLsb' 11 5 = a := by
    subst hw; simp (disch := decide) only [extract_low, extract_high]; simp
  have f3 : word.extractLsb' 8 3 = w := by
    subst hw; simp (disch := decide) only [extract_low, extract_high]; simp
  have f4 : word.extractLsb' 6 2 = o := by
    subst hw; simp (disch := decide) only [extract_low, extract_high]; simp
  have f5 : word.extractLsb' 0 6 = i := by
    subst hw; simp (disch := decide) only [extract_low, extract_high]; simp
  have hm : word &&& 0#32 = 0#32 := BitVec.and_zero
  simp [rowOf, engineOf, rowMem, hg, ho, f0, f1, f2, f3, f4, f5, hm]

theorem rld (d : BitVec 5) (h : BitVec 3) (a : BitVec 5) (w : BitVec 3) (o : BitVec 2) (i : BitVec 6) : Statement (.rld d h a w o i) := by
  intro wf word hw
  have hw : word = (0x2E#8 ++ d ++ h ++ a ++ w ++ o ++ i : BitVec 32) := List.mem_singleton.mp hw
  have hg : word.extractLsb' 29 3 = 1#3 := by
    subst hw; simp (disch := decide) only [extract_low, extract_high]; rfl
  have ho : word.extractLsb' 24 5 = 14#5 := by
    subst hw; simp (disch := decide) only [extract_low, extract_high]; rfl
  have f0 : word.extractLsb' 19 5 = d := by
    subst hw; simp (disch := decide) only [extract_low, extract_high]; simp
  have f1 : word.extractLsb' 16 3 = h := by
    subst hw; simp (disch := decide) only [extract_low, extract_high]; simp
  have f2 : word.extractLsb' 11 5 = a := by
    subst hw; simp (disch := decide) only [extract_low, extract_high]; simp
  have f3 : word.extractLsb' 8 3 = w := by
    subst hw; simp (disch := decide) only [extract_low, extract_high]; simp
  have f4 : word.extractLsb' 6 2 = o := by
    subst hw; simp (disch := decide) only [extract_low, extract_high]; simp
  have f5 : word.extractLsb' 0 6 = i := by
    subst hw; simp (disch := decide) only [extract_low, extract_high]; simp
  have hm : word &&& 0#32 = 0#32 := BitVec.and_zero
  have hb : d ≠ 0#5 := by intro h; subst h; simp [Instr.wf] at wf
  simp [rowOf, engineOf, rowMem, hg, ho, f0, f1, f2, f3, f4, f5, hm, hb]

theorem rldMigrate (h : BitVec 3) (a : BitVec 5) (w : BitVec 3) (i : BitVec 6) : Statement (.rldMigrate h a w i) := by
  intro wf word hw
  have hw : word = (0x2E#8 ++ 0#5 ++ h ++ a ++ w ++ 0#2 ++ i : BitVec 32) := List.mem_singleton.mp hw
  have hg : word.extractLsb' 29 3 = 1#3 := by
    subst hw; simp (disch := decide) only [extract_low, extract_high]; rfl
  have ho : word.extractLsb' 24 5 = 14#5 := by
    subst hw; simp (disch := decide) only [extract_low, extract_high]; rfl
  have f0 : word.extractLsb' 16 3 = h := by
    subst hw; simp (disch := decide) only [extract_low, extract_high]; simp
  have f1 : word.extractLsb' 11 5 = a := by
    subst hw; simp (disch := decide) only [extract_low, extract_high]; simp
  have f2 : word.extractLsb' 8 3 = w := by
    subst hw; simp (disch := decide) only [extract_low, extract_high]; simp
  have f3 : word.extractLsb' 0 6 = i := by
    subst hw; simp (disch := decide) only [extract_low, extract_high]; simp
  have hm : word &&& 0x00F800C0#32 = 0x00000000#32 := by
    rw [hw, show (0x00F800C0#32 : BitVec 32) = 0#8 ++ 31#5 ++ 0#3 ++ 0#5 ++ 0#3 ++ 3#2 ++ 0#6 from by decide, BitVec.and_append]
    simp only [BitVec.and_append, BitVec.and_zero]; rfl
  have hb : word.extractLsb' 19 5 = 0#5 := by subst hw; simp (disch := decide) only [extract_low, extract_high]; rfl
  simp [rowOf, engineOf, rowMem, hg, ho, f0, f1, f2, f3, hm, hb]

theorem fence (k : BitVec 8) (s : BitVec 4) : Statement (.fence k s) := by
  intro wf word hw
  have hw : word = (0x2F#8 ++ 0#12 ++ k ++ s : BitVec 32) := List.mem_singleton.mp hw
  have hg : word.extractLsb' 29 3 = 1#3 := by
    subst hw; simp (disch := decide) only [extract_low, extract_high]; rfl
  have ho : word.extractLsb' 24 5 = 15#5 := by
    subst hw; simp (disch := decide) only [extract_low, extract_high]; rfl
  have f0 : word.extractLsb' 4 8 = k := by
    subst hw; simp (disch := decide) only [extract_low, extract_high]; simp
  have f1 : word.extractLsb' 0 4 = s := by
    subst hw; simp (disch := decide) only [extract_low, extract_high]; simp
  have hm : word &&& 0x00FFF000#32 = 0x00000000#32 := by
    rw [hw, show (0x00FFF000#32 : BitVec 32) = 0#8 ++ 4095#12 ++ 0#8 ++ 0#4 from by decide, BitVec.and_append]
    simp only [BitVec.and_append, BitVec.and_zero]; rfl
  simp [rowOf, engineOf, rowMem, hg, ho, f0, f1, hm]

theorem msarm (a : BitVec 5) (b : BitVec 5) (m : BitVec 3) (r : BitVec 1) : Statement (.msarm a b m r) := by
  intro wf word hw
  have hw : word = (0x30#8 ++ 0#5 ++ a ++ b ++ m ++ 0#5 ++ r : BitVec 32) := List.mem_singleton.mp hw
  have hg : word.extractLsb' 29 3 = 1#3 := by
    subst hw; simp (disch := decide) only [extract_low, extract_high]; rfl
  have ho : word.extractLsb' 24 5 = 16#5 := by
    subst hw; simp (disch := decide) only [extract_low, extract_high]; rfl
  have f0 : word.extractLsb' 14 5 = a := by
    subst hw; simp (disch := decide) only [extract_low, extract_high]; simp
  have f1 : word.extractLsb' 9 5 = b := by
    subst hw; simp (disch := decide) only [extract_low, extract_high]; simp
  have f2 : word.extractLsb' 6 3 = m := by
    subst hw; simp (disch := decide) only [extract_low, extract_high]; simp
  have f3 : word.extractLsb' 0 1 = r := by
    subst hw; simp (disch := decide) only [extract_low, extract_high]; simp
  have hm : word &&& 0x00F8003E#32 = 0x00000000#32 := by
    rw [hw, show (0x00F8003E#32 : BitVec 32) = 0#8 ++ 31#5 ++ 0#5 ++ 0#5 ++ 0#3 ++ 31#5 ++ 0#1 from by decide, BitVec.and_append]
    simp only [BitVec.and_append, BitVec.and_zero]; rfl
  simp [rowOf, engineOf, rowMem, hg, ho, f0, f1, f2, f3, hm]

theorem mswait (d : BitVec 5) (a : BitVec 5) (b : BitVec 5) (m : BitVec 3) : Statement (.mswait d a b m) := by
  intro wf word hw
  have hw : word = (0x31#8 ++ d ++ a ++ b ++ m ++ 0#6 : BitVec 32) := List.mem_singleton.mp hw
  have hg : word.extractLsb' 29 3 = 1#3 := by
    subst hw; simp (disch := decide) only [extract_low, extract_high]; rfl
  have ho : word.extractLsb' 24 5 = 17#5 := by
    subst hw; simp (disch := decide) only [extract_low, extract_high]; rfl
  have f0 : word.extractLsb' 19 5 = d := by
    subst hw; simp (disch := decide) only [extract_low, extract_high]; simp
  have f1 : word.extractLsb' 14 5 = a := by
    subst hw; simp (disch := decide) only [extract_low, extract_high]; simp
  have f2 : word.extractLsb' 9 5 = b := by
    subst hw; simp (disch := decide) only [extract_low, extract_high]; simp
  have f3 : word.extractLsb' 6 3 = m := by
    subst hw; simp (disch := decide) only [extract_low, extract_high]; simp
  have hm : word &&& 0x0000003F#32 = 0x00000000#32 := by
    rw [hw, show (0x0000003F#32 : BitVec 32) = 0#8 ++ 0#5 ++ 0#5 ++ 0#5 ++ 0#3 ++ 63#6 from by decide, BitVec.and_append]
    simp only [BitVec.and_append, BitVec.and_zero]; rfl
  simp [rowOf, engineOf, rowMem, hg, ho, f0, f1, f2, f3, hm]

theorem mspost (a : BitVec 5) (b : BitVec 5) (m : BitVec 3) : Statement (.mspost a b m) := by
  intro wf word hw
  have hw : word = (0x32#8 ++ 0#5 ++ a ++ b ++ m ++ 0#6 : BitVec 32) := List.mem_singleton.mp hw
  have hg : word.extractLsb' 29 3 = 1#3 := by
    subst hw; simp (disch := decide) only [extract_low, extract_high]; rfl
  have ho : word.extractLsb' 24 5 = 18#5 := by
    subst hw; simp (disch := decide) only [extract_low, extract_high]; rfl
  have f0 : word.extractLsb' 14 5 = a := by
    subst hw; simp (disch := decide) only [extract_low, extract_high]; simp
  have f1 : word.extractLsb' 9 5 = b := by
    subst hw; simp (disch := decide) only [extract_low, extract_high]; simp
  have f2 : word.extractLsb' 6 3 = m := by
    subst hw; simp (disch := decide) only [extract_low, extract_high]; simp
  have hm : word &&& 0x00F8003F#32 = 0x00000000#32 := by
    rw [hw, show (0x00F8003F#32 : BitVec 32) = 0#8 ++ 31#5 ++ 0#5 ++ 0#5 ++ 0#3 ++ 63#6 from by decide, BitVec.and_append]
    simp only [BitVec.and_append, BitVec.and_zero]; rfl
  simp [rowOf, engineOf, rowMem, hg, ho, f0, f1, f2, hm]

theorem rbind (d : BitVec 5) (a : BitVec 5) (b : BitVec 5) (m : BitVec 3) (r : BitVec 1) (w : BitVec 1) (x : BitVec 1) : Statement (.rbind d a b m r w x) := by
  intro wf word hw
  have hw : word = (0x33#8 ++ d ++ a ++ b ++ m ++ 0#3 ++ r ++ w ++ x : BitVec 32) := List.mem_singleton.mp hw
  have hg : word.extractLsb' 29 3 = 1#3 := by
    subst hw; simp (disch := decide) only [extract_low, extract_high]; rfl
  have ho : word.extractLsb' 24 5 = 19#5 := by
    subst hw; simp (disch := decide) only [extract_low, extract_high]; rfl
  have f0 : word.extractLsb' 19 5 = d := by
    subst hw; simp (disch := decide) only [extract_low, extract_high]; simp
  have f1 : word.extractLsb' 14 5 = a := by
    subst hw; simp (disch := decide) only [extract_low, extract_high]; simp
  have f2 : word.extractLsb' 9 5 = b := by
    subst hw; simp (disch := decide) only [extract_low, extract_high]; simp
  have f3 : word.extractLsb' 6 3 = m := by
    subst hw; simp (disch := decide) only [extract_low, extract_high]; simp
  have f4 : word.extractLsb' 2 1 = r := by
    subst hw; simp (disch := decide) only [extract_low, extract_high]; simp
  have f5 : word.extractLsb' 1 1 = w := by
    subst hw; simp (disch := decide) only [extract_low, extract_high]; simp
  have f6 : word.extractLsb' 0 1 = x := by
    subst hw; simp (disch := decide) only [extract_low, extract_high]; simp
  have hm : word &&& 0x00000038#32 = 0x00000000#32 := by
    rw [hw, show (0x00000038#32 : BitVec 32) = 0#8 ++ 0#5 ++ 0#5 ++ 0#5 ++ 0#3 ++ 7#3 ++ 0#1 ++ 0#1 ++ 0#1 from by decide, BitVec.and_append]
    simp only [BitVec.and_append, BitVec.and_zero]; rfl
  simp [rowOf, engineOf, rowMem, hg, ho, f0, f1, f2, f3, f4, f5, f6, hm]

theorem rfree (a : BitVec 5) : Statement (.rfree a) := by
  intro wf word hw
  have hw : word = (0x34#8 ++ 0#5 ++ a ++ 0#14 : BitVec 32) := List.mem_singleton.mp hw
  have hg : word.extractLsb' 29 3 = 1#3 := by
    subst hw; simp (disch := decide) only [extract_low, extract_high]; rfl
  have ho : word.extractLsb' 24 5 = 20#5 := by
    subst hw; simp (disch := decide) only [extract_low, extract_high]; rfl
  have f0 : word.extractLsb' 14 5 = a := by
    subst hw; simp (disch := decide) only [extract_low, extract_high]; simp
  have hm : word &&& 0x00F83FFF#32 = 0x00000000#32 := by
    rw [hw, show (0x00F83FFF#32 : BitVec 32) = 0#8 ++ 31#5 ++ 0#5 ++ 16383#14 from by decide, BitVec.and_append]
    simp only [BitVec.and_append, BitVec.and_zero]; rfl
  simp [rowOf, engineOf, rowMem, hg, ho, f0, hm]

theorem rmap (a : BitVec 5) (b : BitVec 5) : Statement (.rmap a b) := by
  intro wf word hw
  have hw : word = (0x35#8 ++ 0#5 ++ a ++ b ++ 0#9 : BitVec 32) := List.mem_singleton.mp hw
  have hg : word.extractLsb' 29 3 = 1#3 := by
    subst hw; simp (disch := decide) only [extract_low, extract_high]; rfl
  have ho : word.extractLsb' 24 5 = 21#5 := by
    subst hw; simp (disch := decide) only [extract_low, extract_high]; rfl
  have f0 : word.extractLsb' 14 5 = a := by
    subst hw; simp (disch := decide) only [extract_low, extract_high]; simp
  have f1 : word.extractLsb' 9 5 = b := by
    subst hw; simp (disch := decide) only [extract_low, extract_high]; simp
  have hm : word &&& 0x00F801FF#32 = 0x00000000#32 := by
    rw [hw, show (0x00F801FF#32 : BitVec 32) = 0#8 ++ 31#5 ++ 0#5 ++ 0#5 ++ 511#9 from by decide, BitVec.and_append]
    simp only [BitVec.and_append, BitVec.and_zero]; rfl
  simp [rowOf, engineOf, rowMem, hg, ho, f0, f1, hm]

theorem rdone (a : BitVec 5) : Statement (.rdone a) := by
  intro wf word hw
  have hw : word = (0x36#8 ++ 0#5 ++ a ++ 0#14 : BitVec 32) := List.mem_singleton.mp hw
  have hg : word.extractLsb' 29 3 = 1#3 := by
    subst hw; simp (disch := decide) only [extract_low, extract_high]; rfl
  have ho : word.extractLsb' 24 5 = 22#5 := by
    subst hw; simp (disch := decide) only [extract_low, extract_high]; rfl
  have f0 : word.extractLsb' 14 5 = a := by
    subst hw; simp (disch := decide) only [extract_low, extract_high]; simp
  have hm : word &&& 0x00F83FFF#32 = 0x00000000#32 := by
    rw [hw, show (0x00F83FFF#32 : BitVec 32) = 0#8 ++ 31#5 ++ 0#5 ++ 16383#14 from by decide, BitVec.and_append]
    simp only [BitVec.and_append, BitVec.and_zero]; rfl
  simp [rowOf, engineOf, rowMem, hg, ho, f0, hm]

theorem lstn (d : BitVec 5) (a : BitVec 5) (b : BitVec 5) (m : BitVec 3) (q : BitVec 3) : Statement (.lstn d a b m q) := by
  intro wf word hw
  have hw : word = (0x37#8 ++ d ++ a ++ b ++ m ++ 0#3 ++ q : BitVec 32) := List.mem_singleton.mp hw
  have hg : word.extractLsb' 29 3 = 1#3 := by
    subst hw; simp (disch := decide) only [extract_low, extract_high]; rfl
  have ho : word.extractLsb' 24 5 = 23#5 := by
    subst hw; simp (disch := decide) only [extract_low, extract_high]; rfl
  have f0 : word.extractLsb' 19 5 = d := by
    subst hw; simp (disch := decide) only [extract_low, extract_high]; simp
  have f1 : word.extractLsb' 14 5 = a := by
    subst hw; simp (disch := decide) only [extract_low, extract_high]; simp
  have f2 : word.extractLsb' 9 5 = b := by
    subst hw; simp (disch := decide) only [extract_low, extract_high]; simp
  have f3 : word.extractLsb' 6 3 = m := by
    subst hw; simp (disch := decide) only [extract_low, extract_high]; simp
  have f4 : word.extractLsb' 0 3 = q := by
    subst hw; simp (disch := decide) only [extract_low, extract_high]; simp
  have hm : word &&& 0x00000038#32 = 0x00000000#32 := by
    rw [hw, show (0x00000038#32 : BitVec 32) = 0#8 ++ 0#5 ++ 0#5 ++ 0#5 ++ 0#3 ++ 7#3 ++ 0#3 from by decide, BitVec.and_append]
    simp only [BitVec.and_append, BitVec.and_zero]; rfl
  have hx : word.extractLsb' 5 1 = 0#1 := by subst hw; simp (disch := decide) only [extract_low, extract_high]; rfl
  have hb : word[5] = false := by simpa using congrArg (BitVec.getLsbD · 0) hx
  simp [rowOf, engineOf, rowMem, hg, ho, f0, f1, f2, f3, f4, hm, hb]

theorem lstnCancel (d : BitVec 5) : Statement (.lstnCancel d) := by
  intro wf word hw
  have hw : word = (0x37#8 ++ d ++ 32#19 : BitVec 32) := List.mem_singleton.mp hw
  have hg : word.extractLsb' 29 3 = 1#3 := by
    subst hw; simp (disch := decide) only [extract_low, extract_high]; rfl
  have ho : word.extractLsb' 24 5 = 23#5 := by
    subst hw; simp (disch := decide) only [extract_low, extract_high]; rfl
  have f0 : word.extractLsb' 19 5 = d := by
    subst hw; simp (disch := decide) only [extract_low, extract_high]; simp
  have hm : word &&& 0x0007FFFF#32 = 0x00000020#32 := by
    rw [hw, show (0x0007FFFF#32 : BitVec 32) = 0#8 ++ 0#5 ++ 524287#19 from by decide, BitVec.and_append]
    simp only [BitVec.and_append, BitVec.and_zero]; rfl
  have hx : word.extractLsb' 5 1 = 1#1 := by subst hw; simp (disch := decide) only [extract_low, extract_high]; rfl
  have hb : word[5] = true := by simpa using congrArg (BitVec.getLsbD · 0) hx
  simp [rowOf, engineOf, rowMem, hg, ho, f0, hm, hb]

theorem annc (d : BitVec 5) (a : BitVec 5) (b : BitVec 5) : Statement (.annc d a b) := by
  intro wf word hw
  have hw : word = (0x38#8 ++ d ++ a ++ b ++ 0#9 : BitVec 32) := List.mem_singleton.mp hw
  have hg : word.extractLsb' 29 3 = 1#3 := by
    subst hw; simp (disch := decide) only [extract_low, extract_high]; rfl
  have ho : word.extractLsb' 24 5 = 24#5 := by
    subst hw; simp (disch := decide) only [extract_low, extract_high]; rfl
  have f0 : word.extractLsb' 19 5 = d := by
    subst hw; simp (disch := decide) only [extract_low, extract_high]; simp
  have f1 : word.extractLsb' 14 5 = a := by
    subst hw; simp (disch := decide) only [extract_low, extract_high]; simp
  have f2 : word.extractLsb' 9 5 = b := by
    subst hw; simp (disch := decide) only [extract_low, extract_high]; simp
  have hm : word &&& 0x000001FF#32 = 0x00000000#32 := by
    rw [hw, show (0x000001FF#32 : BitVec 32) = 0#8 ++ 0#5 ++ 0#5 ++ 0#5 ++ 511#9 from by decide, BitVec.and_append]
    simp only [BitVec.and_append, BitVec.and_zero]; rfl
  simp [rowOf, engineOf, rowMem, hg, ho, f0, f1, f2, hm]

theorem wpb (d : BitVec 5) : Statement (.wpb d) := by
  intro wf word hw
  have hw : word = (0x39#8 ++ d ++ 0#19 : BitVec 32) := List.mem_singleton.mp hw
  have hg : word.extractLsb' 29 3 = 1#3 := by
    subst hw; simp (disch := decide) only [extract_low, extract_high]; rfl
  have ho : word.extractLsb' 24 5 = 25#5 := by
    subst hw; simp (disch := decide) only [extract_low, extract_high]; rfl
  have f0 : word.extractLsb' 19 5 = d := by
    subst hw; simp (disch := decide) only [extract_low, extract_high]; simp
  have hm : word &&& 0x0007FFFF#32 = 0x00000000#32 := by
    rw [hw, show (0x0007FFFF#32 : BitVec 32) = 0#8 ++ 0#5 ++ 524287#19 from by decide, BitVec.and_append]
    simp only [BitVec.and_append, BitVec.and_zero]; rfl
  simp [rowOf, engineOf, rowMem, hg, ho, f0, hm]

theorem wpc : Statement (.wpc) := by
  intro wf word hw
  have hw : word = (0x3A#8 ++ 0#24 : BitVec 32) := List.mem_singleton.mp hw
  have hg : word.extractLsb' 29 3 = 1#3 := by
    subst hw; simp (disch := decide) only [extract_low, extract_high]; rfl
  have ho : word.extractLsb' 24 5 = 26#5 := by
    subst hw; simp (disch := decide) only [extract_low, extract_high]; rfl
  have hm : word &&& 0x00FFFFFF#32 = 0x00000000#32 := by
    rw [hw, show (0x00FFFFFF#32 : BitVec 32) = 0#8 ++ 16777215#24 from by decide, BitVec.and_append]
    rfl
  simp [rowOf, engineOf, rowMem, hg, ho, hm]

theorem pfl (d : BitVec 5) (h : BitVec 3) (a : BitVec 5) (i : BitVec 6) : Statement (.pfl d h a i) := by
  intro wf word hw
  have hw : word = (0x3B#8 ++ d ++ h ++ a ++ 0#5 ++ i : BitVec 32) := List.mem_singleton.mp hw
  have hg : word.extractLsb' 29 3 = 1#3 := by
    subst hw; simp (disch := decide) only [extract_low, extract_high]; rfl
  have ho : word.extractLsb' 24 5 = 27#5 := by
    subst hw; simp (disch := decide) only [extract_low, extract_high]; rfl
  have f0 : word.extractLsb' 19 5 = d := by
    subst hw; simp (disch := decide) only [extract_low, extract_high]; simp
  have f1 : word.extractLsb' 16 3 = h := by
    subst hw; simp (disch := decide) only [extract_low, extract_high]; simp
  have f2 : word.extractLsb' 11 5 = a := by
    subst hw; simp (disch := decide) only [extract_low, extract_high]; simp
  have f3 : word.extractLsb' 0 6 = i := by
    subst hw; simp (disch := decide) only [extract_low, extract_high]; simp
  have hm : word &&& 0x000007C0#32 = 0x00000000#32 := by
    rw [hw, show (0x000007C0#32 : BitVec 32) = 0#8 ++ 0#5 ++ 0#3 ++ 0#5 ++ 31#5 ++ 0#6 from by decide, BitVec.and_append]
    simp only [BitVec.and_append, BitVec.and_zero]; rfl
  simp [rowOf, engineOf, rowMem, hg, ho, f0, f1, f2, f3, hm]

theorem plu (h : BitVec 3) (a : BitVec 5) (i : BitVec 6) : Statement (.plu h a i) := by
  intro wf word hw
  have hw : word = (0x3C#8 ++ 0#5 ++ h ++ a ++ 0#5 ++ i : BitVec 32) := List.mem_singleton.mp hw
  have hg : word.extractLsb' 29 3 = 1#3 := by
    subst hw; simp (disch := decide) only [extract_low, extract_high]; rfl
  have ho : word.extractLsb' 24 5 = 28#5 := by
    subst hw; simp (disch := decide) only [extract_low, extract_high]; rfl
  have f0 : word.extractLsb' 16 3 = h := by
    subst hw; simp (disch := decide) only [extract_low, extract_high]; simp
  have f1 : word.extractLsb' 11 5 = a := by
    subst hw; simp (disch := decide) only [extract_low, extract_high]; simp
  have f2 : word.extractLsb' 0 6 = i := by
    subst hw; simp (disch := decide) only [extract_low, extract_high]; simp
  have hm : word &&& 0x00F807C0#32 = 0x00000000#32 := by
    rw [hw, show (0x00F807C0#32 : BitVec 32) = 0#8 ++ 31#5 ++ 0#3 ++ 0#5 ++ 31#5 ++ 0#6 from by decide, BitVec.and_append]
    simp only [BitVec.and_append, BitVec.and_zero]; rfl
  simp [rowOf, engineOf, rowMem, hg, ho, f0, f1, f2, hm]

theorem mstest (d : BitVec 5) (a : BitVec 5) (m : BitVec 3) : Statement (.mstest d a m) := by
  intro wf word hw
  have hw : word = (0x3D#8 ++ d ++ a ++ 0#5 ++ m ++ 0#6 : BitVec 32) := List.mem_singleton.mp hw
  have hg : word.extractLsb' 29 3 = 1#3 := by
    subst hw; simp (disch := decide) only [extract_low, extract_high]; rfl
  have ho : word.extractLsb' 24 5 = 29#5 := by
    subst hw; simp (disch := decide) only [extract_low, extract_high]; rfl
  have f0 : word.extractLsb' 19 5 = d := by
    subst hw; simp (disch := decide) only [extract_low, extract_high]; simp
  have f1 : word.extractLsb' 14 5 = a := by
    subst hw; simp (disch := decide) only [extract_low, extract_high]; simp
  have f2 : word.extractLsb' 6 3 = m := by
    subst hw; simp (disch := decide) only [extract_low, extract_high]; simp
  have hm : word &&& 0x00003E3F#32 = 0x00000000#32 := by
    rw [hw, show (0x00003E3F#32 : BitVec 32) = 0#8 ++ 0#5 ++ 0#5 ++ 31#5 ++ 0#3 ++ 63#6 from by decide, BitVec.and_append]
    simp only [BitVec.and_append, BitVec.and_zero]; rfl
  simp [rowOf, engineOf, rowMem, hg, ho, f0, f1, f2, hm]

theorem ltabSel (d : BitVec 5) (a : BitVec 5) : Statement (.ltabSel d a) := by
  intro wf word hw
  have hw : word = (0x40#8 ++ d ++ a ++ 0#14 : BitVec 32) := List.mem_singleton.mp hw
  have hg : word.extractLsb' 29 3 = 2#3 := by
    subst hw; simp (disch := decide) only [extract_low, extract_high]; rfl
  have ho : word.extractLsb' 24 5 = 0#5 := by
    subst hw; simp (disch := decide) only [extract_low, extract_high]; rfl
  have f0 : word.extractLsb' 19 5 = d := by
    subst hw; simp (disch := decide) only [extract_low, extract_high]; simp
  have f1 : word.extractLsb' 14 5 = a := by
    subst hw; simp (disch := decide) only [extract_low, extract_high]; simp
  have hm : word &&& 0x00003FFF#32 = 0x00000000#32 := by
    rw [hw, show (0x00003FFF#32 : BitVec 32) = 0#8 ++ 0#5 ++ 0#5 ++ 16383#14 from by decide, BitVec.and_append]
    simp only [BitVec.and_append, BitVec.and_zero]; rfl
  have hb : word.extractLsb' 0 2 = 0#2 := by subst hw; simp (disch := decide) only [extract_low, extract_high]; rfl
  simp [rowOf, engineOf, rowLkp, hg, ho, f0, f1, hm, hb]

theorem ltabInst (d : BitVec 5) (a : BitVec 5) : Statement (.ltabInst d a) := by
  intro wf word hw
  have hw : word = (0x40#8 ++ d ++ a ++ 1#14 : BitVec 32) := List.mem_singleton.mp hw
  have hg : word.extractLsb' 29 3 = 2#3 := by
    subst hw; simp (disch := decide) only [extract_low, extract_high]; rfl
  have ho : word.extractLsb' 24 5 = 0#5 := by
    subst hw; simp (disch := decide) only [extract_low, extract_high]; rfl
  have f0 : word.extractLsb' 19 5 = d := by
    subst hw; simp (disch := decide) only [extract_low, extract_high]; simp
  have f1 : word.extractLsb' 14 5 = a := by
    subst hw; simp (disch := decide) only [extract_low, extract_high]; simp
  have hm : word &&& 0x00003FFF#32 = 0x00000001#32 := by
    rw [hw, show (0x00003FFF#32 : BitVec 32) = 0#8 ++ 0#5 ++ 0#5 ++ 16383#14 from by decide, BitVec.and_append]
    simp only [BitVec.and_append, BitVec.and_zero]; rfl
  have hb : word.extractLsb' 0 2 = 1#2 := by subst hw; simp (disch := decide) only [extract_low, extract_high]; rfl
  simp [rowOf, engineOf, rowLkp, hg, ho, f0, f1, hm, hb]

theorem ltabRm (d : BitVec 5) (a : BitVec 5) : Statement (.ltabRm d a) := by
  intro wf word hw
  have hw : word = (0x40#8 ++ d ++ a ++ 2#14 : BitVec 32) := List.mem_singleton.mp hw
  have hg : word.extractLsb' 29 3 = 2#3 := by
    subst hw; simp (disch := decide) only [extract_low, extract_high]; rfl
  have ho : word.extractLsb' 24 5 = 0#5 := by
    subst hw; simp (disch := decide) only [extract_low, extract_high]; rfl
  have f0 : word.extractLsb' 19 5 = d := by
    subst hw; simp (disch := decide) only [extract_low, extract_high]; simp
  have f1 : word.extractLsb' 14 5 = a := by
    subst hw; simp (disch := decide) only [extract_low, extract_high]; simp
  have hm : word &&& 0x00003FFF#32 = 0x00000002#32 := by
    rw [hw, show (0x00003FFF#32 : BitVec 32) = 0#8 ++ 0#5 ++ 0#5 ++ 16383#14 from by decide, BitVec.and_append]
    simp only [BitVec.and_append, BitVec.and_zero]; rfl
  have hb : word.extractLsb' 0 2 = 2#2 := by subst hw; simp (disch := decide) only [extract_low, extract_high]; rfl
  simp [rowOf, engineOf, rowLkp, hg, ho, f0, f1, hm, hb]

theorem lgath (d : BitVec 5) (a : BitVec 5) (b : BitVec 5) : Statement (.lgath d a b) := by
  intro wf word hw
  have hw : word = (0x41#8 ++ d ++ a ++ b ++ 0#9 : BitVec 32) := List.mem_singleton.mp hw
  have hg : word.extractLsb' 29 3 = 2#3 := by
    subst hw; simp (disch := decide) only [extract_low, extract_high]; rfl
  have ho : word.extractLsb' 24 5 = 1#5 := by
    subst hw; simp (disch := decide) only [extract_low, extract_high]; rfl
  have f0 : word.extractLsb' 19 5 = d := by
    subst hw; simp (disch := decide) only [extract_low, extract_high]; simp
  have f1 : word.extractLsb' 14 5 = a := by
    subst hw; simp (disch := decide) only [extract_low, extract_high]; simp
  have f2 : word.extractLsb' 9 5 = b := by
    subst hw; simp (disch := decide) only [extract_low, extract_high]; simp
  have hm : word &&& 0x000001FF#32 = 0x00000000#32 := by
    rw [hw, show (0x000001FF#32 : BitVec 32) = 0#8 ++ 0#5 ++ 0#5 ++ 0#5 ++ 511#9 from by decide, BitVec.and_append]
    simp only [BitVec.and_append, BitVec.and_zero]; rfl
  simp [rowOf, engineOf, rowLkp, hg, ho, f0, f1, f2, hm]

theorem luniq (d : BitVec 5) (a : BitVec 5) (b : BitVec 5) : Statement (.luniq d a b) := by
  intro wf word hw
  have hw : word = (0x42#8 ++ d ++ a ++ b ++ 0#9 : BitVec 32) := List.mem_singleton.mp hw
  have hg : word.extractLsb' 29 3 = 2#3 := by
    subst hw; simp (disch := decide) only [extract_low, extract_high]; rfl
  have ho : word.extractLsb' 24 5 = 2#5 := by
    subst hw; simp (disch := decide) only [extract_low, extract_high]; rfl
  have f0 : word.extractLsb' 19 5 = d := by
    subst hw; simp (disch := decide) only [extract_low, extract_high]; simp
  have f1 : word.extractLsb' 14 5 = a := by
    subst hw; simp (disch := decide) only [extract_low, extract_high]; simp
  have f2 : word.extractLsb' 9 5 = b := by
    subst hw; simp (disch := decide) only [extract_low, extract_high]; simp
  have hm : word &&& 0x000001FF#32 = 0x00000000#32 := by
    rw [hw, show (0x000001FF#32 : BitVec 32) = 0#8 ++ 0#5 ++ 0#5 ++ 0#5 ++ 511#9 from by decide, BitVec.and_append]
    simp only [BitVec.and_append, BitVec.and_zero]; rfl
  simp [rowOf, engineOf, rowLkp, hg, ho, f0, f1, f2, hm]

theorem lred (d : BitVec 5) (a : BitVec 5) (b : BitVec 5) (o : BitVec 1) (f : BitVec 3) : Statement (.lred d a b o f) := by
  intro wf word hw
  have hw : word = (0x43#8 ++ d ++ a ++ b ++ 0#5 ++ o ++ f : BitVec 32) := List.mem_singleton.mp hw
  have hg : word.extractLsb' 29 3 = 2#3 := by
    subst hw; simp (disch := decide) only [extract_low, extract_high]; rfl
  have ho : word.extractLsb' 24 5 = 3#5 := by
    subst hw; simp (disch := decide) only [extract_low, extract_high]; rfl
  have f0 : word.extractLsb' 19 5 = d := by
    subst hw; simp (disch := decide) only [extract_low, extract_high]; simp
  have f1 : word.extractLsb' 14 5 = a := by
    subst hw; simp (disch := decide) only [extract_low, extract_high]; simp
  have f2 : word.extractLsb' 9 5 = b := by
    subst hw; simp (disch := decide) only [extract_low, extract_high]; simp
  have f3 : word.extractLsb' 3 1 = o := by
    subst hw; simp (disch := decide) only [extract_low, extract_high]; simp
  have f4 : word.extractLsb' 0 3 = f := by
    subst hw; simp (disch := decide) only [extract_low, extract_high]; simp
  have hm : word &&& 0x000001F0#32 = 0x00000000#32 := by
    rw [hw, show (0x000001F0#32 : BitVec 32) = 0#8 ++ 0#5 ++ 0#5 ++ 0#5 ++ 31#5 ++ 0#1 ++ 0#3 from by decide, BitVec.and_append]
    simp only [BitVec.and_append, BitVec.and_zero]; rfl
  simp [rowOf, engineOf, rowLkp, hg, ho, f0, f1, f2, f3, f4, hm]

theorem lscat (d : BitVec 5) (a : BitVec 5) (b : BitVec 5) : Statement (.lscat d a b) := by
  intro wf word hw
  have hw : word = (0x44#8 ++ d ++ a ++ b ++ 0#9 : BitVec 32) := List.mem_singleton.mp hw
  have hg : word.extractLsb' 29 3 = 2#3 := by
    subst hw; simp (disch := decide) only [extract_low, extract_high]; rfl
  have ho : word.extractLsb' 24 5 = 4#5 := by
    subst hw; simp (disch := decide) only [extract_low, extract_high]; rfl
  have f0 : word.extractLsb' 19 5 = d := by
    subst hw; simp (disch := decide) only [extract_low, extract_high]; simp
  have f1 : word.extractLsb' 14 5 = a := by
    subst hw; simp (disch := decide) only [extract_low, extract_high]; simp
  have f2 : word.extractLsb' 9 5 = b := by
    subst hw; simp (disch := decide) only [extract_low, extract_high]; simp
  have hm : word &&& 0x000001FF#32 = 0x00000000#32 := by
    rw [hw, show (0x000001FF#32 : BitVec 32) = 0#8 ++ 0#5 ++ 0#5 ++ 0#5 ++ 511#9 from by decide, BitVec.and_append]
    simp only [BitVec.and_append, BitVec.and_zero]; rfl
  simp [rowOf, engineOf, rowLkp, hg, ho, f0, f1, f2, hm]

theorem lseg (d : BitVec 5) (a : BitVec 5) (b : BitVec 5) : Statement (.lseg d a b) := by
  intro wf word hw
  have hw : word = (0x45#8 ++ d ++ a ++ b ++ 0#9 : BitVec 32) := List.mem_singleton.mp hw
  have hg : word.extractLsb' 29 3 = 2#3 := by
    subst hw; simp (disch := decide) only [extract_low, extract_high]; rfl
  have ho : word.extractLsb' 24 5 = 5#5 := by
    subst hw; simp (disch := decide) only [extract_low, extract_high]; rfl
  have f0 : word.extractLsb' 19 5 = d := by
    subst hw; simp (disch := decide) only [extract_low, extract_high]; simp
  have f1 : word.extractLsb' 14 5 = a := by
    subst hw; simp (disch := decide) only [extract_low, extract_high]; simp
  have f2 : word.extractLsb' 9 5 = b := by
    subst hw; simp (disch := decide) only [extract_low, extract_high]; simp
  have hm : word &&& 0x000001FF#32 = 0x00000000#32 := by
    rw [hw, show (0x000001FF#32 : BitVec 32) = 0#8 ++ 0#5 ++ 0#5 ++ 0#5 ++ 511#9 from by decide, BitVec.and_append]
    simp only [BitVec.and_append, BitVec.and_zero]; rfl
  simp [rowOf, engineOf, rowLkp, hg, ho, f0, f1, f2, hm]

theorem lhome (d : BitVec 5) (a : BitVec 5) (b : BitVec 5) (c : BitVec 1) : Statement (.lhome d a b c) := by
  intro wf word hw
  have hw : word = (0x46#8 ++ d ++ a ++ b ++ 0#8 ++ c : BitVec 32) := List.mem_singleton.mp hw
  have hg : word.extractLsb' 29 3 = 2#3 := by
    subst hw; simp (disch := decide) only [extract_low, extract_high]; rfl
  have ho : word.extractLsb' 24 5 = 6#5 := by
    subst hw; simp (disch := decide) only [extract_low, extract_high]; rfl
  have f0 : word.extractLsb' 19 5 = d := by
    subst hw; simp (disch := decide) only [extract_low, extract_high]; simp
  have f1 : word.extractLsb' 14 5 = a := by
    subst hw; simp (disch := decide) only [extract_low, extract_high]; simp
  have f2 : word.extractLsb' 9 5 = b := by
    subst hw; simp (disch := decide) only [extract_low, extract_high]; simp
  have f3 : word.extractLsb' 0 1 = c := by
    subst hw; simp (disch := decide) only [extract_low, extract_high]; simp
  have hm : word &&& 0x000001FE#32 = 0x00000000#32 := by
    rw [hw, show (0x000001FE#32 : BitVec 32) = 0#8 ++ 0#5 ++ 0#5 ++ 0#5 ++ 255#8 ++ 0#1 from by decide, BitVec.and_append]
    simp only [BitVec.and_append, BitVec.and_zero]; rfl
  simp [rowOf, engineOf, rowLkp, hg, ho, f0, f1, f2, f3, hm]

theorem lpart (d : BitVec 5) (a : BitVec 5) (b : BitVec 5) : Statement (.lpart d a b) := by
  intro wf word hw
  have hw : word = (0x47#8 ++ d ++ a ++ b ++ 0#9 : BitVec 32) := List.mem_singleton.mp hw
  have hg : word.extractLsb' 29 3 = 2#3 := by
    subst hw; simp (disch := decide) only [extract_low, extract_high]; rfl
  have ho : word.extractLsb' 24 5 = 7#5 := by
    subst hw; simp (disch := decide) only [extract_low, extract_high]; rfl
  have f0 : word.extractLsb' 19 5 = d := by
    subst hw; simp (disch := decide) only [extract_low, extract_high]; simp
  have f1 : word.extractLsb' 14 5 = a := by
    subst hw; simp (disch := decide) only [extract_low, extract_high]; simp
  have f2 : word.extractLsb' 9 5 = b := by
    subst hw; simp (disch := decide) only [extract_low, extract_high]; simp
  have hm : word &&& 0x000001FF#32 = 0x00000000#32 := by
    rw [hw, show (0x000001FF#32 : BitVec 32) = 0#8 ++ 0#5 ++ 0#5 ++ 0#5 ++ 511#9 from by decide, BitVec.and_append]
    simp only [BitVec.and_append, BitVec.and_zero]; rfl
  simp [rowOf, engineOf, rowLkp, hg, ho, f0, f1, f2, hm]

theorem lsend (a : BitVec 5) (b : BitVec 5) (m : BitVec 1) : Statement (.lsend a b m) := by
  intro wf word hw
  have hw : word = (0x48#8 ++ 0#5 ++ a ++ b ++ 0#8 ++ m : BitVec 32) := List.mem_singleton.mp hw
  have hg : word.extractLsb' 29 3 = 2#3 := by
    subst hw; simp (disch := decide) only [extract_low, extract_high]; rfl
  have ho : word.extractLsb' 24 5 = 8#5 := by
    subst hw; simp (disch := decide) only [extract_low, extract_high]; rfl
  have f0 : word.extractLsb' 14 5 = a := by
    subst hw; simp (disch := decide) only [extract_low, extract_high]; simp
  have f1 : word.extractLsb' 9 5 = b := by
    subst hw; simp (disch := decide) only [extract_low, extract_high]; simp
  have f2 : word.extractLsb' 0 1 = m := by
    subst hw; simp (disch := decide) only [extract_low, extract_high]; simp
  have hm : word &&& 0x00F801FE#32 = 0x00000000#32 := by
    rw [hw, show (0x00F801FE#32 : BitVec 32) = 0#8 ++ 31#5 ++ 0#5 ++ 0#5 ++ 255#8 ++ 0#1 from by decide, BitVec.and_append]
    simp only [BitVec.and_append, BitVec.and_zero]; rfl
  simp [rowOf, engineOf, rowLkp, hg, ho, f0, f1, f2, hm]

theorem lrecv (d : BitVec 5) (a : BitVec 5) (b : BitVec 5) : Statement (.lrecv d a b) := by
  intro wf word hw
  have hw : word = (0x49#8 ++ d ++ a ++ b ++ 0#9 : BitVec 32) := List.mem_singleton.mp hw
  have hg : word.extractLsb' 29 3 = 2#3 := by
    subst hw; simp (disch := decide) only [extract_low, extract_high]; rfl
  have ho : word.extractLsb' 24 5 = 9#5 := by
    subst hw; simp (disch := decide) only [extract_low, extract_high]; rfl
  have f0 : word.extractLsb' 19 5 = d := by
    subst hw; simp (disch := decide) only [extract_low, extract_high]; simp
  have f1 : word.extractLsb' 14 5 = a := by
    subst hw; simp (disch := decide) only [extract_low, extract_high]; simp
  have f2 : word.extractLsb' 9 5 = b := by
    subst hw; simp (disch := decide) only [extract_low, extract_high]; simp
  have hm : word &&& 0x000001FF#32 = 0x00000000#32 := by
    rw [hw, show (0x000001FF#32 : BitVec 32) = 0#8 ++ 0#5 ++ 0#5 ++ 0#5 ++ 511#9 from by decide, BitVec.and_append]
    simp only [BitVec.and_append, BitVec.and_zero]; rfl
  simp [rowOf, engineOf, rowLkp, hg, ho, f0, f1, f2, hm]

theorem lexp (d : BitVec 5) (a : BitVec 5) (b : BitVec 5) (f : BitVec 3) : Statement (.lexp d a b f) := by
  intro wf word hw
  have hw : word = (0x4A#8 ++ d ++ a ++ b ++ 0#6 ++ f : BitVec 32) := List.mem_singleton.mp hw
  have hg : word.extractLsb' 29 3 = 2#3 := by
    subst hw; simp (disch := decide) only [extract_low, extract_high]; rfl
  have ho : word.extractLsb' 24 5 = 10#5 := by
    subst hw; simp (disch := decide) only [extract_low, extract_high]; rfl
  have f0 : word.extractLsb' 19 5 = d := by
    subst hw; simp (disch := decide) only [extract_low, extract_high]; simp
  have f1 : word.extractLsb' 14 5 = a := by
    subst hw; simp (disch := decide) only [extract_low, extract_high]; simp
  have f2 : word.extractLsb' 9 5 = b := by
    subst hw; simp (disch := decide) only [extract_low, extract_high]; simp
  have f3 : word.extractLsb' 0 3 = f := by
    subst hw; simp (disch := decide) only [extract_low, extract_high]; simp
  have hm : word &&& 0x000001F8#32 = 0x00000000#32 := by
    rw [hw, show (0x000001F8#32 : BitVec 32) = 0#8 ++ 0#5 ++ 0#5 ++ 0#5 ++ 63#6 ++ 0#3 from by decide, BitVec.and_append]
    simp only [BitVec.and_append, BitVec.and_zero]; rfl
  simp [rowOf, engineOf, rowLkp, hg, ho, f0, f1, f2, f3, hm]

theorem lacc (a : BitVec 5) (f : BitVec 1) : Statement (.lacc a f) := by
  intro wf word hw
  have hw : word = (0x4B#8 ++ 0#5 ++ a ++ 0#13 ++ f : BitVec 32) := List.mem_singleton.mp hw
  have hg : word.extractLsb' 29 3 = 2#3 := by
    subst hw; simp (disch := decide) only [extract_low, extract_high]; rfl
  have ho : word.extractLsb' 24 5 = 11#5 := by
    subst hw; simp (disch := decide) only [extract_low, extract_high]; rfl
  have f0 : word.extractLsb' 14 5 = a := by
    subst hw; simp (disch := decide) only [extract_low, extract_high]; simp
  have f1 : word.extractLsb' 0 1 = f := by
    subst hw; simp (disch := decide) only [extract_low, extract_high]; simp
  have hm : word &&& 0x00F83FFE#32 = 0x00000000#32 := by
    rw [hw, show (0x00F83FFE#32 : BitVec 32) = 0#8 ++ 31#5 ++ 0#5 ++ 8191#13 ++ 0#1 from by decide, BitVec.and_append]
    simp only [BitVec.and_append, BitVec.and_zero]; rfl
  simp [rowOf, engineOf, rowLkp, hg, ho, f0, f1, hm]

theorem lcnt (d : BitVec 5) (a : BitVec 5) (b : BitVec 5) : Statement (.lcnt d a b) := by
  intro wf word hw
  have hw : word = (0x4C#8 ++ d ++ a ++ b ++ 0#9 : BitVec 32) := List.mem_singleton.mp hw
  have hg : word.extractLsb' 29 3 = 2#3 := by
    subst hw; simp (disch := decide) only [extract_low, extract_high]; rfl
  have ho : word.extractLsb' 24 5 = 12#5 := by
    subst hw; simp (disch := decide) only [extract_low, extract_high]; rfl
  have f0 : word.extractLsb' 19 5 = d := by
    subst hw; simp (disch := decide) only [extract_low, extract_high]; simp
  have f1 : word.extractLsb' 14 5 = a := by
    subst hw; simp (disch := decide) only [extract_low, extract_high]; simp
  have f2 : word.extractLsb' 9 5 = b := by
    subst hw; simp (disch := decide) only [extract_low, extract_high]; simp
  have hm : word &&& 0x000001FF#32 = 0x00000000#32 := by
    rw [hw, show (0x000001FF#32 : BitVec 32) = 0#8 ++ 0#5 ++ 0#5 ++ 0#5 ++ 511#9 from by decide, BitVec.and_append]
    simp only [BitVec.and_append, BitVec.and_zero]; rfl
  simp [rowOf, engineOf, rowLkp, hg, ho, f0, f1, f2, hm]

theorem lsort (d : BitVec 5) (a : BitVec 5) (b : BitVec 5) (p : BitVec 1) : Statement (.lsort d a b p) := by
  intro wf word hw
  have hw : word = (0x4D#8 ++ d ++ a ++ b ++ 0#8 ++ p : BitVec 32) := List.mem_singleton.mp hw
  have hg : word.extractLsb' 29 3 = 2#3 := by
    subst hw; simp (disch := decide) only [extract_low, extract_high]; rfl
  have ho : word.extractLsb' 24 5 = 13#5 := by
    subst hw; simp (disch := decide) only [extract_low, extract_high]; rfl
  have f0 : word.extractLsb' 19 5 = d := by
    subst hw; simp (disch := decide) only [extract_low, extract_high]; simp
  have f1 : word.extractLsb' 14 5 = a := by
    subst hw; simp (disch := decide) only [extract_low, extract_high]; simp
  have f2 : word.extractLsb' 9 5 = b := by
    subst hw; simp (disch := decide) only [extract_low, extract_high]; simp
  have f3 : word.extractLsb' 0 1 = p := by
    subst hw; simp (disch := decide) only [extract_low, extract_high]; simp
  have hm : word &&& 0x000001FE#32 = 0x00000000#32 := by
    rw [hw, show (0x000001FE#32 : BitVec 32) = 0#8 ++ 0#5 ++ 0#5 ++ 0#5 ++ 255#8 ++ 0#1 from by decide, BitVec.and_append]
    simp only [BitVec.and_append, BitVec.and_zero]; rfl
  simp [rowOf, engineOf, rowLkp, hg, ho, f0, f1, f2, f3, hm]

theorem lmrg (d : BitVec 5) (a : BitVec 5) (b : BitVec 5) (m : BitVec 2) : Statement (.lmrg d a b m) := by
  intro wf word hw
  have hw : word = (0x4E#8 ++ d ++ a ++ b ++ 0#7 ++ m : BitVec 32) := List.mem_singleton.mp hw
  have hg : word.extractLsb' 29 3 = 2#3 := by
    subst hw; simp (disch := decide) only [extract_low, extract_high]; rfl
  have ho : word.extractLsb' 24 5 = 14#5 := by
    subst hw; simp (disch := decide) only [extract_low, extract_high]; rfl
  have f0 : word.extractLsb' 19 5 = d := by
    subst hw; simp (disch := decide) only [extract_low, extract_high]; simp
  have f1 : word.extractLsb' 14 5 = a := by
    subst hw; simp (disch := decide) only [extract_low, extract_high]; simp
  have f2 : word.extractLsb' 9 5 = b := by
    subst hw; simp (disch := decide) only [extract_low, extract_high]; simp
  have f3 : word.extractLsb' 0 2 = m := by
    subst hw; simp (disch := decide) only [extract_low, extract_high]; simp
  have hm : word &&& 0x000001FC#32 = 0x00000000#32 := by
    rw [hw, show (0x000001FC#32 : BitVec 32) = 0#8 ++ 0#5 ++ 0#5 ++ 0#5 ++ 127#7 ++ 0#2 from by decide, BitVec.and_append]
    simp only [BitVec.and_append, BitVec.and_zero]; rfl
  simp [rowOf, engineOf, rowLkp, hg, ho, f0, f1, f2, f3, hm]

theorem lfilt (d : BitVec 5) (a : BitVec 5) (b : BitVec 5) (i : BitVec 1) : Statement (.lfilt d a b i) := by
  intro wf word hw
  have hw : word = (0x4F#8 ++ d ++ a ++ b ++ 0#8 ++ i : BitVec 32) := List.mem_singleton.mp hw
  have hg : word.extractLsb' 29 3 = 2#3 := by
    subst hw; simp (disch := decide) only [extract_low, extract_high]; rfl
  have ho : word.extractLsb' 24 5 = 15#5 := by
    subst hw; simp (disch := decide) only [extract_low, extract_high]; rfl
  have f0 : word.extractLsb' 19 5 = d := by
    subst hw; simp (disch := decide) only [extract_low, extract_high]; simp
  have f1 : word.extractLsb' 14 5 = a := by
    subst hw; simp (disch := decide) only [extract_low, extract_high]; simp
  have f2 : word.extractLsb' 9 5 = b := by
    subst hw; simp (disch := decide) only [extract_low, extract_high]; simp
  have f3 : word.extractLsb' 0 1 = i := by
    subst hw; simp (disch := decide) only [extract_low, extract_high]; simp
  have hm : word &&& 0x000001FE#32 = 0x00000000#32 := by
    rw [hw, show (0x000001FE#32 : BitVec 32) = 0#8 ++ 0#5 ++ 0#5 ++ 0#5 ++ 255#8 ++ 0#1 from by decide, BitVec.and_append]
    simp only [BitVec.and_append, BitVec.and_zero]; rfl
  simp [rowOf, engineOf, rowLkp, hg, ho, f0, f1, f2, f3, hm]

theorem lzero (d : BitVec 5) (a : BitVec 5) (b : BitVec 5) : Statement (.lzero d a b) := by
  intro wf word hw
  have hw : word = (0x50#8 ++ d ++ a ++ b ++ 0#9 : BitVec 32) := List.mem_singleton.mp hw
  have hg : word.extractLsb' 29 3 = 2#3 := by
    subst hw; simp (disch := decide) only [extract_low, extract_high]; rfl
  have ho : word.extractLsb' 24 5 = 16#5 := by
    subst hw; simp (disch := decide) only [extract_low, extract_high]; rfl
  have f0 : word.extractLsb' 19 5 = d := by
    subst hw; simp (disch := decide) only [extract_low, extract_high]; simp
  have f1 : word.extractLsb' 14 5 = a := by
    subst hw; simp (disch := decide) only [extract_low, extract_high]; simp
  have f2 : word.extractLsb' 9 5 = b := by
    subst hw; simp (disch := decide) only [extract_low, extract_high]; simp
  have hm : word &&& 0x000001FF#32 = 0x00000000#32 := by
    rw [hw, show (0x000001FF#32 : BitVec 32) = 0#8 ++ 0#5 ++ 0#5 ++ 0#5 ++ 511#9 from by decide, BitVec.and_append]
    simp only [BitVec.and_append, BitVec.and_zero]; rfl
  simp [rowOf, engineOf, rowLkp, hg, ho, f0, f1, f2, hm]

theorem lstep (d : BitVec 5) (a : BitVec 5) (i : BitVec 14) : Statement (.lstep d a i) := by
  intro wf word hw
  have hw : word = (0x51#8 ++ d ++ a ++ i : BitVec 32) := List.mem_singleton.mp hw
  have hg : word.extractLsb' 29 3 = 2#3 := by
    subst hw; simp (disch := decide) only [extract_low, extract_high]; rfl
  have ho : word.extractLsb' 24 5 = 17#5 := by
    subst hw; simp (disch := decide) only [extract_low, extract_high]; rfl
  have f0 : word.extractLsb' 19 5 = d := by
    subst hw; simp (disch := decide) only [extract_low, extract_high]; simp
  have f1 : word.extractLsb' 14 5 = a := by
    subst hw; simp (disch := decide) only [extract_low, extract_high]; simp
  have f2 : word.extractLsb' 0 14 = i := by
    subst hw; simp (disch := decide) only [extract_low, extract_high]; simp
  have hm : word &&& 0#32 = 0#32 := BitVec.and_zero
  simp [rowOf, engineOf, rowLkp, hg, ho, f0, f1, f2, hm]

theorem lpeek (d : BitVec 5) (a : BitVec 5) (b : BitVec 5) : Statement (.lpeek d a b) := by
  intro wf word hw
  have hw : word = (0x52#8 ++ d ++ a ++ b ++ 0#9 : BitVec 32) := List.mem_singleton.mp hw
  have hg : word.extractLsb' 29 3 = 2#3 := by
    subst hw; simp (disch := decide) only [extract_low, extract_high]; rfl
  have ho : word.extractLsb' 24 5 = 18#5 := by
    subst hw; simp (disch := decide) only [extract_low, extract_high]; rfl
  have f0 : word.extractLsb' 19 5 = d := by
    subst hw; simp (disch := decide) only [extract_low, extract_high]; simp
  have f1 : word.extractLsb' 14 5 = a := by
    subst hw; simp (disch := decide) only [extract_low, extract_high]; simp
  have f2 : word.extractLsb' 9 5 = b := by
    subst hw; simp (disch := decide) only [extract_low, extract_high]; simp
  have hm : word &&& 0x000001FF#32 = 0x00000000#32 := by
    rw [hw, show (0x000001FF#32 : BitVec 32) = 0#8 ++ 0#5 ++ 0#5 ++ 0#5 ++ 511#9 from by decide, BitVec.and_append]
    simp only [BitVec.and_append, BitVec.and_zero]; rfl
  simp [rowOf, engineOf, rowLkp, hg, ho, f0, f1, f2, hm]

theorem lwb (d : BitVec 5) (a : BitVec 5) (b : BitVec 5) : Statement (.lwb d a b) := by
  intro wf word hw
  have hw : word = (0x53#8 ++ d ++ a ++ b ++ 0#9 : BitVec 32) := List.mem_singleton.mp hw
  have hg : word.extractLsb' 29 3 = 2#3 := by
    subst hw; simp (disch := decide) only [extract_low, extract_high]; rfl
  have ho : word.extractLsb' 24 5 = 19#5 := by
    subst hw; simp (disch := decide) only [extract_low, extract_high]; rfl
  have f0 : word.extractLsb' 19 5 = d := by
    subst hw; simp (disch := decide) only [extract_low, extract_high]; simp
  have f1 : word.extractLsb' 14 5 = a := by
    subst hw; simp (disch := decide) only [extract_low, extract_high]; simp
  have f2 : word.extractLsb' 9 5 = b := by
    subst hw; simp (disch := decide) only [extract_low, extract_high]; simp
  have hm : word &&& 0x000001FF#32 = 0x00000000#32 := by
    rw [hw, show (0x000001FF#32 : BitVec 32) = 0#8 ++ 0#5 ++ 0#5 ++ 0#5 ++ 511#9 from by decide, BitVec.and_append]
    simp only [BitVec.and_append, BitVec.and_zero]; rfl
  simp [rowOf, engineOf, rowLkp, hg, ho, f0, f1, f2, hm]

theorem vadd (d : BitVec 5) (a : BitVec 5) (b : BitVec 5) (t : BitVec 3) (q : BitVec 3) (v : BitVec 3) : Statement (.vadd d a b t q v) := by
  intro wf word hw
  have hw : word = (0x60#8 ++ d ++ a ++ b ++ t ++ q ++ v : BitVec 32) := List.mem_singleton.mp hw
  have hg : word.extractLsb' 29 3 = 3#3 := by
    subst hw; simp (disch := decide) only [extract_low, extract_high]; rfl
  have ho : word.extractLsb' 24 5 = 0#5 := by
    subst hw; simp (disch := decide) only [extract_low, extract_high]; rfl
  have f0 : word.extractLsb' 19 5 = d := by
    subst hw; simp (disch := decide) only [extract_low, extract_high]; simp
  have f1 : word.extractLsb' 14 5 = a := by
    subst hw; simp (disch := decide) only [extract_low, extract_high]; simp
  have f2 : word.extractLsb' 9 5 = b := by
    subst hw; simp (disch := decide) only [extract_low, extract_high]; simp
  have f3 : word.extractLsb' 6 3 = t := by
    subst hw; simp (disch := decide) only [extract_low, extract_high]; simp
  have f4 : word.extractLsb' 3 3 = q := by
    subst hw; simp (disch := decide) only [extract_low, extract_high]; simp
  have f5 : word.extractLsb' 0 3 = v := by
    subst hw; simp (disch := decide) only [extract_low, extract_high]; simp
  have hm : word &&& 0#32 = 0#32 := BitVec.and_zero
  simp [rowOf, engineOf, rowVec, hg, ho, f0, f1, f2, f3, f4, f5, hm]

theorem vsub (d : BitVec 5) (a : BitVec 5) (b : BitVec 5) (t : BitVec 3) (q : BitVec 3) (v : BitVec 3) : Statement (.vsub d a b t q v) := by
  intro wf word hw
  have hw : word = (0x61#8 ++ d ++ a ++ b ++ t ++ q ++ v : BitVec 32) := List.mem_singleton.mp hw
  have hg : word.extractLsb' 29 3 = 3#3 := by
    subst hw; simp (disch := decide) only [extract_low, extract_high]; rfl
  have ho : word.extractLsb' 24 5 = 1#5 := by
    subst hw; simp (disch := decide) only [extract_low, extract_high]; rfl
  have f0 : word.extractLsb' 19 5 = d := by
    subst hw; simp (disch := decide) only [extract_low, extract_high]; simp
  have f1 : word.extractLsb' 14 5 = a := by
    subst hw; simp (disch := decide) only [extract_low, extract_high]; simp
  have f2 : word.extractLsb' 9 5 = b := by
    subst hw; simp (disch := decide) only [extract_low, extract_high]; simp
  have f3 : word.extractLsb' 6 3 = t := by
    subst hw; simp (disch := decide) only [extract_low, extract_high]; simp
  have f4 : word.extractLsb' 3 3 = q := by
    subst hw; simp (disch := decide) only [extract_low, extract_high]; simp
  have f5 : word.extractLsb' 0 3 = v := by
    subst hw; simp (disch := decide) only [extract_low, extract_high]; simp
  have hm : word &&& 0#32 = 0#32 := BitVec.and_zero
  simp [rowOf, engineOf, rowVec, hg, ho, f0, f1, f2, f3, f4, f5, hm]

theorem vmul (d : BitVec 5) (a : BitVec 5) (b : BitVec 5) (t : BitVec 3) (q : BitVec 3) (v : BitVec 3) : Statement (.vmul d a b t q v) := by
  intro wf word hw
  have hw : word = (0x62#8 ++ d ++ a ++ b ++ t ++ q ++ v : BitVec 32) := List.mem_singleton.mp hw
  have hg : word.extractLsb' 29 3 = 3#3 := by
    subst hw; simp (disch := decide) only [extract_low, extract_high]; rfl
  have ho : word.extractLsb' 24 5 = 2#5 := by
    subst hw; simp (disch := decide) only [extract_low, extract_high]; rfl
  have f0 : word.extractLsb' 19 5 = d := by
    subst hw; simp (disch := decide) only [extract_low, extract_high]; simp
  have f1 : word.extractLsb' 14 5 = a := by
    subst hw; simp (disch := decide) only [extract_low, extract_high]; simp
  have f2 : word.extractLsb' 9 5 = b := by
    subst hw; simp (disch := decide) only [extract_low, extract_high]; simp
  have f3 : word.extractLsb' 6 3 = t := by
    subst hw; simp (disch := decide) only [extract_low, extract_high]; simp
  have f4 : word.extractLsb' 3 3 = q := by
    subst hw; simp (disch := decide) only [extract_low, extract_high]; simp
  have f5 : word.extractLsb' 0 3 = v := by
    subst hw; simp (disch := decide) only [extract_low, extract_high]; simp
  have hm : word &&& 0#32 = 0#32 := BitVec.and_zero
  simp [rowOf, engineOf, rowVec, hg, ho, f0, f1, f2, f3, f4, f5, hm]

theorem vfma (d : BitVec 5) (a : BitVec 5) (b : BitVec 5) (t : BitVec 3) (q : BitVec 3) (v : BitVec 3) : Statement (.vfma d a b t q v) := by
  intro wf word hw
  have hw : word = (0x63#8 ++ d ++ a ++ b ++ t ++ q ++ v : BitVec 32) := List.mem_singleton.mp hw
  have hg : word.extractLsb' 29 3 = 3#3 := by
    subst hw; simp (disch := decide) only [extract_low, extract_high]; rfl
  have ho : word.extractLsb' 24 5 = 3#5 := by
    subst hw; simp (disch := decide) only [extract_low, extract_high]; rfl
  have f0 : word.extractLsb' 19 5 = d := by
    subst hw; simp (disch := decide) only [extract_low, extract_high]; simp
  have f1 : word.extractLsb' 14 5 = a := by
    subst hw; simp (disch := decide) only [extract_low, extract_high]; simp
  have f2 : word.extractLsb' 9 5 = b := by
    subst hw; simp (disch := decide) only [extract_low, extract_high]; simp
  have f3 : word.extractLsb' 6 3 = t := by
    subst hw; simp (disch := decide) only [extract_low, extract_high]; simp
  have f4 : word.extractLsb' 3 3 = q := by
    subst hw; simp (disch := decide) only [extract_low, extract_high]; simp
  have f5 : word.extractLsb' 0 3 = v := by
    subst hw; simp (disch := decide) only [extract_low, extract_high]; simp
  have hm : word &&& 0#32 = 0#32 := BitVec.and_zero
  simp [rowOf, engineOf, rowVec, hg, ho, f0, f1, f2, f3, f4, f5, hm]

theorem vdiv (d : BitVec 5) (a : BitVec 5) (b : BitVec 5) (t : BitVec 3) (q : BitVec 3) (v : BitVec 3) : Statement (.vdiv d a b t q v) := by
  intro wf word hw
  have hw : word = (0x64#8 ++ d ++ a ++ b ++ t ++ q ++ v : BitVec 32) := List.mem_singleton.mp hw
  have hg : word.extractLsb' 29 3 = 3#3 := by
    subst hw; simp (disch := decide) only [extract_low, extract_high]; rfl
  have ho : word.extractLsb' 24 5 = 4#5 := by
    subst hw; simp (disch := decide) only [extract_low, extract_high]; rfl
  have f0 : word.extractLsb' 19 5 = d := by
    subst hw; simp (disch := decide) only [extract_low, extract_high]; simp
  have f1 : word.extractLsb' 14 5 = a := by
    subst hw; simp (disch := decide) only [extract_low, extract_high]; simp
  have f2 : word.extractLsb' 9 5 = b := by
    subst hw; simp (disch := decide) only [extract_low, extract_high]; simp
  have f3 : word.extractLsb' 6 3 = t := by
    subst hw; simp (disch := decide) only [extract_low, extract_high]; simp
  have f4 : word.extractLsb' 3 3 = q := by
    subst hw; simp (disch := decide) only [extract_low, extract_high]; simp
  have f5 : word.extractLsb' 0 3 = v := by
    subst hw; simp (disch := decide) only [extract_low, extract_high]; simp
  have hm : word &&& 0#32 = 0#32 := BitVec.and_zero
  simp [rowOf, engineOf, rowVec, hg, ho, f0, f1, f2, f3, f4, f5, hm]

theorem vmin (d : BitVec 5) (a : BitVec 5) (b : BitVec 5) (t : BitVec 3) (q : BitVec 3) (v : BitVec 3) : Statement (.vmin d a b t q v) := by
  intro wf word hw
  have hw : word = (0x65#8 ++ d ++ a ++ b ++ t ++ q ++ v : BitVec 32) := List.mem_singleton.mp hw
  have hg : word.extractLsb' 29 3 = 3#3 := by
    subst hw; simp (disch := decide) only [extract_low, extract_high]; rfl
  have ho : word.extractLsb' 24 5 = 5#5 := by
    subst hw; simp (disch := decide) only [extract_low, extract_high]; rfl
  have f0 : word.extractLsb' 19 5 = d := by
    subst hw; simp (disch := decide) only [extract_low, extract_high]; simp
  have f1 : word.extractLsb' 14 5 = a := by
    subst hw; simp (disch := decide) only [extract_low, extract_high]; simp
  have f2 : word.extractLsb' 9 5 = b := by
    subst hw; simp (disch := decide) only [extract_low, extract_high]; simp
  have f3 : word.extractLsb' 6 3 = t := by
    subst hw; simp (disch := decide) only [extract_low, extract_high]; simp
  have f4 : word.extractLsb' 3 3 = q := by
    subst hw; simp (disch := decide) only [extract_low, extract_high]; simp
  have f5 : word.extractLsb' 0 3 = v := by
    subst hw; simp (disch := decide) only [extract_low, extract_high]; simp
  have hm : word &&& 0#32 = 0#32 := BitVec.and_zero
  simp [rowOf, engineOf, rowVec, hg, ho, f0, f1, f2, f3, f4, f5, hm]

theorem vmax (d : BitVec 5) (a : BitVec 5) (b : BitVec 5) (t : BitVec 3) (q : BitVec 3) (v : BitVec 3) : Statement (.vmax d a b t q v) := by
  intro wf word hw
  have hw : word = (0x66#8 ++ d ++ a ++ b ++ t ++ q ++ v : BitVec 32) := List.mem_singleton.mp hw
  have hg : word.extractLsb' 29 3 = 3#3 := by
    subst hw; simp (disch := decide) only [extract_low, extract_high]; rfl
  have ho : word.extractLsb' 24 5 = 6#5 := by
    subst hw; simp (disch := decide) only [extract_low, extract_high]; rfl
  have f0 : word.extractLsb' 19 5 = d := by
    subst hw; simp (disch := decide) only [extract_low, extract_high]; simp
  have f1 : word.extractLsb' 14 5 = a := by
    subst hw; simp (disch := decide) only [extract_low, extract_high]; simp
  have f2 : word.extractLsb' 9 5 = b := by
    subst hw; simp (disch := decide) only [extract_low, extract_high]; simp
  have f3 : word.extractLsb' 6 3 = t := by
    subst hw; simp (disch := decide) only [extract_low, extract_high]; simp
  have f4 : word.extractLsb' 3 3 = q := by
    subst hw; simp (disch := decide) only [extract_low, extract_high]; simp
  have f5 : word.extractLsb' 0 3 = v := by
    subst hw; simp (disch := decide) only [extract_low, extract_high]; simp
  have hm : word &&& 0#32 = 0#32 := BitVec.and_zero
  simp [rowOf, engineOf, rowVec, hg, ho, f0, f1, f2, f3, f4, f5, hm]

theorem vneg (d : BitVec 5) (a : BitVec 5) (t : BitVec 3) (q : BitVec 3) (v : BitVec 3) : Statement (.vneg d a t q v) := by
  intro wf word hw
  have hw : word = (0x67#8 ++ d ++ a ++ 0#5 ++ t ++ q ++ v : BitVec 32) := List.mem_singleton.mp hw
  have hg : word.extractLsb' 29 3 = 3#3 := by
    subst hw; simp (disch := decide) only [extract_low, extract_high]; rfl
  have ho : word.extractLsb' 24 5 = 7#5 := by
    subst hw; simp (disch := decide) only [extract_low, extract_high]; rfl
  have f0 : word.extractLsb' 19 5 = d := by
    subst hw; simp (disch := decide) only [extract_low, extract_high]; simp
  have f1 : word.extractLsb' 14 5 = a := by
    subst hw; simp (disch := decide) only [extract_low, extract_high]; simp
  have f2 : word.extractLsb' 6 3 = t := by
    subst hw; simp (disch := decide) only [extract_low, extract_high]; simp
  have f3 : word.extractLsb' 3 3 = q := by
    subst hw; simp (disch := decide) only [extract_low, extract_high]; simp
  have f4 : word.extractLsb' 0 3 = v := by
    subst hw; simp (disch := decide) only [extract_low, extract_high]; simp
  have hm : word &&& 0x00003E00#32 = 0x00000000#32 := by
    rw [hw, show (0x00003E00#32 : BitVec 32) = 0#8 ++ 0#5 ++ 0#5 ++ 31#5 ++ 0#3 ++ 0#3 ++ 0#3 from by decide, BitVec.and_append]
    simp only [BitVec.and_append, BitVec.and_zero]; rfl
  simp [rowOf, engineOf, rowVec, hg, ho, f0, f1, f2, f3, f4, hm]

theorem vcmp (d : BitVec 3) (a : BitVec 5) (b : BitVec 5) (t : BitVec 3) (q : BitVec 3) (f : BitVec 3) : Statement (.vcmp d a b t q f) := by
  intro wf word hw
  have hw : word = (0x68#8 ++ 0#2 ++ d ++ a ++ b ++ t ++ q ++ f : BitVec 32) := List.mem_singleton.mp hw
  have hg : word.extractLsb' 29 3 = 3#3 := by
    subst hw; simp (disch := decide) only [extract_low, extract_high]; rfl
  have ho : word.extractLsb' 24 5 = 8#5 := by
    subst hw; simp (disch := decide) only [extract_low, extract_high]; rfl
  have f0 : word.extractLsb' 19 3 = d := by
    subst hw; simp (disch := decide) only [extract_low, extract_high]; simp
  have f1 : word.extractLsb' 14 5 = a := by
    subst hw; simp (disch := decide) only [extract_low, extract_high]; simp
  have f2 : word.extractLsb' 9 5 = b := by
    subst hw; simp (disch := decide) only [extract_low, extract_high]; simp
  have f3 : word.extractLsb' 6 3 = t := by
    subst hw; simp (disch := decide) only [extract_low, extract_high]; simp
  have f4 : word.extractLsb' 3 3 = q := by
    subst hw; simp (disch := decide) only [extract_low, extract_high]; simp
  have f5 : word.extractLsb' 0 3 = f := by
    subst hw; simp (disch := decide) only [extract_low, extract_high]; simp
  have hm : word &&& 0#32 = 0#32 := BitVec.and_zero
  have hr : word &&& 0x00C00000#32 = 0x00000000#32 := by
    rw [hw, show (0x00C00000#32 : BitVec 32) = 0#8 ++ 3#2 ++ 0#3 ++ 0#5 ++ 0#5 ++ 0#3 ++ 0#3 ++ 0#3 from by decide, BitVec.and_append]
    simp only [BitVec.and_append, BitVec.and_zero]; rfl
  simp [rowOf, engineOf, rowVec, hg, ho, f0, f1, f2, f3, f4, f5, hm, hr]

theorem vsel (d : BitVec 5) (a : BitVec 5) (b : BitVec 5) (t : BitVec 3) (q : BitVec 3) : Statement (.vsel d a b t q) := by
  intro wf word hw
  have hw : word = (0x69#8 ++ d ++ a ++ b ++ t ++ q ++ 0#3 : BitVec 32) := List.mem_singleton.mp hw
  have hg : word.extractLsb' 29 3 = 3#3 := by
    subst hw; simp (disch := decide) only [extract_low, extract_high]; rfl
  have ho : word.extractLsb' 24 5 = 9#5 := by
    subst hw; simp (disch := decide) only [extract_low, extract_high]; rfl
  have f0 : word.extractLsb' 19 5 = d := by
    subst hw; simp (disch := decide) only [extract_low, extract_high]; simp
  have f1 : word.extractLsb' 14 5 = a := by
    subst hw; simp (disch := decide) only [extract_low, extract_high]; simp
  have f2 : word.extractLsb' 9 5 = b := by
    subst hw; simp (disch := decide) only [extract_low, extract_high]; simp
  have f3 : word.extractLsb' 6 3 = t := by
    subst hw; simp (disch := decide) only [extract_low, extract_high]; simp
  have f4 : word.extractLsb' 3 3 = q := by
    subst hw; simp (disch := decide) only [extract_low, extract_high]; simp
  have hm : word &&& 0x00000007#32 = 0x00000000#32 := by
    rw [hw, show (0x00000007#32 : BitVec 32) = 0#8 ++ 0#5 ++ 0#5 ++ 0#5 ++ 0#3 ++ 0#3 ++ 7#3 from by decide, BitVec.and_append]
    simp only [BitVec.and_append, BitVec.and_zero]; rfl
  simp [rowOf, engineOf, rowVec, hg, ho, f0, f1, f2, f3, f4, hm]

theorem vand (d : BitVec 5) (a : BitVec 5) (b : BitVec 5) (t : BitVec 3) (q : BitVec 3) : Statement (.vand d a b t q) := by
  intro wf word hw
  have hw : word = (0x6A#8 ++ d ++ a ++ b ++ t ++ q ++ 0#3 : BitVec 32) := List.mem_singleton.mp hw
  have hg : word.extractLsb' 29 3 = 3#3 := by
    subst hw; simp (disch := decide) only [extract_low, extract_high]; rfl
  have ho : word.extractLsb' 24 5 = 10#5 := by
    subst hw; simp (disch := decide) only [extract_low, extract_high]; rfl
  have f0 : word.extractLsb' 19 5 = d := by
    subst hw; simp (disch := decide) only [extract_low, extract_high]; simp
  have f1 : word.extractLsb' 14 5 = a := by
    subst hw; simp (disch := decide) only [extract_low, extract_high]; simp
  have f2 : word.extractLsb' 9 5 = b := by
    subst hw; simp (disch := decide) only [extract_low, extract_high]; simp
  have f3 : word.extractLsb' 6 3 = t := by
    subst hw; simp (disch := decide) only [extract_low, extract_high]; simp
  have f4 : word.extractLsb' 3 3 = q := by
    subst hw; simp (disch := decide) only [extract_low, extract_high]; simp
  have hm : word &&& 0x00000007#32 = 0x00000000#32 := by
    rw [hw, show (0x00000007#32 : BitVec 32) = 0#8 ++ 0#5 ++ 0#5 ++ 0#5 ++ 0#3 ++ 0#3 ++ 7#3 from by decide, BitVec.and_append]
    simp only [BitVec.and_append, BitVec.and_zero]; rfl
  simp [rowOf, engineOf, rowVec, hg, ho, f0, f1, f2, f3, f4, hm]

theorem vor (d : BitVec 5) (a : BitVec 5) (b : BitVec 5) (t : BitVec 3) (q : BitVec 3) : Statement (.vor d a b t q) := by
  intro wf word hw
  have hw : word = (0x6B#8 ++ d ++ a ++ b ++ t ++ q ++ 0#3 : BitVec 32) := List.mem_singleton.mp hw
  have hg : word.extractLsb' 29 3 = 3#3 := by
    subst hw; simp (disch := decide) only [extract_low, extract_high]; rfl
  have ho : word.extractLsb' 24 5 = 11#5 := by
    subst hw; simp (disch := decide) only [extract_low, extract_high]; rfl
  have f0 : word.extractLsb' 19 5 = d := by
    subst hw; simp (disch := decide) only [extract_low, extract_high]; simp
  have f1 : word.extractLsb' 14 5 = a := by
    subst hw; simp (disch := decide) only [extract_low, extract_high]; simp
  have f2 : word.extractLsb' 9 5 = b := by
    subst hw; simp (disch := decide) only [extract_low, extract_high]; simp
  have f3 : word.extractLsb' 6 3 = t := by
    subst hw; simp (disch := decide) only [extract_low, extract_high]; simp
  have f4 : word.extractLsb' 3 3 = q := by
    subst hw; simp (disch := decide) only [extract_low, extract_high]; simp
  have hm : word &&& 0x00000007#32 = 0x00000000#32 := by
    rw [hw, show (0x00000007#32 : BitVec 32) = 0#8 ++ 0#5 ++ 0#5 ++ 0#5 ++ 0#3 ++ 0#3 ++ 7#3 from by decide, BitVec.and_append]
    simp only [BitVec.and_append, BitVec.and_zero]; rfl
  simp [rowOf, engineOf, rowVec, hg, ho, f0, f1, f2, f3, f4, hm]

theorem vxor (d : BitVec 5) (a : BitVec 5) (b : BitVec 5) (t : BitVec 3) (q : BitVec 3) : Statement (.vxor d a b t q) := by
  intro wf word hw
  have hw : word = (0x6C#8 ++ d ++ a ++ b ++ t ++ q ++ 0#3 : BitVec 32) := List.mem_singleton.mp hw
  have hg : word.extractLsb' 29 3 = 3#3 := by
    subst hw; simp (disch := decide) only [extract_low, extract_high]; rfl
  have ho : word.extractLsb' 24 5 = 12#5 := by
    subst hw; simp (disch := decide) only [extract_low, extract_high]; rfl
  have f0 : word.extractLsb' 19 5 = d := by
    subst hw; simp (disch := decide) only [extract_low, extract_high]; simp
  have f1 : word.extractLsb' 14 5 = a := by
    subst hw; simp (disch := decide) only [extract_low, extract_high]; simp
  have f2 : word.extractLsb' 9 5 = b := by
    subst hw; simp (disch := decide) only [extract_low, extract_high]; simp
  have f3 : word.extractLsb' 6 3 = t := by
    subst hw; simp (disch := decide) only [extract_low, extract_high]; simp
  have f4 : word.extractLsb' 3 3 = q := by
    subst hw; simp (disch := decide) only [extract_low, extract_high]; simp
  have hm : word &&& 0x00000007#32 = 0x00000000#32 := by
    rw [hw, show (0x00000007#32 : BitVec 32) = 0#8 ++ 0#5 ++ 0#5 ++ 0#5 ++ 0#3 ++ 0#3 ++ 7#3 from by decide, BitVec.and_append]
    simp only [BitVec.and_append, BitVec.and_zero]; rfl
  simp [rowOf, engineOf, rowVec, hg, ho, f0, f1, f2, f3, f4, hm]

theorem vshf (d : BitVec 5) (a : BitVec 5) (b : BitVec 5) (t : BitVec 3) (q : BitVec 3) (f : BitVec 2) : Statement (.vshf d a b t q f) := by
  intro wf word hw
  have hw : word = (0x6D#8 ++ d ++ a ++ b ++ t ++ q ++ 0#1 ++ f : BitVec 32) := List.mem_singleton.mp hw
  have hg : word.extractLsb' 29 3 = 3#3 := by
    subst hw; simp (disch := decide) only [extract_low, extract_high]; rfl
  have ho : word.extractLsb' 24 5 = 13#5 := by
    subst hw; simp (disch := decide) only [extract_low, extract_high]; rfl
  have f0 : word.extractLsb' 19 5 = d := by
    subst hw; simp (disch := decide) only [extract_low, extract_high]; simp
  have f1 : word.extractLsb' 14 5 = a := by
    subst hw; simp (disch := decide) only [extract_low, extract_high]; simp
  have f2 : word.extractLsb' 9 5 = b := by
    subst hw; simp (disch := decide) only [extract_low, extract_high]; simp
  have f3 : word.extractLsb' 6 3 = t := by
    subst hw; simp (disch := decide) only [extract_low, extract_high]; simp
  have f4 : word.extractLsb' 3 3 = q := by
    subst hw; simp (disch := decide) only [extract_low, extract_high]; simp
  have f5 : word.extractLsb' 0 2 = f := by
    subst hw; simp (disch := decide) only [extract_low, extract_high]; simp
  have hm : word &&& 0x00000004#32 = 0x00000000#32 := by
    rw [hw, show (0x00000004#32 : BitVec 32) = 0#8 ++ 0#5 ++ 0#5 ++ 0#5 ++ 0#3 ++ 0#3 ++ 1#1 ++ 0#2 from by decide, BitVec.and_append]
    simp only [BitVec.and_append, BitVec.and_zero]; rfl
  simp [rowOf, engineOf, rowVec, hg, ho, f0, f1, f2, f3, f4, f5, hm]

theorem vcvt (d : BitVec 5) (a : BitVec 5) (x : BitVec 4) (y : BitVec 4) (q : BitVec 3) (r : BitVec 3) : Statement (.vcvt d a x y q r) := by
  intro wf word hw
  have hw : word = (0x6E#8 ++ d ++ a ++ x ++ y ++ q ++ r : BitVec 32) := List.mem_singleton.mp hw
  have hg : word.extractLsb' 29 3 = 3#3 := by
    subst hw; simp (disch := decide) only [extract_low, extract_high]; rfl
  have ho : word.extractLsb' 24 5 = 14#5 := by
    subst hw; simp (disch := decide) only [extract_low, extract_high]; rfl
  have f0 : word.extractLsb' 19 5 = d := by
    subst hw; simp (disch := decide) only [extract_low, extract_high]; simp
  have f1 : word.extractLsb' 14 5 = a := by
    subst hw; simp (disch := decide) only [extract_low, extract_high]; simp
  have f2 : word.extractLsb' 10 4 = x := by
    subst hw; simp (disch := decide) only [extract_low, extract_high]; simp
  have f3 : word.extractLsb' 6 4 = y := by
    subst hw; simp (disch := decide) only [extract_low, extract_high]; simp
  have f4 : word.extractLsb' 3 3 = q := by
    subst hw; simp (disch := decide) only [extract_low, extract_high]; simp
  have f5 : word.extractLsb' 0 3 = r := by
    subst hw; simp (disch := decide) only [extract_low, extract_high]; simp
  have hm : word &&& 0#32 = 0#32 := BitVec.and_zero
  simp [rowOf, engineOf, rowVec, hg, ho, f0, f1, f2, f3, f4, f5, hm]

theorem vsca (d : BitVec 5) (a : BitVec 5) (b : BitVec 5) (t : BitVec 3) (q : BitVec 3) (v : BitVec 3) : Statement (.vsca d a b t q v) := by
  intro wf word hw
  have hw : word = (0x6F#8 ++ d ++ a ++ b ++ t ++ q ++ v : BitVec 32) := List.mem_singleton.mp hw
  have hg : word.extractLsb' 29 3 = 3#3 := by
    subst hw; simp (disch := decide) only [extract_low, extract_high]; rfl
  have ho : word.extractLsb' 24 5 = 15#5 := by
    subst hw; simp (disch := decide) only [extract_low, extract_high]; rfl
  have f0 : word.extractLsb' 19 5 = d := by
    subst hw; simp (disch := decide) only [extract_low, extract_high]; simp
  have f1 : word.extractLsb' 14 5 = a := by
    subst hw; simp (disch := decide) only [extract_low, extract_high]; simp
  have f2 : word.extractLsb' 9 5 = b := by
    subst hw; simp (disch := decide) only [extract_low, extract_high]; simp
  have f3 : word.extractLsb' 6 3 = t := by
    subst hw; simp (disch := decide) only [extract_low, extract_high]; simp
  have f4 : word.extractLsb' 3 3 = q := by
    subst hw; simp (disch := decide) only [extract_low, extract_high]; simp
  have f5 : word.extractLsb' 0 3 = v := by
    subst hw; simp (disch := decide) only [extract_low, extract_high]; simp
  have hm : word &&& 0#32 = 0#32 := BitVec.and_zero
  simp [rowOf, engineOf, rowVec, hg, ho, f0, f1, f2, f3, f4, f5, hm]

theorem vred (d : BitVec 5) (a : BitVec 5) (c : BitVec 3) (t : BitVec 3) (q : BitVec 3) (v : BitVec 3) : Statement (.vred d a c t q v) := by
  intro wf word hw
  have hw : word = (0x70#8 ++ d ++ a ++ 0#2 ++ c ++ t ++ q ++ v : BitVec 32) := List.mem_singleton.mp hw
  have hg : word.extractLsb' 29 3 = 3#3 := by
    subst hw; simp (disch := decide) only [extract_low, extract_high]; rfl
  have ho : word.extractLsb' 24 5 = 16#5 := by
    subst hw; simp (disch := decide) only [extract_low, extract_high]; rfl
  have f0 : word.extractLsb' 19 5 = d := by
    subst hw; simp (disch := decide) only [extract_low, extract_high]; simp
  have f1 : word.extractLsb' 14 5 = a := by
    subst hw; simp (disch := decide) only [extract_low, extract_high]; simp
  have f2 : word.extractLsb' 9 3 = c := by
    subst hw; simp (disch := decide) only [extract_low, extract_high]; simp
  have f3 : word.extractLsb' 6 3 = t := by
    subst hw; simp (disch := decide) only [extract_low, extract_high]; simp
  have f4 : word.extractLsb' 3 3 = q := by
    subst hw; simp (disch := decide) only [extract_low, extract_high]; simp
  have f5 : word.extractLsb' 0 3 = v := by
    subst hw; simp (disch := decide) only [extract_low, extract_high]; simp
  have hm : word &&& 0x00003000#32 = 0x00000000#32 := by
    rw [hw, show (0x00003000#32 : BitVec 32) = 0#8 ++ 0#5 ++ 0#5 ++ 3#2 ++ 0#3 ++ 0#3 ++ 0#3 ++ 0#3 from by decide, BitVec.and_append]
    simp only [BitVec.and_append, BitVec.and_zero]; rfl
  simp [rowOf, engineOf, rowVec, hg, ho, f0, f1, f2, f3, f4, f5, hm]

theorem vbcst (d : BitVec 5) (a : BitVec 5) (t : BitVec 3) (q : BitVec 3) : Statement (.vbcst d a t q) := by
  intro wf word hw
  have hw : word = (0x71#8 ++ d ++ a ++ 0#5 ++ t ++ q ++ 0#3 : BitVec 32) := List.mem_singleton.mp hw
  have hg : word.extractLsb' 29 3 = 3#3 := by
    subst hw; simp (disch := decide) only [extract_low, extract_high]; rfl
  have ho : word.extractLsb' 24 5 = 17#5 := by
    subst hw; simp (disch := decide) only [extract_low, extract_high]; rfl
  have f0 : word.extractLsb' 19 5 = d := by
    subst hw; simp (disch := decide) only [extract_low, extract_high]; simp
  have f1 : word.extractLsb' 14 5 = a := by
    subst hw; simp (disch := decide) only [extract_low, extract_high]; simp
  have f2 : word.extractLsb' 6 3 = t := by
    subst hw; simp (disch := decide) only [extract_low, extract_high]; simp
  have f3 : word.extractLsb' 3 3 = q := by
    subst hw; simp (disch := decide) only [extract_low, extract_high]; simp
  have hm : word &&& 0x00003E07#32 = 0x00000000#32 := by
    rw [hw, show (0x00003E07#32 : BitVec 32) = 0#8 ++ 0#5 ++ 0#5 ++ 31#5 ++ 0#3 ++ 0#3 ++ 7#3 from by decide, BitVec.and_append]
    simp only [BitVec.and_append, BitVec.and_zero]; rfl
  simp [rowOf, engineOf, rowVec, hg, ho, f0, f1, f2, f3, hm]

theorem vmovxGet (d : BitVec 5) (a : BitVec 5) (b : BitVec 5) (t : BitVec 3) (s : BitVec 1) : Statement (.vmovxGet d a b t s) := by
  intro wf word hw
  have hw : word = (0x72#8 ++ d ++ a ++ b ++ t ++ 0#5 ++ s : BitVec 32) := List.mem_singleton.mp hw
  have hg : word.extractLsb' 29 3 = 3#3 := by
    subst hw; simp (disch := decide) only [extract_low, extract_high]; rfl
  have ho : word.extractLsb' 24 5 = 18#5 := by
    subst hw; simp (disch := decide) only [extract_low, extract_high]; rfl
  have f0 : word.extractLsb' 19 5 = d := by
    subst hw; simp (disch := decide) only [extract_low, extract_high]; simp
  have f1 : word.extractLsb' 14 5 = a := by
    subst hw; simp (disch := decide) only [extract_low, extract_high]; simp
  have f2 : word.extractLsb' 9 5 = b := by
    subst hw; simp (disch := decide) only [extract_low, extract_high]; simp
  have f3 : word.extractLsb' 6 3 = t := by
    subst hw; simp (disch := decide) only [extract_low, extract_high]; simp
  have f4 : word.extractLsb' 0 1 = s := by
    subst hw; simp (disch := decide) only [extract_low, extract_high]; simp
  have hm : word &&& 0x0000003E#32 = 0x00000000#32 := by
    rw [hw, show (0x0000003E#32 : BitVec 32) = 0#8 ++ 0#5 ++ 0#5 ++ 0#5 ++ 0#3 ++ 31#5 ++ 0#1 from by decide, BitVec.and_append]
    simp only [BitVec.and_append, BitVec.and_zero]; rfl
  have hx : word.extractLsb' 1 1 = 0#1 := by subst hw; simp (disch := decide) only [extract_low, extract_high]; rfl
  have hb : word[1] = false := by simpa using congrArg (BitVec.getLsbD · 0) hx
  simp [rowOf, engineOf, rowVec, hg, ho, f0, f1, f2, f3, f4, hm, hb]

theorem vmovxPut (d : BitVec 5) (a : BitVec 5) (b : BitVec 5) (t : BitVec 3) : Statement (.vmovxPut d a b t) := by
  intro wf word hw
  have hw : word = (0x72#8 ++ d ++ a ++ b ++ t ++ 2#6 : BitVec 32) := List.mem_singleton.mp hw
  have hg : word.extractLsb' 29 3 = 3#3 := by
    subst hw; simp (disch := decide) only [extract_low, extract_high]; rfl
  have ho : word.extractLsb' 24 5 = 18#5 := by
    subst hw; simp (disch := decide) only [extract_low, extract_high]; rfl
  have f0 : word.extractLsb' 19 5 = d := by
    subst hw; simp (disch := decide) only [extract_low, extract_high]; simp
  have f1 : word.extractLsb' 14 5 = a := by
    subst hw; simp (disch := decide) only [extract_low, extract_high]; simp
  have f2 : word.extractLsb' 9 5 = b := by
    subst hw; simp (disch := decide) only [extract_low, extract_high]; simp
  have f3 : word.extractLsb' 6 3 = t := by
    subst hw; simp (disch := decide) only [extract_low, extract_high]; simp
  have hm : word &&& 0x0000003F#32 = 0x00000002#32 := by
    rw [hw, show (0x0000003F#32 : BitVec 32) = 0#8 ++ 0#5 ++ 0#5 ++ 0#5 ++ 0#3 ++ 63#6 from by decide, BitVec.and_append]
    simp only [BitVec.and_append, BitVec.and_zero]; rfl
  have hx : word.extractLsb' 1 1 = 1#1 := by subst hw; simp (disch := decide) only [extract_low, extract_high]; rfl
  have hb : word[1] = true := by simpa using congrArg (BitVec.getLsbD · 0) hx
  simp [rowOf, engineOf, rowVec, hg, ho, f0, f1, f2, f3, hm, hb]

theorem vperm (d : BitVec 5) (a : BitVec 5) (b : BitVec 5) (t : BitVec 3) (q : BitVec 3) : Statement (.vperm d a b t q) := by
  intro wf word hw
  have hw : word = (0x73#8 ++ d ++ a ++ b ++ t ++ q ++ 0#3 : BitVec 32) := List.mem_singleton.mp hw
  have hg : word.extractLsb' 29 3 = 3#3 := by
    subst hw; simp (disch := decide) only [extract_low, extract_high]; rfl
  have ho : word.extractLsb' 24 5 = 19#5 := by
    subst hw; simp (disch := decide) only [extract_low, extract_high]; rfl
  have f0 : word.extractLsb' 19 5 = d := by
    subst hw; simp (disch := decide) only [extract_low, extract_high]; simp
  have f1 : word.extractLsb' 14 5 = a := by
    subst hw; simp (disch := decide) only [extract_low, extract_high]; simp
  have f2 : word.extractLsb' 9 5 = b := by
    subst hw; simp (disch := decide) only [extract_low, extract_high]; simp
  have f3 : word.extractLsb' 6 3 = t := by
    subst hw; simp (disch := decide) only [extract_low, extract_high]; simp
  have f4 : word.extractLsb' 3 3 = q := by
    subst hw; simp (disch := decide) only [extract_low, extract_high]; simp
  have hm : word &&& 0x00000007#32 = 0x00000000#32 := by
    rw [hw, show (0x00000007#32 : BitVec 32) = 0#8 ++ 0#5 ++ 0#5 ++ 0#5 ++ 0#3 ++ 0#3 ++ 7#3 from by decide, BitVec.and_append]
    simp only [BitVec.and_append, BitVec.and_zero]; rfl
  simp [rowOf, engineOf, rowVec, hg, ho, f0, f1, f2, f3, f4, hm]

theorem vexp2 (d : BitVec 5) (a : BitVec 5) (t : BitVec 3) (q : BitVec 3) (v : BitVec 3) : Statement (.vexp2 d a t q v) := by
  intro wf word hw
  have hw : word = (0x74#8 ++ d ++ a ++ 0#5 ++ t ++ q ++ v : BitVec 32) := List.mem_singleton.mp hw
  have hg : word.extractLsb' 29 3 = 3#3 := by
    subst hw; simp (disch := decide) only [extract_low, extract_high]; rfl
  have ho : word.extractLsb' 24 5 = 20#5 := by
    subst hw; simp (disch := decide) only [extract_low, extract_high]; rfl
  have f0 : word.extractLsb' 19 5 = d := by
    subst hw; simp (disch := decide) only [extract_low, extract_high]; simp
  have f1 : word.extractLsb' 14 5 = a := by
    subst hw; simp (disch := decide) only [extract_low, extract_high]; simp
  have f2 : word.extractLsb' 6 3 = t := by
    subst hw; simp (disch := decide) only [extract_low, extract_high]; simp
  have f3 : word.extractLsb' 3 3 = q := by
    subst hw; simp (disch := decide) only [extract_low, extract_high]; simp
  have f4 : word.extractLsb' 0 3 = v := by
    subst hw; simp (disch := decide) only [extract_low, extract_high]; simp
  have hm : word &&& 0x00003E00#32 = 0x00000000#32 := by
    rw [hw, show (0x00003E00#32 : BitVec 32) = 0#8 ++ 0#5 ++ 0#5 ++ 31#5 ++ 0#3 ++ 0#3 ++ 0#3 from by decide, BitVec.and_append]
    simp only [BitVec.and_append, BitVec.and_zero]; rfl
  simp [rowOf, engineOf, rowVec, hg, ho, f0, f1, f2, f3, f4, hm]

theorem vlog2 (d : BitVec 5) (a : BitVec 5) (t : BitVec 3) (q : BitVec 3) (v : BitVec 3) : Statement (.vlog2 d a t q v) := by
  intro wf word hw
  have hw : word = (0x75#8 ++ d ++ a ++ 0#5 ++ t ++ q ++ v : BitVec 32) := List.mem_singleton.mp hw
  have hg : word.extractLsb' 29 3 = 3#3 := by
    subst hw; simp (disch := decide) only [extract_low, extract_high]; rfl
  have ho : word.extractLsb' 24 5 = 21#5 := by
    subst hw; simp (disch := decide) only [extract_low, extract_high]; rfl
  have f0 : word.extractLsb' 19 5 = d := by
    subst hw; simp (disch := decide) only [extract_low, extract_high]; simp
  have f1 : word.extractLsb' 14 5 = a := by
    subst hw; simp (disch := decide) only [extract_low, extract_high]; simp
  have f2 : word.extractLsb' 6 3 = t := by
    subst hw; simp (disch := decide) only [extract_low, extract_high]; simp
  have f3 : word.extractLsb' 3 3 = q := by
    subst hw; simp (disch := decide) only [extract_low, extract_high]; simp
  have f4 : word.extractLsb' 0 3 = v := by
    subst hw; simp (disch := decide) only [extract_low, extract_high]; simp
  have hm : word &&& 0x00003E00#32 = 0x00000000#32 := by
    rw [hw, show (0x00003E00#32 : BitVec 32) = 0#8 ++ 0#5 ++ 0#5 ++ 31#5 ++ 0#3 ++ 0#3 ++ 0#3 from by decide, BitVec.and_append]
    simp only [BitVec.and_append, BitVec.and_zero]; rfl
  simp [rowOf, engineOf, rowVec, hg, ho, f0, f1, f2, f3, f4, hm]

theorem vrcp (d : BitVec 5) (a : BitVec 5) (t : BitVec 3) (q : BitVec 3) (v : BitVec 3) : Statement (.vrcp d a t q v) := by
  intro wf word hw
  have hw : word = (0x76#8 ++ d ++ a ++ 0#5 ++ t ++ q ++ v : BitVec 32) := List.mem_singleton.mp hw
  have hg : word.extractLsb' 29 3 = 3#3 := by
    subst hw; simp (disch := decide) only [extract_low, extract_high]; rfl
  have ho : word.extractLsb' 24 5 = 22#5 := by
    subst hw; simp (disch := decide) only [extract_low, extract_high]; rfl
  have f0 : word.extractLsb' 19 5 = d := by
    subst hw; simp (disch := decide) only [extract_low, extract_high]; simp
  have f1 : word.extractLsb' 14 5 = a := by
    subst hw; simp (disch := decide) only [extract_low, extract_high]; simp
  have f2 : word.extractLsb' 6 3 = t := by
    subst hw; simp (disch := decide) only [extract_low, extract_high]; simp
  have f3 : word.extractLsb' 3 3 = q := by
    subst hw; simp (disch := decide) only [extract_low, extract_high]; simp
  have f4 : word.extractLsb' 0 3 = v := by
    subst hw; simp (disch := decide) only [extract_low, extract_high]; simp
  have hm : word &&& 0x00003E00#32 = 0x00000000#32 := by
    rw [hw, show (0x00003E00#32 : BitVec 32) = 0#8 ++ 0#5 ++ 0#5 ++ 31#5 ++ 0#3 ++ 0#3 ++ 0#3 from by decide, BitVec.and_append]
    simp only [BitVec.and_append, BitVec.and_zero]; rfl
  simp [rowOf, engineOf, rowVec, hg, ho, f0, f1, f2, f3, f4, hm]

theorem vrsq (d : BitVec 5) (a : BitVec 5) (t : BitVec 3) (q : BitVec 3) (v : BitVec 3) : Statement (.vrsq d a t q v) := by
  intro wf word hw
  have hw : word = (0x77#8 ++ d ++ a ++ 0#5 ++ t ++ q ++ v : BitVec 32) := List.mem_singleton.mp hw
  have hg : word.extractLsb' 29 3 = 3#3 := by
    subst hw; simp (disch := decide) only [extract_low, extract_high]; rfl
  have ho : word.extractLsb' 24 5 = 23#5 := by
    subst hw; simp (disch := decide) only [extract_low, extract_high]; rfl
  have f0 : word.extractLsb' 19 5 = d := by
    subst hw; simp (disch := decide) only [extract_low, extract_high]; simp
  have f1 : word.extractLsb' 14 5 = a := by
    subst hw; simp (disch := decide) only [extract_low, extract_high]; simp
  have f2 : word.extractLsb' 6 3 = t := by
    subst hw; simp (disch := decide) only [extract_low, extract_high]; simp
  have f3 : word.extractLsb' 3 3 = q := by
    subst hw; simp (disch := decide) only [extract_low, extract_high]; simp
  have f4 : word.extractLsb' 0 3 = v := by
    subst hw; simp (disch := decide) only [extract_low, extract_high]; simp
  have hm : word &&& 0x00003E00#32 = 0x00000000#32 := by
    rw [hw, show (0x00003E00#32 : BitVec 32) = 0#8 ++ 0#5 ++ 0#5 ++ 31#5 ++ 0#3 ++ 0#3 ++ 0#3 from by decide, BitVec.and_append]
    simp only [BitVec.and_append, BitVec.and_zero]; rfl
  simp [rowOf, engineOf, rowVec, hg, ho, f0, f1, f2, f3, f4, hm]

theorem vsqrt (d : BitVec 5) (a : BitVec 5) (t : BitVec 3) (q : BitVec 3) (v : BitVec 3) : Statement (.vsqrt d a t q v) := by
  intro wf word hw
  have hw : word = (0x78#8 ++ d ++ a ++ 0#5 ++ t ++ q ++ v : BitVec 32) := List.mem_singleton.mp hw
  have hg : word.extractLsb' 29 3 = 3#3 := by
    subst hw; simp (disch := decide) only [extract_low, extract_high]; rfl
  have ho : word.extractLsb' 24 5 = 24#5 := by
    subst hw; simp (disch := decide) only [extract_low, extract_high]; rfl
  have f0 : word.extractLsb' 19 5 = d := by
    subst hw; simp (disch := decide) only [extract_low, extract_high]; simp
  have f1 : word.extractLsb' 14 5 = a := by
    subst hw; simp (disch := decide) only [extract_low, extract_high]; simp
  have f2 : word.extractLsb' 6 3 = t := by
    subst hw; simp (disch := decide) only [extract_low, extract_high]; simp
  have f3 : word.extractLsb' 3 3 = q := by
    subst hw; simp (disch := decide) only [extract_low, extract_high]; simp
  have f4 : word.extractLsb' 0 3 = v := by
    subst hw; simp (disch := decide) only [extract_low, extract_high]; simp
  have hm : word &&& 0x00003E00#32 = 0x00000000#32 := by
    rw [hw, show (0x00003E00#32 : BitVec 32) = 0#8 ++ 0#5 ++ 0#5 ++ 31#5 ++ 0#3 ++ 0#3 ++ 0#3 from by decide, BitVec.and_append]
    simp only [BitVec.and_append, BitVec.and_zero]; rfl
  simp [rowOf, engineOf, rowVec, hg, ho, f0, f1, f2, f3, f4, hm]

theorem viota (d : BitVec 5) (a : BitVec 5) (b : BitVec 5) (t : BitVec 3) (q : BitVec 3) : Statement (.viota d a b t q) := by
  intro wf word hw
  have hw : word = (0x79#8 ++ d ++ a ++ b ++ t ++ q ++ 0#3 : BitVec 32) := List.mem_singleton.mp hw
  have hg : word.extractLsb' 29 3 = 3#3 := by
    subst hw; simp (disch := decide) only [extract_low, extract_high]; rfl
  have ho : word.extractLsb' 24 5 = 25#5 := by
    subst hw; simp (disch := decide) only [extract_low, extract_high]; rfl
  have f0 : word.extractLsb' 19 5 = d := by
    subst hw; simp (disch := decide) only [extract_low, extract_high]; simp
  have f1 : word.extractLsb' 14 5 = a := by
    subst hw; simp (disch := decide) only [extract_low, extract_high]; simp
  have f2 : word.extractLsb' 9 5 = b := by
    subst hw; simp (disch := decide) only [extract_low, extract_high]; simp
  have f3 : word.extractLsb' 6 3 = t := by
    subst hw; simp (disch := decide) only [extract_low, extract_high]; simp
  have f4 : word.extractLsb' 3 3 = q := by
    subst hw; simp (disch := decide) only [extract_low, extract_high]; simp
  have hm : word &&& 0x00000007#32 = 0x00000000#32 := by
    rw [hw, show (0x00000007#32 : BitVec 32) = 0#8 ++ 0#5 ++ 0#5 ++ 0#5 ++ 0#3 ++ 0#3 ++ 7#3 from by decide, BitVec.and_append]
    simp only [BitVec.and_append, BitVec.and_zero]; rfl
  simp [rowOf, engineOf, rowVec, hg, ho, f0, f1, f2, f3, f4, hm]

theorem vcnt (d : BitVec 5) (a : BitVec 5) (t : BitVec 3) (q : BitVec 3) (v : BitVec 3) : Statement (.vcnt d a t q v) := by
  intro wf word hw
  have hw : word = (0x7A#8 ++ d ++ a ++ 0#5 ++ t ++ q ++ v : BitVec 32) := List.mem_singleton.mp hw
  have hg : word.extractLsb' 29 3 = 3#3 := by
    subst hw; simp (disch := decide) only [extract_low, extract_high]; rfl
  have ho : word.extractLsb' 24 5 = 26#5 := by
    subst hw; simp (disch := decide) only [extract_low, extract_high]; rfl
  have f0 : word.extractLsb' 19 5 = d := by
    subst hw; simp (disch := decide) only [extract_low, extract_high]; simp
  have f1 : word.extractLsb' 14 5 = a := by
    subst hw; simp (disch := decide) only [extract_low, extract_high]; simp
  have f2 : word.extractLsb' 6 3 = t := by
    subst hw; simp (disch := decide) only [extract_low, extract_high]; simp
  have f3 : word.extractLsb' 3 3 = q := by
    subst hw; simp (disch := decide) only [extract_low, extract_high]; simp
  have f4 : word.extractLsb' 0 3 = v := by
    subst hw; simp (disch := decide) only [extract_low, extract_high]; simp
  have hm : word &&& 0x00003E00#32 = 0x00000000#32 := by
    rw [hw, show (0x00003E00#32 : BitVec 32) = 0#8 ++ 0#5 ++ 0#5 ++ 31#5 ++ 0#3 ++ 0#3 ++ 0#3 from by decide, BitVec.and_append]
    simp only [BitVec.and_append, BitVec.and_zero]; rfl
  simp [rowOf, engineOf, rowVec, hg, ho, f0, f1, f2, f3, f4, hm]

theorem vpack (d : BitVec 5) (a : BitVec 5) (b : BitVec 5) (m : BitVec 3) (s : BitVec 2) (p : BitVec 3) : Statement (.vpack d a b m s p) := by
  intro wf word hw
  have hw : word = (0x7B#8 ++ d ++ a ++ b ++ m ++ 0#1 ++ s ++ p : BitVec 32) := List.mem_singleton.mp hw
  have hg : word.extractLsb' 29 3 = 3#3 := by
    subst hw; simp (disch := decide) only [extract_low, extract_high]; rfl
  have ho : word.extractLsb' 24 5 = 27#5 := by
    subst hw; simp (disch := decide) only [extract_low, extract_high]; rfl
  have f0 : word.extractLsb' 19 5 = d := by
    subst hw; simp (disch := decide) only [extract_low, extract_high]; simp
  have f1 : word.extractLsb' 14 5 = a := by
    subst hw; simp (disch := decide) only [extract_low, extract_high]; simp
  have f2 : word.extractLsb' 9 5 = b := by
    subst hw; simp (disch := decide) only [extract_low, extract_high]; simp
  have f3 : word.extractLsb' 6 3 = m := by
    subst hw; simp (disch := decide) only [extract_low, extract_high]; simp
  have f4 : word.extractLsb' 3 2 = s := by
    subst hw; simp (disch := decide) only [extract_low, extract_high]; simp
  have f5 : word.extractLsb' 0 3 = p := by
    subst hw; simp (disch := decide) only [extract_low, extract_high]; simp
  have hm : word &&& 0x00000020#32 = 0x00000000#32 := by
    rw [hw, show (0x00000020#32 : BitVec 32) = 0#8 ++ 0#5 ++ 0#5 ++ 0#5 ++ 0#3 ++ 1#1 ++ 0#2 ++ 0#3 from by decide, BitVec.and_append]
    simp only [BitVec.and_append, BitVec.and_zero]; rfl
  simp [rowOf, engineOf, rowVec, hg, ho, f0, f1, f2, f3, f4, f5, hm]

theorem vunpk (d : BitVec 5) (a : BitVec 5) (b : BitVec 5) (m : BitVec 3) (s : BitVec 2) (p : BitVec 3) : Statement (.vunpk d a b m s p) := by
  intro wf word hw
  have hw : word = (0x7C#8 ++ d ++ a ++ b ++ m ++ 0#1 ++ s ++ p : BitVec 32) := List.mem_singleton.mp hw
  have hg : word.extractLsb' 29 3 = 3#3 := by
    subst hw; simp (disch := decide) only [extract_low, extract_high]; rfl
  have ho : word.extractLsb' 24 5 = 28#5 := by
    subst hw; simp (disch := decide) only [extract_low, extract_high]; rfl
  have f0 : word.extractLsb' 19 5 = d := by
    subst hw; simp (disch := decide) only [extract_low, extract_high]; simp
  have f1 : word.extractLsb' 14 5 = a := by
    subst hw; simp (disch := decide) only [extract_low, extract_high]; simp
  have f2 : word.extractLsb' 9 5 = b := by
    subst hw; simp (disch := decide) only [extract_low, extract_high]; simp
  have f3 : word.extractLsb' 6 3 = m := by
    subst hw; simp (disch := decide) only [extract_low, extract_high]; simp
  have f4 : word.extractLsb' 3 2 = s := by
    subst hw; simp (disch := decide) only [extract_low, extract_high]; simp
  have f5 : word.extractLsb' 0 3 = p := by
    subst hw; simp (disch := decide) only [extract_low, extract_high]; simp
  have hm : word &&& 0x00000020#32 = 0x00000000#32 := by
    rw [hw, show (0x00000020#32 : BitVec 32) = 0#8 ++ 0#5 ++ 0#5 ++ 0#5 ++ 0#3 ++ 1#1 ++ 0#2 ++ 0#3 from by decide, BitVec.and_append]
    simp only [BitVec.and_append, BitVec.and_zero]; rfl
  simp [rowOf, engineOf, rowVec, hg, ho, f0, f1, f2, f3, f4, f5, hm]

theorem vrng (d : BitVec 5) (t : BitVec 3) (q : BitVec 3) : Statement (.vrng d t q) := by
  intro wf word hw
  have hw : word = (0x7D#8 ++ d ++ 0#10 ++ t ++ q ++ 0#3 : BitVec 32) := List.mem_singleton.mp hw
  have hg : word.extractLsb' 29 3 = 3#3 := by
    subst hw; simp (disch := decide) only [extract_low, extract_high]; rfl
  have ho : word.extractLsb' 24 5 = 29#5 := by
    subst hw; simp (disch := decide) only [extract_low, extract_high]; rfl
  have f0 : word.extractLsb' 19 5 = d := by
    subst hw; simp (disch := decide) only [extract_low, extract_high]; simp
  have f1 : word.extractLsb' 6 3 = t := by
    subst hw; simp (disch := decide) only [extract_low, extract_high]; simp
  have f2 : word.extractLsb' 3 3 = q := by
    subst hw; simp (disch := decide) only [extract_low, extract_high]; simp
  have hm : word &&& 0x0007FE07#32 = 0x00000000#32 := by
    rw [hw, show (0x0007FE07#32 : BitVec 32) = 0#8 ++ 0#5 ++ 1023#10 ++ 0#3 ++ 0#3 ++ 7#3 from by decide, BitVec.and_append]
    simp only [BitVec.and_append, BitVec.and_zero]; rfl
  simp [rowOf, engineOf, rowVec, hg, ho, f0, f1, f2, hm]

theorem vkop (d : BitVec 3) (a : BitVec 3) (b : BitVec 3) (l : BitVec 3) : Statement (.vkop d a b l) := by
  intro wf word hw
  have hw : word = (0x7E#8 ++ 0#2 ++ d ++ 0#2 ++ a ++ 0#2 ++ b ++ l ++ 0#6 : BitVec 32) := List.mem_singleton.mp hw
  have hg : word.extractLsb' 29 3 = 3#3 := by
    subst hw; simp (disch := decide) only [extract_low, extract_high]; rfl
  have ho : word.extractLsb' 24 5 = 30#5 := by
    subst hw; simp (disch := decide) only [extract_low, extract_high]; rfl
  have f0 : word.extractLsb' 19 3 = d := by
    subst hw; simp (disch := decide) only [extract_low, extract_high]; simp
  have f1 : word.extractLsb' 14 3 = a := by
    subst hw; simp (disch := decide) only [extract_low, extract_high]; simp
  have f2 : word.extractLsb' 9 3 = b := by
    subst hw; simp (disch := decide) only [extract_low, extract_high]; simp
  have f3 : word.extractLsb' 6 3 = l := by
    subst hw; simp (disch := decide) only [extract_low, extract_high]; simp
  have hm : word &&& 0x0000003F#32 = 0x00000000#32 := by
    rw [hw, show (0x0000003F#32 : BitVec 32) = 0#8 ++ 0#2 ++ 0#3 ++ 0#2 ++ 0#3 ++ 0#2 ++ 0#3 ++ 0#3 ++ 63#6 from by decide, BitVec.and_append]
    simp only [BitVec.and_append, BitVec.and_zero]; rfl
  have hr : word &&& 0x00C63000#32 = 0x00000000#32 := by
    rw [hw, show (0x00C63000#32 : BitVec 32) = 0#8 ++ 3#2 ++ 0#3 ++ 3#2 ++ 0#3 ++ 3#2 ++ 0#3 ++ 0#3 ++ 0#6 from by decide, BitVec.and_append]
    simp only [BitVec.and_append, BitVec.and_zero]; rfl
  simp [rowOf, engineOf, rowVec, hg, ho, f0, f1, f2, f3, hm, hr]

theorem vsetl (d : BitVec 5) (a : BitVec 5) (t : BitVec 3) : Statement (.vsetl d a t) := by
  intro wf word hw
  have hw : word = (0x7F#8 ++ d ++ a ++ t ++ 0#11 : BitVec 32) := List.mem_singleton.mp hw
  have hg : word.extractLsb' 29 3 = 3#3 := by
    subst hw; simp (disch := decide) only [extract_low, extract_high]; rfl
  have ho : word.extractLsb' 24 5 = 31#5 := by
    subst hw; simp (disch := decide) only [extract_low, extract_high]; rfl
  have f0 : word.extractLsb' 19 5 = d := by
    subst hw; simp (disch := decide) only [extract_low, extract_high]; simp
  have f1 : word.extractLsb' 14 5 = a := by
    subst hw; simp (disch := decide) only [extract_low, extract_high]; simp
  have f2 : word.extractLsb' 11 3 = t := by
    subst hw; simp (disch := decide) only [extract_low, extract_high]; simp
  have hm : word &&& 0x000007FF#32 = 0x00000000#32 := by
    rw [hw, show (0x000007FF#32 : BitVec 32) = 0#8 ++ 0#5 ++ 0#5 ++ 0#3 ++ 2047#11 from by decide, BitVec.and_append]
    simp only [BitVec.and_append, BitVec.and_zero]; rfl
  simp [rowOf, engineOf, rowVec, hg, ho, f0, f1, f2, hm]

theorem mcfg (d : BitVec 5) (a : BitVec 5) : Statement (.mcfg d a) := by
  intro wf word hw
  have hw : word = (0x80#8 ++ d ++ a ++ 0#14 : BitVec 32) := List.mem_singleton.mp hw
  have hg : word.extractLsb' 29 3 = 4#3 := by
    subst hw; simp (disch := decide) only [extract_low, extract_high]; rfl
  have ho : word.extractLsb' 24 5 = 0#5 := by
    subst hw; simp (disch := decide) only [extract_low, extract_high]; rfl
  have f0 : word.extractLsb' 19 5 = d := by
    subst hw; simp (disch := decide) only [extract_low, extract_high]; simp
  have f1 : word.extractLsb' 14 5 = a := by
    subst hw; simp (disch := decide) only [extract_low, extract_high]; simp
  have hm : word &&& 0x00003FFF#32 = 0x00000000#32 := by
    rw [hw, show (0x00003FFF#32 : BitVec 32) = 0#8 ++ 0#5 ++ 0#5 ++ 16383#14 from by decide, BitVec.and_append]
    simp only [BitVec.and_append, BitVec.and_zero]; rfl
  simp [rowOf, engineOf, rowMtx, hg, ho, f0, f1, hm]

theorem mfda (d : BitVec 5) (a : BitVec 5) (b : BitVec 5) (n : BitVec 1) : Statement (.mfda d a b n) := by
  intro wf word hw
  have hw : word = (0x81#8 ++ d ++ a ++ b ++ 0#2 ++ n ++ 0#6 : BitVec 32) := List.mem_singleton.mp hw
  have hg : word.extractLsb' 29 3 = 4#3 := by
    subst hw; simp (disch := decide) only [extract_low, extract_high]; rfl
  have ho : word.extractLsb' 24 5 = 1#5 := by
    subst hw; simp (disch := decide) only [extract_low, extract_high]; rfl
  have f0 : word.extractLsb' 19 5 = d := by
    subst hw; simp (disch := decide) only [extract_low, extract_high]; simp
  have f1 : word.extractLsb' 14 5 = a := by
    subst hw; simp (disch := decide) only [extract_low, extract_high]; simp
  have f2 : word.extractLsb' 9 5 = b := by
    subst hw; simp (disch := decide) only [extract_low, extract_high]; simp
  have f3 : word.extractLsb' 6 1 = n := by
    subst hw; simp (disch := decide) only [extract_low, extract_high]; simp
  have hm : word &&& 0x000001BF#32 = 0x00000000#32 := by
    rw [hw, show (0x000001BF#32 : BitVec 32) = 0#8 ++ 0#5 ++ 0#5 ++ 0#5 ++ 3#2 ++ 0#1 ++ 63#6 from by decide, BitVec.and_append]
    simp only [BitVec.and_append, BitVec.and_zero]; rfl
  simp [rowOf, engineOf, rowMtx, hg, ho, f0, f1, f2, f3, hm]

theorem mfdb (d : BitVec 5) (a : BitVec 5) (b : BitVec 5) (n : BitVec 1) : Statement (.mfdb d a b n) := by
  intro wf word hw
  have hw : word = (0x82#8 ++ d ++ a ++ b ++ 0#2 ++ n ++ 0#6 : BitVec 32) := List.mem_singleton.mp hw
  have hg : word.extractLsb' 29 3 = 4#3 := by
    subst hw; simp (disch := decide) only [extract_low, extract_high]; rfl
  have ho : word.extractLsb' 24 5 = 2#5 := by
    subst hw; simp (disch := decide) only [extract_low, extract_high]; rfl
  have f0 : word.extractLsb' 19 5 = d := by
    subst hw; simp (disch := decide) only [extract_low, extract_high]; simp
  have f1 : word.extractLsb' 14 5 = a := by
    subst hw; simp (disch := decide) only [extract_low, extract_high]; simp
  have f2 : word.extractLsb' 9 5 = b := by
    subst hw; simp (disch := decide) only [extract_low, extract_high]; simp
  have f3 : word.extractLsb' 6 1 = n := by
    subst hw; simp (disch := decide) only [extract_low, extract_high]; simp
  have hm : word &&& 0x000001BF#32 = 0x00000000#32 := by
    rw [hw, show (0x000001BF#32 : BitVec 32) = 0#8 ++ 0#5 ++ 0#5 ++ 0#5 ++ 3#2 ++ 0#1 ++ 63#6 from by decide, BitVec.and_append]
    simp only [BitVec.and_append, BitVec.and_zero]; rfl
  simp [rowOf, engineOf, rowMtx, hg, ho, f0, f1, f2, f3, hm]

theorem msq (d : BitVec 1) (a : BitVec 1) (b : BitVec 1) : Statement (.msq d a b) := by
  intro wf word hw
  have hw : word = (0x83#8 ++ 0#4 ++ d ++ 0#4 ++ a ++ 0#4 ++ b ++ 0#9 : BitVec 32) := List.mem_singleton.mp hw
  have hg : word.extractLsb' 29 3 = 4#3 := by
    subst hw; simp (disch := decide) only [extract_low, extract_high]; rfl
  have ho : word.extractLsb' 24 5 = 3#5 := by
    subst hw; simp (disch := decide) only [extract_low, extract_high]; rfl
  have f0 : word.extractLsb' 19 1 = d := by
    subst hw; simp (disch := decide) only [extract_low, extract_high]; simp
  have f1 : word.extractLsb' 14 1 = a := by
    subst hw; simp (disch := decide) only [extract_low, extract_high]; simp
  have f2 : word.extractLsb' 9 1 = b := by
    subst hw; simp (disch := decide) only [extract_low, extract_high]; simp
  have hm : word &&& 0x000001FF#32 = 0x00000000#32 := by
    rw [hw, show (0x000001FF#32 : BitVec 32) = 0#8 ++ 0#4 ++ 0#1 ++ 0#4 ++ 0#1 ++ 0#4 ++ 0#1 ++ 511#9 from by decide, BitVec.and_append]
    simp only [BitVec.and_append, BitVec.and_zero]; rfl
  have hr : word &&& 0x00F7BC00#32 = 0x00000000#32 := by
    rw [hw, show (0x00F7BC00#32 : BitVec 32) = 0#8 ++ 15#4 ++ 0#1 ++ 15#4 ++ 0#1 ++ 15#4 ++ 0#1 ++ 0#9 from by decide, BitVec.and_append]
    simp only [BitVec.and_append, BitVec.and_zero]; rfl
  simp [rowOf, engineOf, rowMtx, hg, ho, f0, f1, f2, hm, hr]

theorem mhem (a : BitVec 1) : Statement (.mhem a) := by
  intro wf word hw
  have hw : word = (0x84#8 ++ 0#9 ++ a ++ 0#14 : BitVec 32) := List.mem_singleton.mp hw
  have hg : word.extractLsb' 29 3 = 4#3 := by
    subst hw; simp (disch := decide) only [extract_low, extract_high]; rfl
  have ho : word.extractLsb' 24 5 = 4#5 := by
    subst hw; simp (disch := decide) only [extract_low, extract_high]; rfl
  have f0 : word.extractLsb' 14 1 = a := by
    subst hw; simp (disch := decide) only [extract_low, extract_high]; simp
  have hm : word &&& 0x00F83FFF#32 = 0x00000000#32 := by
    rw [hw, show (0x00F83FFF#32 : BitVec 32) = 0#8 ++ 496#9 ++ 0#1 ++ 16383#14 from by decide, BitVec.and_append]
    simp only [BitVec.and_append, BitVec.and_zero]; rfl
  have hr : word &&& 0x00078000#32 = 0x00000000#32 := by
    rw [hw, show (0x00078000#32 : BitVec 32) = 0#8 ++ 15#9 ++ 0#1 ++ 0#14 from by decide, BitVec.and_append]
    simp only [BitVec.and_append, BitVec.and_zero]; rfl
  simp [rowOf, engineOf, rowMtx, hg, ho, f0, hm, hr]

theorem msa (d : BitVec 2) (a : BitVec 5) (b : BitVec 5) : Statement (.msa d a b) := by
  intro wf word hw
  have hw : word = (0x85#8 ++ 0#3 ++ d ++ a ++ b ++ 0#9 : BitVec 32) := List.mem_singleton.mp hw
  have hg : word.extractLsb' 29 3 = 4#3 := by
    subst hw; simp (disch := decide) only [extract_low, extract_high]; rfl
  have ho : word.extractLsb' 24 5 = 5#5 := by
    subst hw; simp (disch := decide) only [extract_low, extract_high]; rfl
  have f0 : word.extractLsb' 19 2 = d := by
    subst hw; simp (disch := decide) only [extract_low, extract_high]; simp
  have f1 : word.extractLsb' 14 5 = a := by
    subst hw; simp (disch := decide) only [extract_low, extract_high]; simp
  have f2 : word.extractLsb' 9 5 = b := by
    subst hw; simp (disch := decide) only [extract_low, extract_high]; simp
  have hm : word &&& 0x000001FF#32 = 0x00000000#32 := by
    rw [hw, show (0x000001FF#32 : BitVec 32) = 0#8 ++ 0#3 ++ 0#2 ++ 0#5 ++ 0#5 ++ 511#9 from by decide, BitVec.and_append]
    simp only [BitVec.and_append, BitVec.and_zero]; rfl
  have hr : word &&& 0x00E00000#32 = 0x00000000#32 := by
    rw [hw, show (0x00E00000#32 : BitVec 32) = 0#8 ++ 7#3 ++ 0#2 ++ 0#5 ++ 0#5 ++ 0#9 from by decide, BitVec.and_append]
    simp only [BitVec.and_append, BitVec.and_zero]; rfl
  simp [rowOf, engineOf, rowMtx, hg, ho, f0, f1, f2, hm, hr]

theorem mchk : Statement (.mchk) := by
  intro wf word hw
  have hw : word = (0x86#8 ++ 0#24 : BitVec 32) := List.mem_singleton.mp hw
  have hg : word.extractLsb' 29 3 = 4#3 := by
    subst hw; simp (disch := decide) only [extract_low, extract_high]; rfl
  have ho : word.extractLsb' 24 5 = 6#5 := by
    subst hw; simp (disch := decide) only [extract_low, extract_high]; rfl
  have hm : word &&& 0x00FFFFFF#32 = 0x00000000#32 := by
    rw [hw, show (0x00FFFFFF#32 : BitVec 32) = 0#8 ++ 16777215#24 from by decide, BitVec.and_append]
    rfl
  simp [rowOf, engineOf, rowMtx, hg, ho, hm]

theorem mzero (d : BitVec 2) : Statement (.mzero d) := by
  intro wf word hw
  have hw : word = (0x87#8 ++ 0#3 ++ d ++ 0#19 : BitVec 32) := List.mem_singleton.mp hw
  have hg : word.extractLsb' 29 3 = 4#3 := by
    subst hw; simp (disch := decide) only [extract_low, extract_high]; rfl
  have ho : word.extractLsb' 24 5 = 7#5 := by
    subst hw; simp (disch := decide) only [extract_low, extract_high]; rfl
  have f0 : word.extractLsb' 19 2 = d := by
    subst hw; simp (disch := decide) only [extract_low, extract_high]; simp
  have hm : word &&& 0x0007FFFF#32 = 0x00000000#32 := by
    rw [hw, show (0x0007FFFF#32 : BitVec 32) = 0#8 ++ 0#3 ++ 0#2 ++ 524287#19 from by decide, BitVec.and_append]
    simp only [BitVec.and_append, BitVec.and_zero]; rfl
  have hr : word &&& 0x00E00000#32 = 0x00000000#32 := by
    rw [hw, show (0x00E00000#32 : BitVec 32) = 0#8 ++ 7#3 ++ 0#2 ++ 0#19 from by decide, BitVec.and_append]
    simp only [BitVec.and_append, BitVec.and_zero]; rfl
  simp [rowOf, engineOf, rowMtx, hg, ho, f0, hm, hr]

theorem mst (d : BitVec 2) (a : BitVec 5) (b : BitVec 5) (r : BitVec 3) (f : BitVec 5) : Statement (.mst d a b r f) := by
  intro wf word hw
  have hw : word = (0x88#8 ++ 0#3 ++ d ++ a ++ b ++ r ++ 0#1 ++ f : BitVec 32) := List.mem_singleton.mp hw
  have hg : word.extractLsb' 29 3 = 4#3 := by
    subst hw; simp (disch := decide) only [extract_low, extract_high]; rfl
  have ho : word.extractLsb' 24 5 = 8#5 := by
    subst hw; simp (disch := decide) only [extract_low, extract_high]; rfl
  have f0 : word.extractLsb' 19 2 = d := by
    subst hw; simp (disch := decide) only [extract_low, extract_high]; simp
  have f1 : word.extractLsb' 14 5 = a := by
    subst hw; simp (disch := decide) only [extract_low, extract_high]; simp
  have f2 : word.extractLsb' 9 5 = b := by
    subst hw; simp (disch := decide) only [extract_low, extract_high]; simp
  have f3 : word.extractLsb' 6 3 = r := by
    subst hw; simp (disch := decide) only [extract_low, extract_high]; simp
  have f4 : word.extractLsb' 0 5 = f := by
    subst hw; simp (disch := decide) only [extract_low, extract_high]; simp
  have hm : word &&& 0x00000020#32 = 0x00000000#32 := by
    rw [hw, show (0x00000020#32 : BitVec 32) = 0#8 ++ 0#3 ++ 0#2 ++ 0#5 ++ 0#5 ++ 0#3 ++ 1#1 ++ 0#5 from by decide, BitVec.and_append]
    simp only [BitVec.and_append, BitVec.and_zero]; rfl
  have hr : word &&& 0x00E00000#32 = 0x00000000#32 := by
    rw [hw, show (0x00E00000#32 : BitVec 32) = 0#8 ++ 7#3 ++ 0#2 ++ 0#5 ++ 0#5 ++ 0#3 ++ 0#1 ++ 0#5 from by decide, BitVec.and_append]
    simp only [BitVec.and_append, BitVec.and_zero]; rfl
  simp [rowOf, engineOf, rowMtx, hg, ho, f0, f1, f2, f3, f4, hm, hr]

theorem mld (d : BitVec 2) (a : BitVec 5) (b : BitVec 5) (f : BitVec 5) : Statement (.mld d a b f) := by
  intro wf word hw
  have hw : word = (0x89#8 ++ 0#3 ++ d ++ a ++ b ++ 0#4 ++ f : BitVec 32) := List.mem_singleton.mp hw
  have hg : word.extractLsb' 29 3 = 4#3 := by
    subst hw; simp (disch := decide) only [extract_low, extract_high]; rfl
  have ho : word.extractLsb' 24 5 = 9#5 := by
    subst hw; simp (disch := decide) only [extract_low, extract_high]; rfl
  have f0 : word.extractLsb' 19 2 = d := by
    subst hw; simp (disch := decide) only [extract_low, extract_high]; simp
  have f1 : word.extractLsb' 14 5 = a := by
    subst hw; simp (disch := decide) only [extract_low, extract_high]; simp
  have f2 : word.extractLsb' 9 5 = b := by
    subst hw; simp (disch := decide) only [extract_low, extract_high]; simp
  have f3 : word.extractLsb' 0 5 = f := by
    subst hw; simp (disch := decide) only [extract_low, extract_high]; simp
  have hm : word &&& 0x000001E0#32 = 0x00000000#32 := by
    rw [hw, show (0x000001E0#32 : BitVec 32) = 0#8 ++ 0#3 ++ 0#2 ++ 0#5 ++ 0#5 ++ 15#4 ++ 0#5 from by decide, BitVec.and_append]
    simp only [BitVec.and_append, BitVec.and_zero]; rfl
  have hr : word &&& 0x00E00000#32 = 0x00000000#32 := by
    rw [hw, show (0x00E00000#32 : BitVec 32) = 0#8 ++ 7#3 ++ 0#2 ++ 0#5 ++ 0#5 ++ 0#4 ++ 0#5 from by decide, BitVec.and_append]
    simp only [BitVec.and_append, BitVec.and_zero]; rfl
  simp [rowOf, engineOf, rowMtx, hg, ho, f0, f1, f2, f3, hm, hr]

theorem mswap (d : BitVec 2) (a : BitVec 2) : Statement (.mswap d a) := by
  intro wf word hw
  have hw : word = (0x8A#8 ++ 0#3 ++ d ++ 0#3 ++ a ++ 0#14 : BitVec 32) := List.mem_singleton.mp hw
  have hg : word.extractLsb' 29 3 = 4#3 := by
    subst hw; simp (disch := decide) only [extract_low, extract_high]; rfl
  have ho : word.extractLsb' 24 5 = 10#5 := by
    subst hw; simp (disch := decide) only [extract_low, extract_high]; rfl
  have f0 : word.extractLsb' 19 2 = d := by
    subst hw; simp (disch := decide) only [extract_low, extract_high]; simp
  have f1 : word.extractLsb' 14 2 = a := by
    subst hw; simp (disch := decide) only [extract_low, extract_high]; simp
  have hm : word &&& 0x00003FFF#32 = 0x00000000#32 := by
    rw [hw, show (0x00003FFF#32 : BitVec 32) = 0#8 ++ 0#3 ++ 0#2 ++ 0#3 ++ 0#2 ++ 16383#14 from by decide, BitVec.and_append]
    simp only [BitVec.and_append, BitVec.and_zero]; rfl
  have hr : word &&& 0x00E70000#32 = 0x00000000#32 := by
    rw [hw, show (0x00E70000#32 : BitVec 32) = 0#8 ++ 7#3 ++ 0#2 ++ 7#3 ++ 0#2 ++ 0#14 from by decide, BitVec.and_append]
    simp only [BitVec.and_append, BitVec.and_zero]; rfl
  simp [rowOf, engineOf, rowMtx, hg, ho, f0, f1, hm, hr]

theorem mspec (d : BitVec 5) (a : BitVec 5) (z : BitVec 1) : Statement (.mspec d a z) := by
  intro wf word hw
  have hw : word = (0x8B#8 ++ d ++ a ++ 0#13 ++ z : BitVec 32) := List.mem_singleton.mp hw
  have hg : word.extractLsb' 29 3 = 4#3 := by
    subst hw; simp (disch := decide) only [extract_low, extract_high]; rfl
  have ho : word.extractLsb' 24 5 = 11#5 := by
    subst hw; simp (disch := decide) only [extract_low, extract_high]; rfl
  have f0 : word.extractLsb' 19 5 = d := by
    subst hw; simp (disch := decide) only [extract_low, extract_high]; simp
  have f1 : word.extractLsb' 14 5 = a := by
    subst hw; simp (disch := decide) only [extract_low, extract_high]; simp
  have f2 : word.extractLsb' 0 1 = z := by
    subst hw; simp (disch := decide) only [extract_low, extract_high]; simp
  have hm : word &&& 0x00003FFE#32 = 0x00000000#32 := by
    rw [hw, show (0x00003FFE#32 : BitVec 32) = 0#8 ++ 0#5 ++ 0#5 ++ 8191#13 ++ 0#1 from by decide, BitVec.and_append]
    simp only [BitVec.and_append, BitVec.and_zero]; rfl
  simp [rowOf, engineOf, rowMtx, hg, ho, f0, f1, f2, hm]

theorem mrdv (d : BitVec 5) (a : BitVec 2) (b : BitVec 5) (h : BitVec 1) : Statement (.mrdv d a b h) := by
  intro wf word hw
  have hw : word = (0x8C#8 ++ d ++ 0#3 ++ a ++ b ++ 0#8 ++ h : BitVec 32) := List.mem_singleton.mp hw
  have hg : word.extractLsb' 29 3 = 4#3 := by
    subst hw; simp (disch := decide) only [extract_low, extract_high]; rfl
  have ho : word.extractLsb' 24 5 = 12#5 := by
    subst hw; simp (disch := decide) only [extract_low, extract_high]; rfl
  have f0 : word.extractLsb' 19 5 = d := by
    subst hw; simp (disch := decide) only [extract_low, extract_high]; simp
  have f1 : word.extractLsb' 14 2 = a := by
    subst hw; simp (disch := decide) only [extract_low, extract_high]; simp
  have f2 : word.extractLsb' 9 5 = b := by
    subst hw; simp (disch := decide) only [extract_low, extract_high]; simp
  have f3 : word.extractLsb' 0 1 = h := by
    subst hw; simp (disch := decide) only [extract_low, extract_high]; simp
  have hm : word &&& 0x000001FE#32 = 0x00000000#32 := by
    rw [hw, show (0x000001FE#32 : BitVec 32) = 0#8 ++ 0#5 ++ 0#3 ++ 0#2 ++ 0#5 ++ 255#8 ++ 0#1 from by decide, BitVec.and_append]
    simp only [BitVec.and_append, BitVec.and_zero]; rfl
  have hr : word &&& 0x00070000#32 = 0x00000000#32 := by
    rw [hw, show (0x00070000#32 : BitVec 32) = 0#8 ++ 0#5 ++ 7#3 ++ 0#2 ++ 0#5 ++ 0#8 ++ 0#1 from by decide, BitVec.and_append]
    simp only [BitVec.and_append, BitVec.and_zero]; rfl
  simp [rowOf, engineOf, rowMtx, hg, ho, f0, f1, f2, f3, hm, hr]

theorem mwrv (d : BitVec 2) (a : BitVec 5) (b : BitVec 5) (p : BitVec 1) (h : BitVec 1) : Statement (.mwrv d a b p h) := by
  intro wf word hw
  have hw : word = (0x8D#8 ++ 0#3 ++ d ++ a ++ b ++ 0#7 ++ p ++ h : BitVec 32) := List.mem_singleton.mp hw
  have hg : word.extractLsb' 29 3 = 4#3 := by
    subst hw; simp (disch := decide) only [extract_low, extract_high]; rfl
  have ho : word.extractLsb' 24 5 = 13#5 := by
    subst hw; simp (disch := decide) only [extract_low, extract_high]; rfl
  have f0 : word.extractLsb' 19 2 = d := by
    subst hw; simp (disch := decide) only [extract_low, extract_high]; simp
  have f1 : word.extractLsb' 14 5 = a := by
    subst hw; simp (disch := decide) only [extract_low, extract_high]; simp
  have f2 : word.extractLsb' 9 5 = b := by
    subst hw; simp (disch := decide) only [extract_low, extract_high]; simp
  have f3 : word.extractLsb' 1 1 = p := by
    subst hw; simp (disch := decide) only [extract_low, extract_high]; simp
  have f4 : word.extractLsb' 0 1 = h := by
    subst hw; simp (disch := decide) only [extract_low, extract_high]; simp
  have hm : word &&& 0x000001FC#32 = 0x00000000#32 := by
    rw [hw, show (0x000001FC#32 : BitVec 32) = 0#8 ++ 0#3 ++ 0#2 ++ 0#5 ++ 0#5 ++ 127#7 ++ 0#1 ++ 0#1 from by decide, BitVec.and_append]
    simp only [BitVec.and_append, BitVec.and_zero]; rfl
  have hr : word &&& 0x00E00000#32 = 0x00000000#32 := by
    rw [hw, show (0x00E00000#32 : BitVec 32) = 0#8 ++ 7#3 ++ 0#2 ++ 0#5 ++ 0#5 ++ 0#7 ++ 0#1 ++ 0#1 from by decide, BitVec.and_append]
    simp only [BitVec.and_append, BitVec.and_zero]; rfl
  simp [rowOf, engineOf, rowMtx, hg, ho, f0, f1, f2, f3, f4, hm, hr]

theorem cpl (d : BitVec 5) (a : BitVec 5) (k : BitVec 14) : Statement (.cpl d a k) := by
  intro wf word hw
  have hw : word = (0xA0#8 ++ d ++ a ++ k : BitVec 32) := List.mem_singleton.mp hw
  have hg : word.extractLsb' 29 3 = 5#3 := by
    subst hw; simp (disch := decide) only [extract_low, extract_high]; rfl
  have ho : word.extractLsb' 24 5 = 0#5 := by
    subst hw; simp (disch := decide) only [extract_low, extract_high]; rfl
  have f0 : word.extractLsb' 19 5 = d := by
    subst hw; simp (disch := decide) only [extract_low, extract_high]; simp
  have f1 : word.extractLsb' 14 5 = a := by
    subst hw; simp (disch := decide) only [extract_low, extract_high]; simp
  have f2 : word.extractLsb' 0 14 = k := by
    subst hw; simp (disch := decide) only [extract_low, extract_high]; simp
  have hm : word &&& 0#32 = 0#32 := BitVec.and_zero
  simp [rowOf, engineOf, rowCpy, hg, ho, f0, f1, f2, hm]

theorem cps (d : BitVec 5) (a : BitVec 5) (k : BitVec 14) : Statement (.cps d a k) := by
  intro wf word hw
  have hw : word = (0xA1#8 ++ d ++ a ++ k : BitVec 32) := List.mem_singleton.mp hw
  have hg : word.extractLsb' 29 3 = 5#3 := by
    subst hw; simp (disch := decide) only [extract_low, extract_high]; rfl
  have ho : word.extractLsb' 24 5 = 1#5 := by
    subst hw; simp (disch := decide) only [extract_low, extract_high]; rfl
  have f0 : word.extractLsb' 19 5 = d := by
    subst hw; simp (disch := decide) only [extract_low, extract_high]; simp
  have f1 : word.extractLsb' 14 5 = a := by
    subst hw; simp (disch := decide) only [extract_low, extract_high]; simp
  have f2 : word.extractLsb' 0 14 = k := by
    subst hw; simp (disch := decide) only [extract_low, extract_high]; simp
  have hm : word &&& 0#32 = 0#32 := BitVec.and_zero
  simp [rowOf, engineOf, rowCpy, hg, ho, f0, f1, f2, hm]

theorem cpg (d : BitVec 5) (a : BitVec 5) (k : BitVec 14) : Statement (.cpg d a k) := by
  intro wf word hw
  have hw : word = (0xA2#8 ++ d ++ a ++ k : BitVec 32) := List.mem_singleton.mp hw
  have hg : word.extractLsb' 29 3 = 5#3 := by
    subst hw; simp (disch := decide) only [extract_low, extract_high]; rfl
  have ho : word.extractLsb' 24 5 = 2#5 := by
    subst hw; simp (disch := decide) only [extract_low, extract_high]; rfl
  have f0 : word.extractLsb' 19 5 = d := by
    subst hw; simp (disch := decide) only [extract_low, extract_high]; simp
  have f1 : word.extractLsb' 14 5 = a := by
    subst hw; simp (disch := decide) only [extract_low, extract_high]; simp
  have f2 : word.extractLsb' 0 14 = k := by
    subst hw; simp (disch := decide) only [extract_low, extract_high]; simp
  have hm : word &&& 0#32 = 0#32 := BitVec.and_zero
  simp [rowOf, engineOf, rowCpy, hg, ho, f0, f1, f2, hm]

theorem cpx (d : BitVec 5) (a : BitVec 5) (k : BitVec 14) : Statement (.cpx d a k) := by
  intro wf word hw
  have hw : word = (0xA3#8 ++ d ++ a ++ k : BitVec 32) := List.mem_singleton.mp hw
  have hg : word.extractLsb' 29 3 = 5#3 := by
    subst hw; simp (disch := decide) only [extract_low, extract_high]; rfl
  have ho : word.extractLsb' 24 5 = 3#5 := by
    subst hw; simp (disch := decide) only [extract_low, extract_high]; rfl
  have f0 : word.extractLsb' 19 5 = d := by
    subst hw; simp (disch := decide) only [extract_low, extract_high]; simp
  have f1 : word.extractLsb' 14 5 = a := by
    subst hw; simp (disch := decide) only [extract_low, extract_high]; simp
  have f2 : word.extractLsb' 0 14 = k := by
    subst hw; simp (disch := decide) only [extract_low, extract_high]; simp
  have hm : word &&& 0#32 = 0#32 := BitVec.and_zero
  simp [rowOf, engineOf, rowCpy, hg, ho, f0, f1, f2, hm]

theorem cpbc (d : BitVec 5) (a : BitVec 5) (k : BitVec 14) : Statement (.cpbc d a k) := by
  intro wf word hw
  have hw : word = (0xA4#8 ++ d ++ a ++ k : BitVec 32) := List.mem_singleton.mp hw
  have hg : word.extractLsb' 29 3 = 5#3 := by
    subst hw; simp (disch := decide) only [extract_low, extract_high]; rfl
  have ho : word.extractLsb' 24 5 = 4#5 := by
    subst hw; simp (disch := decide) only [extract_low, extract_high]; rfl
  have f0 : word.extractLsb' 19 5 = d := by
    subst hw; simp (disch := decide) only [extract_low, extract_high]; simp
  have f1 : word.extractLsb' 14 5 = a := by
    subst hw; simp (disch := decide) only [extract_low, extract_high]; simp
  have f2 : word.extractLsb' 0 14 = k := by
    subst hw; simp (disch := decide) only [extract_low, extract_high]; simp
  have hm : word &&& 0#32 = 0#32 := BitVec.and_zero
  simp [rowOf, engineOf, rowCpy, hg, ho, f0, f1, f2, hm]

theorem cpmc (d : BitVec 5) (a : BitVec 5) (k : BitVec 14) : Statement (.cpmc d a k) := by
  intro wf word hw
  have hw : word = (0xA5#8 ++ d ++ a ++ k : BitVec 32) := List.mem_singleton.mp hw
  have hg : word.extractLsb' 29 3 = 5#3 := by
    subst hw; simp (disch := decide) only [extract_low, extract_high]; rfl
  have ho : word.extractLsb' 24 5 = 5#5 := by
    subst hw; simp (disch := decide) only [extract_low, extract_high]; rfl
  have f0 : word.extractLsb' 19 5 = d := by
    subst hw; simp (disch := decide) only [extract_low, extract_high]; simp
  have f1 : word.extractLsb' 14 5 = a := by
    subst hw; simp (disch := decide) only [extract_low, extract_high]; simp
  have f2 : word.extractLsb' 0 14 = k := by
    subst hw; simp (disch := decide) only [extract_low, extract_high]; simp
  have hm : word &&& 0#32 = 0#32 := BitVec.and_zero
  simp [rowOf, engineOf, rowCpy, hg, ho, f0, f1, f2, hm]

theorem cpqt (d : BitVec 5) (a : BitVec 5) (k : BitVec 14) : Statement (.cpqt d a k) := by
  intro wf word hw
  have hw : word = (0xA6#8 ++ d ++ a ++ k : BitVec 32) := List.mem_singleton.mp hw
  have hg : word.extractLsb' 29 3 = 5#3 := by
    subst hw; simp (disch := decide) only [extract_low, extract_high]; rfl
  have ho : word.extractLsb' 24 5 = 6#5 := by
    subst hw; simp (disch := decide) only [extract_low, extract_high]; rfl
  have f0 : word.extractLsb' 19 5 = d := by
    subst hw; simp (disch := decide) only [extract_low, extract_high]; simp
  have f1 : word.extractLsb' 14 5 = a := by
    subst hw; simp (disch := decide) only [extract_low, extract_high]; simp
  have f2 : word.extractLsb' 0 14 = k := by
    subst hw; simp (disch := decide) only [extract_low, extract_high]; simp
  have hm : word &&& 0#32 = 0#32 := BitVec.and_zero
  simp [rowOf, engineOf, rowCpy, hg, ho, f0, f1, f2, hm]

theorem cpfl (d : BitVec 5) (a : BitVec 5) (k : BitVec 14) : Statement (.cpfl d a k) := by
  intro wf word hw
  have hw : word = (0xA7#8 ++ d ++ a ++ k : BitVec 32) := List.mem_singleton.mp hw
  have hg : word.extractLsb' 29 3 = 5#3 := by
    subst hw; simp (disch := decide) only [extract_low, extract_high]; rfl
  have ho : word.extractLsb' 24 5 = 7#5 := by
    subst hw; simp (disch := decide) only [extract_low, extract_high]; rfl
  have f0 : word.extractLsb' 19 5 = d := by
    subst hw; simp (disch := decide) only [extract_low, extract_high]; simp
  have f1 : word.extractLsb' 14 5 = a := by
    subst hw; simp (disch := decide) only [extract_low, extract_high]; simp
  have f2 : word.extractLsb' 0 14 = k := by
    subst hw; simp (disch := decide) only [extract_low, extract_high]; simp
  have hm : word &&& 0#32 = 0#32 := BitVec.and_zero
  simp [rowOf, engineOf, rowCpy, hg, ho, f0, f1, f2, hm]

theorem cpof (d : BitVec 5) (a : BitVec 5) (k : BitVec 14) : Statement (.cpof d a k) := by
  intro wf word hw
  have hw : word = (0xA8#8 ++ d ++ a ++ k : BitVec 32) := List.mem_singleton.mp hw
  have hg : word.extractLsb' 29 3 = 5#3 := by
    subst hw; simp (disch := decide) only [extract_low, extract_high]; rfl
  have ho : word.extractLsb' 24 5 = 8#5 := by
    subst hw; simp (disch := decide) only [extract_low, extract_high]; rfl
  have f0 : word.extractLsb' 19 5 = d := by
    subst hw; simp (disch := decide) only [extract_low, extract_high]; simp
  have f1 : word.extractLsb' 14 5 = a := by
    subst hw; simp (disch := decide) only [extract_low, extract_high]; simp
  have f2 : word.extractLsb' 0 14 = k := by
    subst hw; simp (disch := decide) only [extract_low, extract_high]; simp
  have hm : word &&& 0#32 = 0#32 := BitVec.and_zero
  simp [rowOf, engineOf, rowCpy, hg, ho, f0, f1, f2, hm]

theorem cpin (d : BitVec 5) (a : BitVec 5) (k : BitVec 14) : Statement (.cpin d a k) := by
  intro wf word hw
  have hw : word = (0xA9#8 ++ d ++ a ++ k : BitVec 32) := List.mem_singleton.mp hw
  have hg : word.extractLsb' 29 3 = 5#3 := by
    subst hw; simp (disch := decide) only [extract_low, extract_high]; rfl
  have ho : word.extractLsb' 24 5 = 9#5 := by
    subst hw; simp (disch := decide) only [extract_low, extract_high]; rfl
  have f0 : word.extractLsb' 19 5 = d := by
    subst hw; simp (disch := decide) only [extract_low, extract_high]; simp
  have f1 : word.extractLsb' 14 5 = a := by
    subst hw; simp (disch := decide) only [extract_low, extract_high]; simp
  have f2 : word.extractLsb' 0 14 = k := by
    subst hw; simp (disch := decide) only [extract_low, extract_high]; simp
  have hm : word &&& 0#32 = 0#32 := BitVec.and_zero
  simp [rowOf, engineOf, rowCpy, hg, ho, f0, f1, f2, hm]

theorem cseal (d : BitVec 5) : Statement (.cseal d) := by
  intro wf word hw
  have hw : word = (0xAA#8 ++ d ++ 0#19 : BitVec 32) := List.mem_singleton.mp hw
  have hg : word.extractLsb' 29 3 = 5#3 := by
    subst hw; simp (disch := decide) only [extract_low, extract_high]; rfl
  have ho : word.extractLsb' 24 5 = 10#5 := by
    subst hw; simp (disch := decide) only [extract_low, extract_high]; rfl
  have f0 : word.extractLsb' 19 5 = d := by
    subst hw; simp (disch := decide) only [extract_low, extract_high]; simp
  have hm : word &&& 0x0007FFFF#32 = 0x00000000#32 := by
    rw [hw, show (0x0007FFFF#32 : BitVec 32) = 0#8 ++ 0#5 ++ 524287#19 from by decide, BitVec.and_append]
    simp only [BitVec.and_append, BitVec.and_zero]; rfl
  simp [rowOf, engineOf, rowCpy, hg, ho, f0, hm]

theorem cwait (n : BitVec 6) : Statement (.cwait n) := by
  intro wf word hw
  have hw : word = (0xAB#8 ++ 0#18 ++ n : BitVec 32) := List.mem_singleton.mp hw
  have hg : word.extractLsb' 29 3 = 5#3 := by
    subst hw; simp (disch := decide) only [extract_low, extract_high]; rfl
  have ho : word.extractLsb' 24 5 = 11#5 := by
    subst hw; simp (disch := decide) only [extract_low, extract_high]; rfl
  have f0 : word.extractLsb' 0 6 = n := by
    subst hw; simp (disch := decide) only [extract_low, extract_high]; simp
  have hm : word &&& 0x00FFFFC0#32 = 0x00000000#32 := by
    rw [hw, show (0x00FFFFC0#32 : BitVec 32) = 0#8 ++ 262143#18 ++ 0#6 from by decide, BitVec.and_append]
    simp only [BitVec.and_append, BitVec.and_zero]; rfl
  have hx : word.extractLsb' 13 1 = 0#1 := by subst hw; simp (disch := decide) only [extract_low, extract_high]; rfl
  have hb : word[13] = false := by simpa using congrArg (BitVec.getLsbD · 0) hx
  simp [rowOf, engineOf, rowCpy, hg, ho, f0, hm, hb]

theorem cwaitTok (d : BitVec 5) (a : BitVec 5) : Statement (.cwaitTok d a) := by
  intro wf word hw
  have hw : word = (0xAB#8 ++ d ++ a ++ 8192#14 : BitVec 32) := List.mem_singleton.mp hw
  have hg : word.extractLsb' 29 3 = 5#3 := by
    subst hw; simp (disch := decide) only [extract_low, extract_high]; rfl
  have ho : word.extractLsb' 24 5 = 11#5 := by
    subst hw; simp (disch := decide) only [extract_low, extract_high]; rfl
  have f0 : word.extractLsb' 19 5 = d := by
    subst hw; simp (disch := decide) only [extract_low, extract_high]; simp
  have f1 : word.extractLsb' 14 5 = a := by
    subst hw; simp (disch := decide) only [extract_low, extract_high]; simp
  have hm : word &&& 0x00003FFF#32 = 0x00002000#32 := by
    rw [hw, show (0x00003FFF#32 : BitVec 32) = 0#8 ++ 0#5 ++ 0#5 ++ 16383#14 from by decide, BitVec.and_append]
    simp only [BitVec.and_append, BitVec.and_zero]; rfl
  have hx : word.extractLsb' 13 1 = 1#1 := by subst hw; simp (disch := decide) only [extract_low, extract_high]; rfl
  have hb : word[13] = true := by simpa using congrArg (BitVec.getLsbD · 0) hx
  simp [rowOf, engineOf, rowCpy, hg, ho, f0, f1, hm, hb]

theorem cstat (d : BitVec 5) (a : BitVec 5) (k : BitVec 1) : Statement (.cstat d a k) := by
  intro wf word hw
  have hw : word = (0xAC#8 ++ d ++ a ++ 0#13 ++ k : BitVec 32) := List.mem_singleton.mp hw
  have hg : word.extractLsb' 29 3 = 5#3 := by
    subst hw; simp (disch := decide) only [extract_low, extract_high]; rfl
  have ho : word.extractLsb' 24 5 = 12#5 := by
    subst hw; simp (disch := decide) only [extract_low, extract_high]; rfl
  have f0 : word.extractLsb' 19 5 = d := by
    subst hw; simp (disch := decide) only [extract_low, extract_high]; simp
  have f1 : word.extractLsb' 14 5 = a := by
    subst hw; simp (disch := decide) only [extract_low, extract_high]; simp
  have f2 : word.extractLsb' 0 1 = k := by
    subst hw; simp (disch := decide) only [extract_low, extract_high]; simp
  have hm : word &&& 0x00003FFE#32 = 0x00000000#32 := by
    rw [hw, show (0x00003FFE#32 : BitVec 32) = 0#8 ++ 0#5 ++ 0#5 ++ 8191#13 ++ 0#1 from by decide, BitVec.and_append]
    simp only [BitVec.and_append, BitVec.and_zero]; rfl
  simp [rowOf, engineOf, rowCpy, hg, ho, f0, f1, f2, hm]

theorem ccan (a : BitVec 5) (l : BitVec 1) : Statement (.ccan a l) := by
  intro wf word hw
  have hw : word = (0xAD#8 ++ 0#5 ++ a ++ 0#13 ++ l : BitVec 32) := List.mem_singleton.mp hw
  have hg : word.extractLsb' 29 3 = 5#3 := by
    subst hw; simp (disch := decide) only [extract_low, extract_high]; rfl
  have ho : word.extractLsb' 24 5 = 13#5 := by
    subst hw; simp (disch := decide) only [extract_low, extract_high]; rfl
  have f0 : word.extractLsb' 14 5 = a := by
    subst hw; simp (disch := decide) only [extract_low, extract_high]; simp
  have f1 : word.extractLsb' 0 1 = l := by
    subst hw; simp (disch := decide) only [extract_low, extract_high]; simp
  have hm : word &&& 0x00F83FFE#32 = 0x00000000#32 := by
    rw [hw, show (0x00F83FFE#32 : BitVec 32) = 0#8 ++ 31#5 ++ 0#5 ++ 8191#13 ++ 0#1 from by decide, BitVec.and_append]
    simp only [BitVec.and_append, BitVec.and_zero]; rfl
  simp [rowOf, engineOf, rowCpy, hg, ho, f0, f1, hm]

theorem ctok (d : BitVec 5) (a : BitVec 5) : Statement (.ctok d a) := by
  intro wf word hw
  have hw : word = (0xAE#8 ++ d ++ a ++ 0#14 : BitVec 32) := List.mem_singleton.mp hw
  have hg : word.extractLsb' 29 3 = 5#3 := by
    subst hw; simp (disch := decide) only [extract_low, extract_high]; rfl
  have ho : word.extractLsb' 24 5 = 14#5 := by
    subst hw; simp (disch := decide) only [extract_low, extract_high]; rfl
  have f0 : word.extractLsb' 19 5 = d := by
    subst hw; simp (disch := decide) only [extract_low, extract_high]; simp
  have f1 : word.extractLsb' 14 5 = a := by
    subst hw; simp (disch := decide) only [extract_low, extract_high]; simp
  have hm : word &&& 0x00003FFF#32 = 0x00000000#32 := by
    rw [hw, show (0x00003FFF#32 : BitVec 32) = 0#8 ++ 0#5 ++ 0#5 ++ 16383#14 from by decide, BitVec.and_append]
    simp only [BitVec.and_append, BitVec.and_zero]; rfl
  simp [rowOf, engineOf, rowCpy, hg, ho, f0, f1, hm]

theorem cpri (p : BitVec 2) : Statement (.cpri p) := by
  intro wf word hw
  have hw : word = (0xAF#8 ++ 0#22 ++ p : BitVec 32) := List.mem_singleton.mp hw
  have hg : word.extractLsb' 29 3 = 5#3 := by
    subst hw; simp (disch := decide) only [extract_low, extract_high]; rfl
  have ho : word.extractLsb' 24 5 = 15#5 := by
    subst hw; simp (disch := decide) only [extract_low, extract_high]; rfl
  have f0 : word.extractLsb' 0 2 = p := by
    subst hw; simp (disch := decide) only [extract_low, extract_high]; simp
  have hm : word &&& 0x00FFFFFC#32 = 0x00000000#32 := by
    rw [hw, show (0x00FFFFFC#32 : BitVec 32) = 0#8 ++ 4194303#22 ++ 0#2 from by decide, BitVec.and_append]
    simp only [BitVec.and_append, BitVec.and_zero]; rfl
  simp [rowOf, engineOf, rowCpy, hg, ho, f0, hm]

theorem cpck (d : BitVec 5) (a : BitVec 5) (k : BitVec 14) : Statement (.cpck d a k) := by
  intro wf word hw
  have hw : word = (0xB0#8 ++ d ++ a ++ k : BitVec 32) := List.mem_singleton.mp hw
  have hg : word.extractLsb' 29 3 = 5#3 := by
    subst hw; simp (disch := decide) only [extract_low, extract_high]; rfl
  have ho : word.extractLsb' 24 5 = 16#5 := by
    subst hw; simp (disch := decide) only [extract_low, extract_high]; rfl
  have f0 : word.extractLsb' 19 5 = d := by
    subst hw; simp (disch := decide) only [extract_low, extract_high]; simp
  have f1 : word.extractLsb' 14 5 = a := by
    subst hw; simp (disch := decide) only [extract_low, extract_high]; simp
  have f2 : word.extractLsb' 0 14 = k := by
    subst hw; simp (disch := decide) only [extract_low, extract_high]; simp
  have hm : word &&& 0#32 = 0#32 := BitVec.and_zero
  simp [rowOf, engineOf, rowCpy, hg, ho, f0, f1, f2, hm]

theorem cpmg (d : BitVec 5) (a : BitVec 5) (k : BitVec 14) : Statement (.cpmg d a k) := by
  intro wf word hw
  have hw : word = (0xB1#8 ++ d ++ a ++ k : BitVec 32) := List.mem_singleton.mp hw
  have hg : word.extractLsb' 29 3 = 5#3 := by
    subst hw; simp (disch := decide) only [extract_low, extract_high]; rfl
  have ho : word.extractLsb' 24 5 = 17#5 := by
    subst hw; simp (disch := decide) only [extract_low, extract_high]; rfl
  have f0 : word.extractLsb' 19 5 = d := by
    subst hw; simp (disch := decide) only [extract_low, extract_high]; simp
  have f1 : word.extractLsb' 14 5 = a := by
    subst hw; simp (disch := decide) only [extract_low, extract_high]; simp
  have f2 : word.extractLsb' 0 14 = k := by
    subst hw; simp (disch := decide) only [extract_low, extract_high]; simp
  have hm : word &&& 0#32 = 0#32 := BitVec.and_zero
  simp [rowOf, engineOf, rowCpy, hg, ho, f0, f1, f2, hm]

theorem cpvl (d : BitVec 5) (a : BitVec 5) (k : BitVec 14) : Statement (.cpvl d a k) := by
  intro wf word hw
  have hw : word = (0xB2#8 ++ d ++ a ++ k : BitVec 32) := List.mem_singleton.mp hw
  have hg : word.extractLsb' 29 3 = 5#3 := by
    subst hw; simp (disch := decide) only [extract_low, extract_high]; rfl
  have ho : word.extractLsb' 24 5 = 18#5 := by
    subst hw; simp (disch := decide) only [extract_low, extract_high]; rfl
  have f0 : word.extractLsb' 19 5 = d := by
    subst hw; simp (disch := decide) only [extract_low, extract_high]; simp
  have f1 : word.extractLsb' 14 5 = a := by
    subst hw; simp (disch := decide) only [extract_low, extract_high]; simp
  have f2 : word.extractLsb' 0 14 = k := by
    subst hw; simp (disch := decide) only [extract_low, extract_high]; simp
  have hm : word &&& 0#32 = 0#32 := BitVec.and_zero
  simp [rowOf, engineOf, rowCpy, hg, ho, f0, f1, f2, hm]

theorem cbko (d : BitVec 5) (a : BitVec 5) : Statement (.cbko d a) := by
  intro wf word hw
  have hw : word = (0xB3#8 ++ d ++ a ++ 0#14 : BitVec 32) := List.mem_singleton.mp hw
  have hg : word.extractLsb' 29 3 = 5#3 := by
    subst hw; simp (disch := decide) only [extract_low, extract_high]; rfl
  have ho : word.extractLsb' 24 5 = 19#5 := by
    subst hw; simp (disch := decide) only [extract_low, extract_high]; rfl
  have f0 : word.extractLsb' 19 5 = d := by
    subst hw; simp (disch := decide) only [extract_low, extract_high]; simp
  have f1 : word.extractLsb' 14 5 = a := by
    subst hw; simp (disch := decide) only [extract_low, extract_high]; simp
  have hm : word &&& 0x00003FFF#32 = 0x00000000#32 := by
    rw [hw, show (0x00003FFF#32 : BitVec 32) = 0#8 ++ 0#5 ++ 0#5 ++ 16383#14 from by decide, BitVec.and_append]
    simp only [BitVec.and_append, BitVec.and_zero]; rfl
  simp [rowOf, engineOf, rowCpy, hg, ho, f0, f1, hm]

theorem trap (c : BitVec 14) : Statement (.trap c) := by
  intro wf word hw
  have hw : word = (0xC0#8 ++ 0#10 ++ c : BitVec 32) := List.mem_singleton.mp hw
  have hg : word.extractLsb' 29 3 = 6#3 := by
    subst hw; simp (disch := decide) only [extract_low, extract_high]; rfl
  have ho : word.extractLsb' 24 5 = 0#5 := by
    subst hw; simp (disch := decide) only [extract_low, extract_high]; rfl
  have f0 : word.extractLsb' 0 14 = c := by
    subst hw; simp (disch := decide) only [extract_low, extract_high]; simp
  have hm : word &&& 0x00FFC000#32 = 0x00000000#32 := by
    rw [hw, show (0x00FFC000#32 : BitVec 32) = 0#8 ++ 1023#10 ++ 0#14 from by decide, BitVec.and_append]
    simp only [BitVec.and_append, BitVec.and_zero]; rfl
  simp [rowOf, engineOf, rowSys, hg, ho, f0, hm]

theorem tret : Statement (.tret) := by
  intro wf word hw
  have hw : word = (0xC1#8 ++ 0#24 : BitVec 32) := List.mem_singleton.mp hw
  have hg : word.extractLsb' 29 3 = 6#3 := by
    subst hw; simp (disch := decide) only [extract_low, extract_high]; rfl
  have ho : word.extractLsb' 24 5 = 1#5 := by
    subst hw; simp (disch := decide) only [extract_low, extract_high]; rfl
  have hm : word &&& 0x00FFFFFF#32 = 0x00000000#32 := by
    rw [hw, show (0x00FFFFFF#32 : BitVec 32) = 0#8 ++ 16777215#24 from by decide, BitVec.and_append]
    rfl
  simp [rowOf, engineOf, rowSys, hg, ho, hm]

theorem srget (d : BitVec 5) (r : BitVec 12) : Statement (.srget d r) := by
  intro wf word hw
  have hw : word = (0xC2#8 ++ d ++ 0#7 ++ r : BitVec 32) := List.mem_singleton.mp hw
  have hg : word.extractLsb' 29 3 = 6#3 := by
    subst hw; simp (disch := decide) only [extract_low, extract_high]; rfl
  have ho : word.extractLsb' 24 5 = 2#5 := by
    subst hw; simp (disch := decide) only [extract_low, extract_high]; rfl
  have f0 : word.extractLsb' 19 5 = d := by
    subst hw; simp (disch := decide) only [extract_low, extract_high]; simp
  have f1 : word.extractLsb' 0 12 = r := by
    subst hw; simp (disch := decide) only [extract_low, extract_high]; simp
  have hm : word &&& 0x0007F000#32 = 0x00000000#32 := by
    rw [hw, show (0x0007F000#32 : BitVec 32) = 0#8 ++ 0#5 ++ 127#7 ++ 0#12 from by decide, BitVec.and_append]
    simp only [BitVec.and_append, BitVec.and_zero]; rfl
  simp [rowOf, engineOf, rowSys, hg, ho, f0, f1, hm]

theorem srset (a : BitVec 5) (r : BitVec 12) : Statement (.srset a r) := by
  intro wf word hw
  have hw : word = (0xC3#8 ++ 0#5 ++ a ++ 0#2 ++ r : BitVec 32) := List.mem_singleton.mp hw
  have hg : word.extractLsb' 29 3 = 6#3 := by
    subst hw; simp (disch := decide) only [extract_low, extract_high]; rfl
  have ho : word.extractLsb' 24 5 = 3#5 := by
    subst hw; simp (disch := decide) only [extract_low, extract_high]; rfl
  have f0 : word.extractLsb' 14 5 = a := by
    subst hw; simp (disch := decide) only [extract_low, extract_high]; simp
  have f1 : word.extractLsb' 0 12 = r := by
    subst hw; simp (disch := decide) only [extract_low, extract_high]; simp
  have hm : word &&& 0x00F83000#32 = 0x00000000#32 := by
    rw [hw, show (0x00F83000#32 : BitVec 32) = 0#8 ++ 31#5 ++ 0#5 ++ 3#2 ++ 0#12 from by decide, BitVec.and_append]
    simp only [BitVec.and_append, BitVec.and_zero]; rfl
  simp [rowOf, engineOf, rowSys, hg, ho, f0, f1, hm]

theorem srxch (d : BitVec 5) (a : BitVec 5) (r : BitVec 12) : Statement (.srxch d a r) := by
  intro wf word hw
  have hw : word = (0xC4#8 ++ d ++ a ++ 0#2 ++ r : BitVec 32) := List.mem_singleton.mp hw
  have hg : word.extractLsb' 29 3 = 6#3 := by
    subst hw; simp (disch := decide) only [extract_low, extract_high]; rfl
  have ho : word.extractLsb' 24 5 = 4#5 := by
    subst hw; simp (disch := decide) only [extract_low, extract_high]; rfl
  have f0 : word.extractLsb' 19 5 = d := by
    subst hw; simp (disch := decide) only [extract_low, extract_high]; simp
  have f1 : word.extractLsb' 14 5 = a := by
    subst hw; simp (disch := decide) only [extract_low, extract_high]; simp
  have f2 : word.extractLsb' 0 12 = r := by
    subst hw; simp (disch := decide) only [extract_low, extract_high]; simp
  have hm : word &&& 0x00003000#32 = 0x00000000#32 := by
    rw [hw, show (0x00003000#32 : BitVec 32) = 0#8 ++ 0#5 ++ 0#5 ++ 3#2 ++ 0#12 from by decide, BitVec.and_append]
    simp only [BitVec.and_append, BitVec.and_zero]; rfl
  simp [rowOf, engineOf, rowSys, hg, ho, f0, f1, f2, hm]

theorem wait : Statement (.wait) := by
  intro wf word hw
  have hw : word = (0xC5#8 ++ 0#24 : BitVec 32) := List.mem_singleton.mp hw
  have hg : word.extractLsb' 29 3 = 6#3 := by
    subst hw; simp (disch := decide) only [extract_low, extract_high]; rfl
  have ho : word.extractLsb' 24 5 = 5#5 := by
    subst hw; simp (disch := decide) only [extract_low, extract_high]; rfl
  have hm : word &&& 0x00FFFFFF#32 = 0x00000000#32 := by
    rw [hw, show (0x00FFFFFF#32 : BitVec 32) = 0#8 ++ 16777215#24 from by decide, BitVec.and_append]
    rfl
  simp [rowOf, engineOf, rowSys, hg, ho, hm]

theorem yield : Statement (.yield) := by
  intro wf word hw
  have hw : word = (0xC6#8 ++ 0#24 : BitVec 32) := List.mem_singleton.mp hw
  have hg : word.extractLsb' 29 3 = 6#3 := by
    subst hw; simp (disch := decide) only [extract_low, extract_high]; rfl
  have ho : word.extractLsb' 24 5 = 6#5 := by
    subst hw; simp (disch := decide) only [extract_low, extract_high]; rfl
  have hm : word &&& 0x00FFFFFF#32 = 0x00000000#32 := by
    rw [hw, show (0x00FFFFFF#32 : BitVec 32) = 0#8 ++ 16777215#24 from by decide, BitVec.and_append]
    rfl
  simp [rowOf, engineOf, rowSys, hg, ho, hm]

theorem tspawn (d : BitVec 5) (a : BitVec 5) (b : BitVec 5) (h : BitVec 1) (p : BitVec 2) (w : BitVec 4) : Statement (.tspawn d a b h p w) := by
  intro wf word hw
  have hw : word = (0xC7#8 ++ d ++ a ++ b ++ 0#2 ++ h ++ p ++ w : BitVec 32) := List.mem_singleton.mp hw
  have hg : word.extractLsb' 29 3 = 6#3 := by
    subst hw; simp (disch := decide) only [extract_low, extract_high]; rfl
  have ho : word.extractLsb' 24 5 = 7#5 := by
    subst hw; simp (disch := decide) only [extract_low, extract_high]; rfl
  have f0 : word.extractLsb' 19 5 = d := by
    subst hw; simp (disch := decide) only [extract_low, extract_high]; simp
  have f1 : word.extractLsb' 14 5 = a := by
    subst hw; simp (disch := decide) only [extract_low, extract_high]; simp
  have f2 : word.extractLsb' 9 5 = b := by
    subst hw; simp (disch := decide) only [extract_low, extract_high]; simp
  have f3 : word.extractLsb' 6 1 = h := by
    subst hw; simp (disch := decide) only [extract_low, extract_high]; simp
  have f4 : word.extractLsb' 4 2 = p := by
    subst hw; simp (disch := decide) only [extract_low, extract_high]; simp
  have f5 : word.extractLsb' 0 4 = w := by
    subst hw; simp (disch := decide) only [extract_low, extract_high]; simp
  have hm : word &&& 0x00000180#32 = 0x00000000#32 := by
    rw [hw, show (0x00000180#32 : BitVec 32) = 0#8 ++ 0#5 ++ 0#5 ++ 0#5 ++ 3#2 ++ 0#1 ++ 0#2 ++ 0#4 from by decide, BitVec.and_append]
    simp only [BitVec.and_append, BitVec.and_zero]; rfl
  simp [rowOf, engineOf, rowSys, hg, ho, f0, f1, f2, f3, f4, f5, hm]

theorem thold (a : BitVec 5) (s : BitVec 1) : Statement (.thold a s) := by
  intro wf word hw
  have hw : word = (0xC8#8 ++ 0#5 ++ a ++ 0#13 ++ s : BitVec 32) := List.mem_singleton.mp hw
  have hg : word.extractLsb' 29 3 = 6#3 := by
    subst hw; simp (disch := decide) only [extract_low, extract_high]; rfl
  have ho : word.extractLsb' 24 5 = 8#5 := by
    subst hw; simp (disch := decide) only [extract_low, extract_high]; rfl
  have f0 : word.extractLsb' 14 5 = a := by
    subst hw; simp (disch := decide) only [extract_low, extract_high]; simp
  have f1 : word.extractLsb' 0 1 = s := by
    subst hw; simp (disch := decide) only [extract_low, extract_high]; simp
  have hm : word &&& 0x00F83FFE#32 = 0x00000000#32 := by
    rw [hw, show (0x00F83FFE#32 : BitVec 32) = 0#8 ++ 31#5 ++ 0#5 ++ 8191#13 ++ 0#1 from by decide, BitVec.and_append]
    simp only [BitVec.and_append, BitVec.and_zero]; rfl
  simp [rowOf, engineOf, rowSys, hg, ho, f0, f1, hm]

theorem trdy (a : BitVec 5) : Statement (.trdy a) := by
  intro wf word hw
  have hw : word = (0xC9#8 ++ 0#5 ++ a ++ 0#14 : BitVec 32) := List.mem_singleton.mp hw
  have hg : word.extractLsb' 29 3 = 6#3 := by
    subst hw; simp (disch := decide) only [extract_low, extract_high]; rfl
  have ho : word.extractLsb' 24 5 = 9#5 := by
    subst hw; simp (disch := decide) only [extract_low, extract_high]; rfl
  have f0 : word.extractLsb' 14 5 = a := by
    subst hw; simp (disch := decide) only [extract_low, extract_high]; simp
  have hm : word &&& 0x00F83FFF#32 = 0x00000000#32 := by
    rw [hw, show (0x00F83FFF#32 : BitVec 32) = 0#8 ++ 31#5 ++ 0#5 ++ 16383#14 from by decide, BitVec.and_append]
    simp only [BitVec.and_append, BitVec.and_zero]; rfl
  simp [rowOf, engineOf, rowSys, hg, ho, f0, hm]

theorem tend : Statement (.tend) := by
  intro wf word hw
  have hw : word = (0xCA#8 ++ 0#24 : BitVec 32) := List.mem_singleton.mp hw
  have hg : word.extractLsb' 29 3 = 6#3 := by
    subst hw; simp (disch := decide) only [extract_low, extract_high]; rfl
  have ho : word.extractLsb' 24 5 = 10#5 := by
    subst hw; simp (disch := decide) only [extract_low, extract_high]; rfl
  have hm : word &&& 0x00FFFFFF#32 = 0x00000000#32 := by
    rw [hw, show (0x00FFFFFF#32 : BitVec 32) = 0#8 ++ 16777215#24 from by decide, BitVec.and_append]
    rfl
  simp [rowOf, engineOf, rowSys, hg, ho, hm]

theorem tchan (d : BitVec 5) (u : BitVec 1) (c : BitVec 6) : Statement (.tchan d u c) := by
  intro wf word hw
  have hw : word = (0xCB#8 ++ d ++ 0#12 ++ u ++ c : BitVec 32) := List.mem_singleton.mp hw
  have hg : word.extractLsb' 29 3 = 6#3 := by
    subst hw; simp (disch := decide) only [extract_low, extract_high]; rfl
  have ho : word.extractLsb' 24 5 = 11#5 := by
    subst hw; simp (disch := decide) only [extract_low, extract_high]; rfl
  have f0 : word.extractLsb' 19 5 = d := by
    subst hw; simp (disch := decide) only [extract_low, extract_high]; simp
  have f1 : word.extractLsb' 6 1 = u := by
    subst hw; simp (disch := decide) only [extract_low, extract_high]; simp
  have f2 : word.extractLsb' 0 6 = c := by
    subst hw; simp (disch := decide) only [extract_low, extract_high]; simp
  have hm : word &&& 0x0007FF80#32 = 0x00000000#32 := by
    rw [hw, show (0x0007FF80#32 : BitVec 32) = 0#8 ++ 0#5 ++ 4095#12 ++ 0#1 ++ 0#6 from by decide, BitVec.and_append]
    simp only [BitVec.and_append, BitVec.and_zero]; rfl
  simp [rowOf, engineOf, rowSys, hg, ho, f0, f1, f2, hm]

theorem msg (d : BitVec 5) (a : BitVec 5) (c : BitVec 6) : Statement (.msg d a c) := by
  intro wf word hw
  have hw : word = (0xCC#8 ++ d ++ a ++ 0#8 ++ c : BitVec 32) := List.mem_singleton.mp hw
  have hg : word.extractLsb' 29 3 = 6#3 := by
    subst hw; simp (disch := decide) only [extract_low, extract_high]; rfl
  have ho : word.extractLsb' 24 5 = 12#5 := by
    subst hw; simp (disch := decide) only [extract_low, extract_high]; rfl
  have f0 : word.extractLsb' 19 5 = d := by
    subst hw; simp (disch := decide) only [extract_low, extract_high]; simp
  have f1 : word.extractLsb' 14 5 = a := by
    subst hw; simp (disch := decide) only [extract_low, extract_high]; simp
  have f2 : word.extractLsb' 0 6 = c := by
    subst hw; simp (disch := decide) only [extract_low, extract_high]; simp
  have hm : word &&& 0x00003FC0#32 = 0x00000000#32 := by
    rw [hw, show (0x00003FC0#32 : BitVec 32) = 0#8 ++ 0#5 ++ 0#5 ++ 255#8 ++ 0#6 from by decide, BitVec.and_append]
    simp only [BitVec.and_append, BitVec.and_zero]; rfl
  simp [rowOf, engineOf, rowSys, hg, ho, f0, f1, f2, hm]

theorem migr (a : BitVec 5) : Statement (.migr a) := by
  intro wf word hw
  have hw : word = (0xCD#8 ++ 0#5 ++ a ++ 0#14 : BitVec 32) := List.mem_singleton.mp hw
  have hg : word.extractLsb' 29 3 = 6#3 := by
    subst hw; simp (disch := decide) only [extract_low, extract_high]; rfl
  have ho : word.extractLsb' 24 5 = 13#5 := by
    subst hw; simp (disch := decide) only [extract_low, extract_high]; rfl
  have f0 : word.extractLsb' 14 5 = a := by
    subst hw; simp (disch := decide) only [extract_low, extract_high]; simp
  have hm : word &&& 0x00F83FFF#32 = 0x00000000#32 := by
    rw [hw, show (0x00F83FFF#32 : BitVec 32) = 0#8 ++ 31#5 ++ 0#5 ++ 16383#14 from by decide, BitVec.and_append]
    simp only [BitVec.and_append, BitVec.and_zero]; rfl
  have hx : word.extractLsb' 0 1 = 0#1 := by subst hw; simp (disch := decide) only [extract_low, extract_high]; rfl
  have hb : word[0] = false := by simpa using congrArg (BitVec.getLsbD · 0) hx
  simp [rowOf, engineOf, rowSys, hg, ho, f0, hm, hb]

theorem migrHandle (a : BitVec 5) (n : BitVec 3) : Statement (.migrHandle a n) := by
  intro wf word hw
  have hw : word = (0xCD#8 ++ 0#5 ++ a ++ 0#10 ++ n ++ 1#1 : BitVec 32) := List.mem_singleton.mp hw
  have hg : word.extractLsb' 29 3 = 6#3 := by
    subst hw; simp (disch := decide) only [extract_low, extract_high]; rfl
  have ho : word.extractLsb' 24 5 = 13#5 := by
    subst hw; simp (disch := decide) only [extract_low, extract_high]; rfl
  have f0 : word.extractLsb' 14 5 = a := by
    subst hw; simp (disch := decide) only [extract_low, extract_high]; simp
  have f1 : word.extractLsb' 1 3 = n := by
    subst hw; simp (disch := decide) only [extract_low, extract_high]; simp
  have hm : word &&& 0x00F83FF1#32 = 0x00000001#32 := by
    rw [hw, show (0x00F83FF1#32 : BitVec 32) = 0#8 ++ 31#5 ++ 0#5 ++ 1023#10 ++ 0#3 ++ 1#1 from by decide, BitVec.and_append]
    simp only [BitVec.and_append, BitVec.and_zero]; rfl
  have hx : word.extractLsb' 0 1 = 1#1 := by subst hw; simp (disch := decide) only [extract_low, extract_high]; rfl
  have hb : word[0] = true := by simpa using congrArg (BitVec.getLsbD · 0) hx
  simp [rowOf, engineOf, rowSys, hg, ho, f0, f1, hm, hb]

theorem spawn (a : BitVec 5) (b : BitVec 5) : Statement (.spawn a b) := by
  intro wf word hw
  have hw : word = (0xCE#8 ++ 0#5 ++ a ++ b ++ 0#9 : BitVec 32) := List.mem_singleton.mp hw
  have hg : word.extractLsb' 29 3 = 6#3 := by
    subst hw; simp (disch := decide) only [extract_low, extract_high]; rfl
  have ho : word.extractLsb' 24 5 = 14#5 := by
    subst hw; simp (disch := decide) only [extract_low, extract_high]; rfl
  have f0 : word.extractLsb' 14 5 = a := by
    subst hw; simp (disch := decide) only [extract_low, extract_high]; simp
  have f1 : word.extractLsb' 9 5 = b := by
    subst hw; simp (disch := decide) only [extract_low, extract_high]; simp
  have hm : word &&& 0x00F801FF#32 = 0x00000000#32 := by
    rw [hw, show (0x00F801FF#32 : BitVec 32) = 0#8 ++ 31#5 ++ 0#5 ++ 0#5 ++ 511#9 from by decide, BitVec.and_append]
    simp only [BitVec.and_append, BitVec.and_zero]; rfl
  have hx : word.extractLsb' 0 1 = 0#1 := by subst hw; simp (disch := decide) only [extract_low, extract_high]; rfl
  have hb : word[0] = false := by simpa using congrArg (BitVec.getLsbD · 0) hx
  simp [rowOf, engineOf, rowSys, hg, ho, f0, f1, hm, hb]

theorem spawnHandle (a : BitVec 5) (b : BitVec 5) (n : BitVec 3) : Statement (.spawnHandle a b n) := by
  intro wf word hw
  have hw : word = (0xCE#8 ++ 0#5 ++ a ++ b ++ 0#5 ++ n ++ 1#1 : BitVec 32) := List.mem_singleton.mp hw
  have hg : word.extractLsb' 29 3 = 6#3 := by
    subst hw; simp (disch := decide) only [extract_low, extract_high]; rfl
  have ho : word.extractLsb' 24 5 = 14#5 := by
    subst hw; simp (disch := decide) only [extract_low, extract_high]; rfl
  have f0 : word.extractLsb' 14 5 = a := by
    subst hw; simp (disch := decide) only [extract_low, extract_high]; simp
  have f1 : word.extractLsb' 9 5 = b := by
    subst hw; simp (disch := decide) only [extract_low, extract_high]; simp
  have f2 : word.extractLsb' 1 3 = n := by
    subst hw; simp (disch := decide) only [extract_low, extract_high]; simp
  have hm : word &&& 0x00F801F1#32 = 0x00000001#32 := by
    rw [hw, show (0x00F801F1#32 : BitVec 32) = 0#8 ++ 31#5 ++ 0#5 ++ 0#5 ++ 31#5 ++ 0#3 ++ 1#1 from by decide, BitVec.and_append]
    simp only [BitVec.and_append, BitVec.and_zero]; rfl
  have hx : word.extractLsb' 0 1 = 1#1 := by subst hw; simp (disch := decide) only [extract_low, extract_high]; rfl
  have hb : word[0] = true := by simpa using congrArg (BitVec.getLsbD · 0) hx
  simp [rowOf, engineOf, rowSys, hg, ho, f0, f1, f2, hm, hb]

theorem tkpri (a : BitVec 5) (b : BitVec 5) : Statement (.tkpri a b) := by
  intro wf word hw
  have hw : word = (0xCF#8 ++ 0#5 ++ a ++ b ++ 0#9 : BitVec 32) := List.mem_singleton.mp hw
  have hg : word.extractLsb' 29 3 = 6#3 := by
    subst hw; simp (disch := decide) only [extract_low, extract_high]; rfl
  have ho : word.extractLsb' 24 5 = 15#5 := by
    subst hw; simp (disch := decide) only [extract_low, extract_high]; rfl
  have f0 : word.extractLsb' 14 5 = a := by
    subst hw; simp (disch := decide) only [extract_low, extract_high]; simp
  have f1 : word.extractLsb' 9 5 = b := by
    subst hw; simp (disch := decide) only [extract_low, extract_high]; simp
  have hm : word &&& 0x00F801FF#32 = 0x00000000#32 := by
    rw [hw, show (0x00F801FF#32 : BitVec 32) = 0#8 ++ 31#5 ++ 0#5 ++ 0#5 ++ 511#9 from by decide, BitVec.and_append]
    simp only [BitVec.and_append, BitVec.and_zero]; rfl
  simp [rowOf, engineOf, rowSys, hg, ho, f0, f1, hm]

theorem timer (d : BitVec 5) (a : BitVec 5) : Statement (.timer d a) := by
  intro wf word hw
  have hw : word = (0xD0#8 ++ d ++ a ++ 0#14 : BitVec 32) := List.mem_singleton.mp hw
  have hg : word.extractLsb' 29 3 = 6#3 := by
    subst hw; simp (disch := decide) only [extract_low, extract_high]; rfl
  have ho : word.extractLsb' 24 5 = 16#5 := by
    subst hw; simp (disch := decide) only [extract_low, extract_high]; rfl
  have f0 : word.extractLsb' 19 5 = d := by
    subst hw; simp (disch := decide) only [extract_low, extract_high]; simp
  have f1 : word.extractLsb' 14 5 = a := by
    subst hw; simp (disch := decide) only [extract_low, extract_high]; simp
  have hm : word &&& 0x00003FFF#32 = 0x00000000#32 := by
    rw [hw, show (0x00003FFF#32 : BitVec 32) = 0#8 ++ 0#5 ++ 0#5 ++ 16383#14 from by decide, BitVec.and_append]
    simp only [BitVec.and_append, BitVec.and_zero]; rfl
  simp [rowOf, engineOf, rowSys, hg, ho, f0, f1, hm]

theorem gang (d : BitVec 5) (a : BitVec 5) : Statement (.gang d a) := by
  intro wf word hw
  have hw : word = (0xD1#8 ++ d ++ a ++ 0#14 : BitVec 32) := List.mem_singleton.mp hw
  have hg : word.extractLsb' 29 3 = 6#3 := by
    subst hw; simp (disch := decide) only [extract_low, extract_high]; rfl
  have ho : word.extractLsb' 24 5 = 17#5 := by
    subst hw; simp (disch := decide) only [extract_low, extract_high]; rfl
  have f0 : word.extractLsb' 19 5 = d := by
    subst hw; simp (disch := decide) only [extract_low, extract_high]; simp
  have f1 : word.extractLsb' 14 5 = a := by
    subst hw; simp (disch := decide) only [extract_low, extract_high]; simp
  have hm : word &&& 0x00003FFF#32 = 0x00000000#32 := by
    rw [hw, show (0x00003FFF#32 : BitVec 32) = 0#8 ++ 0#5 ++ 0#5 ++ 16383#14 from by decide, BitVec.and_append]
    simp only [BitVec.and_append, BitVec.and_zero]; rfl
  simp [rowOf, engineOf, rowSys, hg, ho, f0, f1, hm]

theorem gkeyAdd (d : BitVec 5) (a : BitVec 5) : Statement (.gkeyAdd d a) := by
  intro wf word hw
  have hw : word = (0xD2#8 ++ d ++ a ++ 0#14 : BitVec 32) := List.mem_singleton.mp hw
  have hg : word.extractLsb' 29 3 = 6#3 := by
    subst hw; simp (disch := decide) only [extract_low, extract_high]; rfl
  have ho : word.extractLsb' 24 5 = 18#5 := by
    subst hw; simp (disch := decide) only [extract_low, extract_high]; rfl
  have f0 : word.extractLsb' 19 5 = d := by
    subst hw; simp (disch := decide) only [extract_low, extract_high]; simp
  have f1 : word.extractLsb' 14 5 = a := by
    subst hw; simp (disch := decide) only [extract_low, extract_high]; simp
  have hm : word &&& 0x00003FFF#32 = 0x00000000#32 := by
    rw [hw, show (0x00003FFF#32 : BitVec 32) = 0#8 ++ 0#5 ++ 0#5 ++ 16383#14 from by decide, BitVec.and_append]
    simp only [BitVec.and_append, BitVec.and_zero]; rfl
  have hx : word.extractLsb' 0 1 = 0#1 := by subst hw; simp (disch := decide) only [extract_low, extract_high]; rfl
  have hb : word[0] = false := by simpa using congrArg (BitVec.getLsbD · 0) hx
  simp [rowOf, engineOf, rowSys, hg, ho, f0, f1, hm, hb]

theorem gkeyRm (d : BitVec 5) (a : BitVec 5) : Statement (.gkeyRm d a) := by
  intro wf word hw
  have hw : word = (0xD2#8 ++ d ++ a ++ 1#14 : BitVec 32) := List.mem_singleton.mp hw
  have hg : word.extractLsb' 29 3 = 6#3 := by
    subst hw; simp (disch := decide) only [extract_low, extract_high]; rfl
  have ho : word.extractLsb' 24 5 = 18#5 := by
    subst hw; simp (disch := decide) only [extract_low, extract_high]; rfl
  have f0 : word.extractLsb' 19 5 = d := by
    subst hw; simp (disch := decide) only [extract_low, extract_high]; simp
  have f1 : word.extractLsb' 14 5 = a := by
    subst hw; simp (disch := decide) only [extract_low, extract_high]; simp
  have hm : word &&& 0x00003FFF#32 = 0x00000001#32 := by
    rw [hw, show (0x00003FFF#32 : BitVec 32) = 0#8 ++ 0#5 ++ 0#5 ++ 16383#14 from by decide, BitVec.and_append]
    simp only [BitVec.and_append, BitVec.and_zero]; rfl
  have hx : word.extractLsb' 0 1 = 1#1 := by subst hw; simp (disch := decide) only [extract_low, extract_high]; rfl
  have hb : word[0] = true := by simpa using congrArg (BitVec.getLsbD · 0) hx
  simp [rowOf, engineOf, rowSys, hg, ho, f0, f1, hm, hb]

theorem redn (d : BitVec 5) (c : BitVec 1) : Statement (.redn d c) := by
  intro wf word hw
  have hw : word = (0xD3#8 ++ d ++ 0#18 ++ c : BitVec 32) := List.mem_singleton.mp hw
  have hg : word.extractLsb' 29 3 = 6#3 := by
    subst hw; simp (disch := decide) only [extract_low, extract_high]; rfl
  have ho : word.extractLsb' 24 5 = 19#5 := by
    subst hw; simp (disch := decide) only [extract_low, extract_high]; rfl
  have f0 : word.extractLsb' 19 5 = d := by
    subst hw; simp (disch := decide) only [extract_low, extract_high]; simp
  have f1 : word.extractLsb' 0 1 = c := by
    subst hw; simp (disch := decide) only [extract_low, extract_high]; simp
  have hm : word &&& 0x0007FFFE#32 = 0x00000000#32 := by
    rw [hw, show (0x0007FFFE#32 : BitVec 32) = 0#8 ++ 0#5 ++ 262143#18 ++ 0#1 from by decide, BitVec.and_append]
    simp only [BitVec.and_append, BitVec.and_zero]; rfl
  simp [rowOf, engineOf, rowSys, hg, ho, f0, f1, hm]

theorem vcgrp (d : BitVec 5) (a : BitVec 5) : Statement (.vcgrp d a) := by
  intro wf word hw
  have hw : word = (0xD4#8 ++ d ++ a ++ 0#14 : BitVec 32) := List.mem_singleton.mp hw
  have hg : word.extractLsb' 29 3 = 6#3 := by
    subst hw; simp (disch := decide) only [extract_low, extract_high]; rfl
  have ho : word.extractLsb' 24 5 = 20#5 := by
    subst hw; simp (disch := decide) only [extract_low, extract_high]; rfl
  have f0 : word.extractLsb' 19 5 = d := by
    subst hw; simp (disch := decide) only [extract_low, extract_high]; simp
  have f1 : word.extractLsb' 14 5 = a := by
    subst hw; simp (disch := decide) only [extract_low, extract_high]; simp
  have hm : word &&& 0x00003FFF#32 = 0x00000000#32 := by
    rw [hw, show (0x00003FFF#32 : BitVec 32) = 0#8 ++ 0#5 ++ 0#5 ++ 16383#14 from by decide, BitVec.and_append]
    simp only [BitVec.and_append, BitVec.and_zero]; rfl
  simp [rowOf, engineOf, rowSys, hg, ho, f0, f1, hm]

theorem vcsyn : Statement (.vcsyn) := by
  intro wf word hw
  have hw : word = (0xD5#8 ++ 0#24 : BitVec 32) := List.mem_singleton.mp hw
  have hg : word.extractLsb' 29 3 = 6#3 := by
    subst hw; simp (disch := decide) only [extract_low, extract_high]; rfl
  have ho : word.extractLsb' 24 5 = 21#5 := by
    subst hw; simp (disch := decide) only [extract_low, extract_high]; rfl
  have hm : word &&& 0x00FFFFFF#32 = 0x00000000#32 := by
    rw [hw, show (0x00FFFFFF#32 : BitVec 32) = 0#8 ++ 16777215#24 from by decide, BitVec.and_append]
    rfl
  simp [rowOf, engineOf, rowSys, hg, ho, hm]

theorem ctxs (d : BitVec 5) (a : BitVec 5) (n : BitVec 3) : Statement (.ctxs d a n) := by
  intro wf word hw
  have hw : word = (0xD6#8 ++ d ++ a ++ 0#11 ++ n : BitVec 32) := List.mem_singleton.mp hw
  have hg : word.extractLsb' 29 3 = 6#3 := by
    subst hw; simp (disch := decide) only [extract_low, extract_high]; rfl
  have ho : word.extractLsb' 24 5 = 22#5 := by
    subst hw; simp (disch := decide) only [extract_low, extract_high]; rfl
  have f0 : word.extractLsb' 19 5 = d := by
    subst hw; simp (disch := decide) only [extract_low, extract_high]; simp
  have f1 : word.extractLsb' 14 5 = a := by
    subst hw; simp (disch := decide) only [extract_low, extract_high]; simp
  have f2 : word.extractLsb' 0 3 = n := by
    subst hw; simp (disch := decide) only [extract_low, extract_high]; simp
  have hm : word &&& 0x00003FF8#32 = 0x00000000#32 := by
    rw [hw, show (0x00003FF8#32 : BitVec 32) = 0#8 ++ 0#5 ++ 0#5 ++ 2047#11 ++ 0#3 from by decide, BitVec.and_append]
    simp only [BitVec.and_append, BitVec.and_zero]; rfl
  simp [rowOf, engineOf, rowSys, hg, ho, f0, f1, f2, hm]

theorem ctxl (a : BitVec 5) (n : BitVec 3) : Statement (.ctxl a n) := by
  intro wf word hw
  have hw : word = (0xD7#8 ++ 0#5 ++ a ++ 0#11 ++ n : BitVec 32) := List.mem_singleton.mp hw
  have hg : word.extractLsb' 29 3 = 6#3 := by
    subst hw; simp (disch := decide) only [extract_low, extract_high]; rfl
  have ho : word.extractLsb' 24 5 = 23#5 := by
    subst hw; simp (disch := decide) only [extract_low, extract_high]; rfl
  have f0 : word.extractLsb' 14 5 = a := by
    subst hw; simp (disch := decide) only [extract_low, extract_high]; simp
  have f1 : word.extractLsb' 0 3 = n := by
    subst hw; simp (disch := decide) only [extract_low, extract_high]; simp
  have hm : word &&& 0x00F83FF8#32 = 0x00000000#32 := by
    rw [hw, show (0x00F83FF8#32 : BitVec 32) = 0#8 ++ 31#5 ++ 0#5 ++ 2047#11 ++ 0#3 from by decide, BitVec.and_append]
    simp only [BitVec.and_append, BitVec.and_zero]; rfl
  simp [rowOf, engineOf, rowSys, hg, ho, f0, f1, hm]

theorem scrub (d : BitVec 5) (a : BitVec 5) (b : BitVec 5) (n : BitVec 3) : Statement (.scrub d a b n) := by
  intro wf word hw
  have hw : word = (0xD8#8 ++ d ++ a ++ b ++ 0#6 ++ n : BitVec 32) := List.mem_singleton.mp hw
  have hg : word.extractLsb' 29 3 = 6#3 := by
    subst hw; simp (disch := decide) only [extract_low, extract_high]; rfl
  have ho : word.extractLsb' 24 5 = 24#5 := by
    subst hw; simp (disch := decide) only [extract_low, extract_high]; rfl
  have f0 : word.extractLsb' 19 5 = d := by
    subst hw; simp (disch := decide) only [extract_low, extract_high]; simp
  have f1 : word.extractLsb' 14 5 = a := by
    subst hw; simp (disch := decide) only [extract_low, extract_high]; simp
  have f2 : word.extractLsb' 9 5 = b := by
    subst hw; simp (disch := decide) only [extract_low, extract_high]; simp
  have f3 : word.extractLsb' 0 3 = n := by
    subst hw; simp (disch := decide) only [extract_low, extract_high]; simp
  have hm : word &&& 0x000001F8#32 = 0x00000000#32 := by
    rw [hw, show (0x000001F8#32 : BitVec 32) = 0#8 ++ 0#5 ++ 0#5 ++ 0#5 ++ 63#6 ++ 0#3 from by decide, BitVec.and_append]
    simp only [BitVec.and_append, BitVec.and_zero]; rfl
  simp [rowOf, engineOf, rowSys, hg, ho, f0, f1, f2, f3, hm]

theorem brk (c : BitVec 19) : Statement (.brk c) := by
  intro wf word hw
  have hw : word = (0xD9#8 ++ 0#5 ++ c : BitVec 32) := List.mem_singleton.mp hw
  have hg : word.extractLsb' 29 3 = 6#3 := by
    subst hw; simp (disch := decide) only [extract_low, extract_high]; rfl
  have ho : word.extractLsb' 24 5 = 25#5 := by
    subst hw; simp (disch := decide) only [extract_low, extract_high]; rfl
  have f0 : word.extractLsb' 0 19 = c := by
    subst hw; simp (disch := decide) only [extract_low, extract_high]; simp
  have hm : word &&& 0x00F80000#32 = 0x00000000#32 := by
    rw [hw, show (0x00F80000#32 : BitVec 32) = 0#8 ++ 31#5 ++ 0#19 from by decide, BitVec.and_append]
    simp only [BitVec.and_append, BitVec.and_zero]; rfl
  simp [rowOf, engineOf, rowSys, hg, ho, f0, hm]

theorem evsel (d : BitVec 5) (a : BitVec 5) (n : BitVec 4) : Statement (.evsel d a n) := by
  intro wf word hw
  have hw : word = (0xDA#8 ++ d ++ a ++ 0#10 ++ n : BitVec 32) := List.mem_singleton.mp hw
  have hg : word.extractLsb' 29 3 = 6#3 := by
    subst hw; simp (disch := decide) only [extract_low, extract_high]; rfl
  have ho : word.extractLsb' 24 5 = 26#5 := by
    subst hw; simp (disch := decide) only [extract_low, extract_high]; rfl
  have f0 : word.extractLsb' 19 5 = d := by
    subst hw; simp (disch := decide) only [extract_low, extract_high]; simp
  have f1 : word.extractLsb' 14 5 = a := by
    subst hw; simp (disch := decide) only [extract_low, extract_high]; simp
  have f2 : word.extractLsb' 0 4 = n := by
    subst hw; simp (disch := decide) only [extract_low, extract_high]; simp
  have hm : word &&& 0x00003FF0#32 = 0x00000000#32 := by
    rw [hw, show (0x00003FF0#32 : BitVec 32) = 0#8 ++ 0#5 ++ 0#5 ++ 1023#10 ++ 0#4 from by decide, BitVec.and_append]
    simp only [BitVec.and_append, BitVec.and_zero]; rfl
  simp [rowOf, engineOf, rowSys, hg, ho, f0, f1, f2, hm]

theorem dreg (a : BitVec 5) (b : BitVec 5) (m : BitVec 1) (n : BitVec 3) : Statement (.dreg a b m n) := by
  intro wf word hw
  have hw : word = (0xDB#8 ++ 0#5 ++ a ++ b ++ 0#5 ++ m ++ n : BitVec 32) := List.mem_singleton.mp hw
  have hg : word.extractLsb' 29 3 = 6#3 := by
    subst hw; simp (disch := decide) only [extract_low, extract_high]; rfl
  have ho : word.extractLsb' 24 5 = 27#5 := by
    subst hw; simp (disch := decide) only [extract_low, extract_high]; rfl
  have f0 : word.extractLsb' 14 5 = a := by
    subst hw; simp (disch := decide) only [extract_low, extract_high]; simp
  have f1 : word.extractLsb' 9 5 = b := by
    subst hw; simp (disch := decide) only [extract_low, extract_high]; simp
  have f2 : word.extractLsb' 3 1 = m := by
    subst hw; simp (disch := decide) only [extract_low, extract_high]; simp
  have f3 : word.extractLsb' 0 3 = n := by
    subst hw; simp (disch := decide) only [extract_low, extract_high]; simp
  have hm : word &&& 0x00F801F0#32 = 0x00000000#32 := by
    rw [hw, show (0x00F801F0#32 : BitVec 32) = 0#8 ++ 31#5 ++ 0#5 ++ 0#5 ++ 31#5 ++ 0#1 ++ 0#3 from by decide, BitVec.and_append]
    simp only [BitVec.and_append, BitVec.and_zero]; rfl
  simp [rowOf, engineOf, rowSys, hg, ho, f0, f1, f2, f3, hm]

theorem launch (d : BitVec 5) (a : BitVec 5) (n : BitVec 3) : Statement (.launch d a n) := by
  intro wf word hw
  have hw : word = (0xDC#8 ++ d ++ a ++ 0#11 ++ n : BitVec 32) := List.mem_singleton.mp hw
  have hg : word.extractLsb' 29 3 = 6#3 := by
    subst hw; simp (disch := decide) only [extract_low, extract_high]; rfl
  have ho : word.extractLsb' 24 5 = 28#5 := by
    subst hw; simp (disch := decide) only [extract_low, extract_high]; rfl
  have f0 : word.extractLsb' 19 5 = d := by
    subst hw; simp (disch := decide) only [extract_low, extract_high]; simp
  have f1 : word.extractLsb' 14 5 = a := by
    subst hw; simp (disch := decide) only [extract_low, extract_high]; simp
  have f2 : word.extractLsb' 0 3 = n := by
    subst hw; simp (disch := decide) only [extract_low, extract_high]; simp
  have hm : word &&& 0x00003FF8#32 = 0x00000000#32 := by
    rw [hw, show (0x00003FF8#32 : BitVec 32) = 0#8 ++ 0#5 ++ 0#5 ++ 2047#11 ++ 0#3 from by decide, BitVec.and_append]
    simp only [BitVec.and_append, BitVec.and_zero]; rfl
  simp [rowOf, engineOf, rowSys, hg, ho, f0, f1, f2, hm]

theorem halt (a : BitVec 5) : Statement (.halt a) := by
  intro wf word hw
  have hw : word = (0xDD#8 ++ 0#5 ++ a ++ 0#14 : BitVec 32) := List.mem_singleton.mp hw
  have hg : word.extractLsb' 29 3 = 6#3 := by
    subst hw; simp (disch := decide) only [extract_low, extract_high]; rfl
  have ho : word.extractLsb' 24 5 = 29#5 := by
    subst hw; simp (disch := decide) only [extract_low, extract_high]; rfl
  have f0 : word.extractLsb' 14 5 = a := by
    subst hw; simp (disch := decide) only [extract_low, extract_high]; simp
  have hm : word &&& 0x00F83FFF#32 = 0x00000000#32 := by
    rw [hw, show (0x00F83FFF#32 : BitVec 32) = 0#8 ++ 31#5 ++ 0#5 ++ 16383#14 from by decide, BitVec.and_append]
    simp only [BitVec.and_append, BitVec.and_zero]; rfl
  simp [rowOf, engineOf, rowSys, hg, ho, f0, hm]

theorem translationWalkComplete (who : Agent) (d : BitVec 3) (va : BitVec 64) (start : Nat) : Statement (.translationWalkComplete who d va start) :=
  fun _ _ h => absurd h List.not_mem_nil

theorem launchValidate (port : Option Nat) : Statement (.launchValidate port) :=
  fun _ _ h => absurd h List.not_mem_nil

theorem bindRecord (die : Nat) : Statement (.bindRecord die) :=
  fun _ _ h => absurd h List.not_mem_nil

theorem dependenceMet (tag : Nat) : Statement (.dependenceMet tag) :=
  fun _ _ h => absurd h List.not_mem_nil

theorem slotGrant (core : Nat) : Statement (.slotGrant core) :=
  fun _ _ h => absurd h List.not_mem_nil

theorem repartition (core : Nat) (banks : Nat) : Statement (.repartition core banks) :=
  fun _ _ h => absurd h List.not_mem_nil

theorem contextSwapComplete (core slot : Nat) : Statement (.contextSwapComplete core slot) :=
  fun _ _ h => absurd h List.not_mem_nil

theorem contextAreaReadback (core task tid : Nat) : Statement (.contextAreaReadback core task tid) :=
  fun _ _ h => absurd h List.not_mem_nil

theorem watchNotify (core : Nat) (pa : Nat) : Statement (.watchNotify core pa) :=
  fun _ _ h => absurd h List.not_mem_nil

theorem timerExpiry (u : CoreRef) (task : Nat) : Statement (.timerExpiry u task) :=
  fun _ _ h => absurd h List.not_mem_nil

theorem taskEnd (core task : Nat) : Statement (.taskEnd core task) :=
  fun _ _ h => absurd h List.not_mem_nil

theorem launchComplete (tag : Nat) : Statement (.launchComplete tag) :=
  fun _ _ h => absurd h List.not_mem_nil

theorem denseBankSwitch (tile : Nat) : Statement (.denseBankSwitch tile) :=
  fun _ _ h => absurd h List.not_mem_nil

theorem replyWritten (r : Reply) : Statement (.replyWritten r) :=
  fun _ _ h => absurd h List.not_mem_nil

theorem lateReplyArrival (r : Reply) : Statement (.lateReplyArrival r) :=
  fun _ _ h => absurd h List.not_mem_nil

theorem storeBufferDrain (core : Nat) : Statement (.storeBufferDrain core) :=
  fun _ _ h => absurd h List.not_mem_nil

theorem homeRequest (r : Request) : Statement (.homeRequest r) :=
  fun _ _ h => absurd h List.not_mem_nil

theorem forwardedOperation (core : Nat) (token : Nat) (r : Request) : Statement (.forwardedOperation core token r) :=
  fun _ _ h => absurd h List.not_mem_nil

theorem rdoneEndMarker (core : Nat) (token : Nat) (who : Option Agent) : Statement (.rdoneEndMarker core token who) :=
  fun _ _ h => absurd h List.not_mem_nil

theorem homeGather (g : Gather) : Statement (.homeGather g) :=
  fun _ _ h => absurd h List.not_mem_nil

theorem gatherResend (g : Gather) : Statement (.gatherResend g) :=
  fun _ _ h => absurd h List.not_mem_nil

theorem homeAccumulate (a : Accum) : Statement (.homeAccumulate a) :=
  fun _ _ h => absurd h List.not_mem_nil

theorem homeRowWriteback (w : RowWrite) : Statement (.homeRowWriteback w) :=
  fun _ _ h => absurd h List.not_mem_nil

theorem homeZero (z : RowZero) : Statement (.homeZero z) :=
  fun _ _ h => absurd h List.not_mem_nil

theorem subscriberDelivery (d : Delivery) : Statement (.subscriberDelivery d) :=
  fun _ _ h => absurd h List.not_mem_nil

theorem milestoneContribution (pa : Nat) (n : Nat) : Statement (.milestoneContribution pa n) :=
  fun _ _ h => absurd h List.not_mem_nil

theorem journalAck (who : Agent) (jent : Nat) : Statement (.journalAck who jent) :=
  fun _ _ h => absurd h List.not_mem_nil

theorem refusalArrival (who : Agent) (jent : Nat) (r : Refused) (last : Bool) : Statement (.refusalArrival who jent r last) :=
  fun _ _ h => absurd h List.not_mem_nil

theorem waypointCommitApply (who : Agent) : Statement (.waypointCommitApply who) :=
  fun _ _ h => absurd h List.not_mem_nil

theorem revocationPortGo (control : Option Nat) (value : BitVec 64) : Statement (.revocationPortGo control value) :=
  fun _ _ h => absurd h List.not_mem_nil

theorem revocationApply (u : CoreRef) (r : Revocation) : Statement (.revocationApply u r) :=
  fun _ _ h => absurd h List.not_mem_nil

theorem revocationAck (u : CoreRef) (r : Revocation) : Statement (.revocationAck u r) :=
  fun _ _ h => absurd h List.not_mem_nil

theorem revocationComplete (r : Revocation) : Statement (.revocationComplete r) :=
  fun _ _ h => absurd h List.not_mem_nil

theorem copyBeat (engine : Nat) : Statement (.copyBeat engine) :=
  fun _ _ h => absurd h List.not_mem_nil

theorem copyCommandComplete (engine : Nat) (cmd : Nat) : Statement (.copyCommandComplete engine cmd) :=
  fun _ _ h => absurd h List.not_mem_nil

theorem edgeAccept (u : CoreRef) (cmd : Nat) : Statement (.edgeAccept u cmd) :=
  fun _ _ h => absurd h List.not_mem_nil

theorem producerEnd (key : Nat) (granule : Nat) : Statement (.producerEnd key granule) :=
  fun _ _ h => absurd h List.not_mem_nil

theorem travelContextArrival (t : Travel) : Statement (.travelContextArrival t) :=
  fun _ _ h => absurd h List.not_mem_nil

theorem spillReturn (core : Nat) : Statement (.spillReturn core) :=
  fun _ _ h => absurd h List.not_mem_nil

theorem contextReturn (t : Travel) : Statement (.contextReturn t) :=
  fun _ _ h => absurd h List.not_mem_nil

theorem trapDrain (tile : Nat) : Statement (.trapDrain tile) :=
  fun _ _ h => absurd h List.not_mem_nil

theorem coreFence (u : CoreRef) (value : BitVec 64) : Statement (.coreFence u value) :=
  fun _ _ h => absurd h List.not_mem_nil

theorem nqheadWrite (value : BitVec 64) : Statement (.nqheadWrite value) :=
  fun _ _ h => absurd h List.not_mem_nil

theorem fqheadWrite (value : BitVec 64) : Statement (.fqheadWrite value) :=
  fun _ _ h => absurd h List.not_mem_nil

theorem gangStartMessage (k : Nat) (slow : Bool) : Statement (.gangStartMessage k slow) :=
  fun _ _ h => absurd h List.not_mem_nil

theorem gangStopComplete (k : Nat) : Statement (.gangStopComplete k) :=
  fun _ _ h => absurd h List.not_mem_nil

theorem reinjectionComplete (k : Nat) : Statement (.reinjectionComplete k) :=
  fun _ _ h => absurd h List.not_mem_nil

theorem lctlFullRetrain (port : Nat) : Statement (.lctlFullRetrain port) :=
  fun _ _ h => absurd h List.not_mem_nil

theorem lctlDisable (port : Nat) (dis : Bool) : Statement (.lctlDisable port dis) :=
  fun _ _ h => absurd h List.not_mem_nil

theorem registerWrite (space : RegSpace) (key : Option Nat) (ofs : Nat) (value : BitVec 64) : Statement (.registerWrite space key ofs value) :=
  fun _ _ h => absurd h List.not_mem_nil

theorem pflFillArrival (core : Nat) (line : Nat) (data : List Byte) (noAlloc : Bool) : Statement (.pflFillArrival core line data noAlloc) :=
  fun _ _ h => absurd h List.not_mem_nil

theorem tileWindowAccess (r : Request) : Statement (.tileWindowAccess r) :=
  fun _ _ h => absurd h List.not_mem_nil

theorem lsendSegmentArrival (g : Segment) : Statement (.lsendSegmentArrival g) :=
  fun _ _ h => absurd h List.not_mem_nil

theorem taskOperationArrival (t : TaskReq) : Statement (.taskOperationArrival t) :=
  fun _ _ h => absurd h List.not_mem_nil

theorem launchPortRecord (port : Nat) (record : BitVec 512) (whole : Bool) : Statement (.launchPortRecord port record whole) :=
  fun _ _ h => absurd h List.not_mem_nil

theorem companionTimeout (tag : Nat) : Statement (.companionTimeout tag) :=
  fun _ _ h => absurd h List.not_mem_nil

theorem dispatchPlacement (die : Nat) (record : BitVec 256) : Statement (.dispatchPlacement die record) :=
  fun _ _ h => absurd h List.not_mem_nil

theorem ageTick (core : Nat) : Statement (.ageTick core) :=
  fun _ _ h => absurd h List.not_mem_nil

theorem sliceExpiry (who : Agent) : Statement (.sliceExpiry who) :=
  fun _ _ h => absurd h List.not_mem_nil

theorem contextAreaWriteback (core : Nat) : Statement (.contextAreaWriteback core) :=
  fun _ _ h => absurd h List.not_mem_nil

theorem l1Eviction (core set way : Nat) : Statement (.l1Eviction core set way) :=
  fun _ _ h => absurd h List.not_mem_nil

theorem gatherWaitTimeout (pair : Nat) (index : Nat) : Statement (.gatherWaitTimeout pair index) :=
  fun _ _ h => absurd h List.not_mem_nil

theorem mergeWindowExpiry (id : Nat) : Statement (.mergeWindowExpiry id) :=
  fun _ _ h => absurd h List.not_mem_nil

theorem refusalTaken (who : Agent) : Statement (.refusalTaken who) :=
  fun _ _ h => absurd h List.not_mem_nil

theorem waypointHoldTimeout (who : Agent) : Statement (.waypointHoldTimeout who) :=
  fun _ _ h => absurd h List.not_mem_nil

theorem waypointRollback (who : Agent) (cause : Nat) : Statement (.waypointRollback who cause) :=
  fun _ _ h => absurd h List.not_mem_nil

theorem copyPriorityAging (engine : Nat) (cmd : Nat) : Statement (.copyPriorityAging engine cmd) :=
  fun _ _ h => absurd h List.not_mem_nil

theorem edgeRefusal (u : CoreRef) (cmd : Nat) (hint : Nat) : Statement (.edgeRefusal u cmd hint) :=
  fun _ _ h => absurd h List.not_mem_nil

theorem edgeRetry (u : CoreRef) (cmd : Nat) : Statement (.edgeRetry u cmd) :=
  fun _ _ h => absurd h List.not_mem_nil

theorem park (who : Agent) (cause : Nat) (tval tinfo : BitVec 64) (dt uh : Bool) : Statement (.park who cause tval tinfo dt uh) :=
  fun _ _ h => absurd h List.not_mem_nil

theorem gangPortSwitch (key : Nat) (slow : Bool) : Statement (.gangPortSwitch key slow) :=
  fun _ _ h => absurd h List.not_mem_nil

theorem gangPortPageOut (key : Nat) : Statement (.gangPortPageOut key) :=
  fun _ _ h => absurd h List.not_mem_nil

theorem gangPortPageIn (key : Nat) : Statement (.gangPortPageIn key) :=
  fun _ _ h => absurd h List.not_mem_nil

theorem sweepMarker (k port vc : Nat) : Statement (.sweepMarker k port vc) :=
  fun _ _ h => absurd h List.not_mem_nil

theorem sweepLinkTimeout (k port : Nat) : Statement (.sweepLinkTimeout k port) :=
  fun _ _ h => absurd h List.not_mem_nil

theorem gkeyRemoveMessage (key : Nat) (src : Nat) : Statement (.gkeyRemoveMessage key src) :=
  fun _ _ h => absurd h List.not_mem_nil

theorem packetArrival (port : Nat) (p : Packet) : Statement (.packetArrival port p) :=
  fun _ _ h => absurd h List.not_mem_nil

theorem seqGapTimeout (src dst vc : Nat) : Statement (.seqGapTimeout src dst vc) :=
  fun _ _ h => absurd h List.not_mem_nil

theorem unreachableTimeout (index : Nat) : Statement (.unreachableTimeout index) :=
  fun _ _ h => absurd h List.not_mem_nil

theorem flitArrival (port : Nat) (crcOk : Bool) (f : Flit) : Statement (.flitArrival port crcOk f) :=
  fun _ _ h => absurd h List.not_mem_nil

theorem flitAck (port : Nat) (num : Nat) : Statement (.flitAck port num) :=
  fun _ _ h => absurd h List.not_mem_nil

theorem flowControlSignal (port vc : Nat) (stop : Bool) : Statement (.flowControlSignal port vc stop) :=
  fun _ _ h => absurd h List.not_mem_nil

theorem laneFailure (port lane : Nat) : Statement (.laneFailure port lane) :=
  fun _ _ h => absurd h List.not_mem_nil

theorem retrainComplete (port : Nat) (rtt : Nat) : Statement (.retrainComplete port rtt) :=
  fun _ _ h => absurd h List.not_mem_nil

theorem hwinWrite (value : BitVec 64) : Statement (.hwinWrite value) :=
  fun _ _ h => absurd h List.not_mem_nil

theorem hostWindowAccess (a : HostAccess) : Statement (.hostWindowAccess a) :=
  fun _ _ h => absurd h List.not_mem_nil

theorem hostSnoop (line : Nat) : Statement (.hostSnoop line) :=
  fun _ _ h => absurd h List.not_mem_nil

theorem hostCacheReply (line : Nat) (kind : CacheReq) (data : List Byte) (error : Bool) : Statement (.hostCacheReply line kind data error) :=
  fun _ _ h => absurd h List.not_mem_nil

theorem attestationRequest (nonce : BitVec 256) : Statement (.attestationRequest nonce) :=
  fun _ _ h => absurd h List.not_mem_nil

theorem firmwareVerify (image : Firmware) (fail : Nat) : Statement (.firmwareVerify image fail) :=
  fun _ _ h => absurd h List.not_mem_nil

theorem stageCReached (failedPorts : List Nat) : Statement (.stageCReached failedPorts) :=
  fun _ _ h => absurd h List.not_mem_nil

theorem throttleRaise (tmax pwr thbm : Nat) : Statement (.throttleRaise tmax pwr thbm) :=
  fun _ _ h => absurd h List.not_mem_nil

theorem throttleLower (tmax pwr thbm : Nat) : Statement (.throttleLower tmax pwr thbm) :=
  fun _ _ h => absurd h List.not_mem_nil

theorem thermalTrip (tmax : Nat) : Statement (.thermalTrip tmax) :=
  fun _ _ h => absurd h List.not_mem_nil

theorem storageError (pa : Nat) (corrected : Bool) : Statement (.storageError pa corrected) :=
  fun _ _ h => absurd h List.not_mem_nil

theorem backInvalidateResponse (line : Nat) : Statement (.backInvalidateResponse line) :=
  fun _ _ h => absurd h List.not_mem_nil

theorem replayTimeout (port : Nat) : Statement (.replayTimeout port) :=
  fun _ _ h => absurd h List.not_mem_nil

theorem counterDecay : Statement (.counterDecay) :=
  fun _ _ h => absurd h List.not_mem_nil

theorem planePageComplete : Statement (.planePageComplete) :=
  fun _ _ h => absurd h List.not_mem_nil

theorem partitionPortAdmit : Statement (.partitionPortAdmit) :=
  fun _ _ h => absurd h List.not_mem_nil

theorem partitionPortCreate : Statement (.partitionPortCreate) :=
  fun _ _ h => absurd h List.not_mem_nil

theorem certificateRead : Statement (.certificateRead) :=
  fun _ _ h => absurd h List.not_mem_nil

theorem powerGood : Statement (.powerGood) :=
  fun _ _ h => absurd h List.not_mem_nil

theorem cxlLinkDown : Statement (.cxlLinkDown) :=
  fun _ _ h => absurd h List.not_mem_nil

end Sys2Proof.Laws.RowWord
end

