-- ==== Sys2Proof/Laws/State.lean ====
section
/-! SUPPORT. One lemma per field of State for each of its named updates, and what a part reads as after one. -/

namespace Sys2Proof.Machine

/-! ### setLc -/

@[simp] theorem State.setLc_focus (s : State) (i : Nat) (c : LCore) : (s.setLc i c).focus = s.focus := rfl
@[simp] theorem State.setLc_bslot (s : State) (i : Nat) (c : LCore) : (s.setLc i c).bslot = s.bslot := rfl
@[simp] theorem State.setLc_agenda (s : State) (i : Nat) (c : LCore) : (s.setLc i c).agenda = s.agenda := rfl
@[simp] theorem State.setLc_free (s : State) (i : Nat) (c : LCore) : (s.setLc i c).free = s.free := rfl
@[simp] theorem State.setLc_module (s : State) (i : Nat) (c : LCore) : (s.setLc i c).module = s.module := rfl
@[simp] theorem State.setLc_cycle (s : State) (i : Nat) (c : LCore) : (s.setLc i c).cycle = s.cycle := rfl
@[simp] theorem State.setLc_timeNs (s : State) (i : Nat) (c : LCore) : (s.setLc i c).timeNs = s.timeNs := rfl
@[simp] theorem State.setLc_mem (s : State) (i : Nat) (c : LCore) : (s.setLc i c).mem = s.mem := rfl
@[simp] theorem State.setLc_poison (s : State) (i : Nat) (c : LCore) : (s.setLc i c).poison = s.poison := rfl
@[simp] theorem State.setLc_ctxs (s : State) (i : Nat) (c : LCore) : (s.setLc i c).ctxs = s.ctxs := rfl
@[simp] theorem State.setLc_dts (s : State) (i : Nat) (c : LCore) : (s.setLc i c).dts = s.dts := rfl
@[simp] theorem State.setLc_homes (s : State) (i : Nat) (c : LCore) : (s.setLc i c).homes = s.homes := rfl
@[simp] theorem State.setLc_disp (s : State) (i : Nat) (c : LCore) : (s.setLc i c).disp = s.disp := rfl
@[simp] theorem State.setLc_parts (s : State) (i : Nat) (c : LCore) : (s.setLc i c).parts = s.parts := rfl
@[simp] theorem State.setLc_regs (s : State) (i : Nat) (c : LCore) : (s.setLc i c).regs = s.regs := rfl
@[simp] theorem State.setLc_revLog (s : State) (i : Nat) (c : LCore) : (s.setLc i c).revLog = s.revLog := rfl
@[simp] theorem State.setLc_revs (s : State) (i : Nat) (c : LCore) : (s.setLc i c).revs = s.revs := rfl
@[simp] theorem State.setLc_nextRev (s : State) (i : Nat) (c : LCore) : (s.setLc i c).nextRev = s.nextRev := rfl
@[simp] theorem State.setLc_fabric (s : State) (i : Nat) (c : LCore) : (s.setLc i c).fabric = s.fabric := rfl
@[simp] theorem State.setLc_gang (s : State) (i : Nat) (c : LCore) : (s.setLc i c).gang = s.gang := rfl
@[simp] theorem State.setLc_edges (s : State) (i : Nat) (c : LCore) : (s.setLc i c).edges = s.edges := rfl
@[simp] theorem State.setLc_nextCmd (s : State) (i : Nat) (c : LCore) : (s.setLc i c).nextCmd = s.nextCmd := rfl
@[simp] theorem State.setLc_sectors (s : State) (i : Nat) (c : LCore) : (s.setLc i c).sectors = s.sectors := rfl
@[simp] theorem State.setLc_boot (s : State) (i : Nat) (c : LCore) : (s.setLc i c).boot = s.boot := rfl

/-! ### setDt -/

@[simp] theorem State.setDt_focus (s : State) (j : Nat) (d : DTile) : (s.setDt j d).focus = s.focus := rfl
@[simp] theorem State.setDt_bslot (s : State) (j : Nat) (d : DTile) : (s.setDt j d).bslot = s.bslot := rfl
@[simp] theorem State.setDt_agenda (s : State) (j : Nat) (d : DTile) : (s.setDt j d).agenda = s.agenda := rfl
@[simp] theorem State.setDt_free (s : State) (j : Nat) (d : DTile) : (s.setDt j d).free = s.free := rfl
@[simp] theorem State.setDt_module (s : State) (j : Nat) (d : DTile) : (s.setDt j d).module = s.module := rfl
@[simp] theorem State.setDt_cycle (s : State) (j : Nat) (d : DTile) : (s.setDt j d).cycle = s.cycle := rfl
@[simp] theorem State.setDt_timeNs (s : State) (j : Nat) (d : DTile) : (s.setDt j d).timeNs = s.timeNs := rfl
@[simp] theorem State.setDt_mem (s : State) (j : Nat) (d : DTile) : (s.setDt j d).mem = s.mem := rfl
@[simp] theorem State.setDt_poison (s : State) (j : Nat) (d : DTile) : (s.setDt j d).poison = s.poison := rfl
@[simp] theorem State.setDt_ctxs (s : State) (j : Nat) (d : DTile) : (s.setDt j d).ctxs = s.ctxs := rfl
@[simp] theorem State.setDt_lcs (s : State) (j : Nat) (d : DTile) : (s.setDt j d).lcs = s.lcs := rfl
@[simp] theorem State.setDt_homes (s : State) (j : Nat) (d : DTile) : (s.setDt j d).homes = s.homes := rfl
@[simp] theorem State.setDt_disp (s : State) (j : Nat) (d : DTile) : (s.setDt j d).disp = s.disp := rfl
@[simp] theorem State.setDt_parts (s : State) (j : Nat) (d : DTile) : (s.setDt j d).parts = s.parts := rfl
@[simp] theorem State.setDt_regs (s : State) (j : Nat) (d : DTile) : (s.setDt j d).regs = s.regs := rfl
@[simp] theorem State.setDt_revLog (s : State) (j : Nat) (d : DTile) : (s.setDt j d).revLog = s.revLog := rfl
@[simp] theorem State.setDt_revs (s : State) (j : Nat) (d : DTile) : (s.setDt j d).revs = s.revs := rfl
@[simp] theorem State.setDt_nextRev (s : State) (j : Nat) (d : DTile) : (s.setDt j d).nextRev = s.nextRev := rfl
@[simp] theorem State.setDt_fabric (s : State) (j : Nat) (d : DTile) : (s.setDt j d).fabric = s.fabric := rfl
@[simp] theorem State.setDt_gang (s : State) (j : Nat) (d : DTile) : (s.setDt j d).gang = s.gang := rfl
@[simp] theorem State.setDt_edges (s : State) (j : Nat) (d : DTile) : (s.setDt j d).edges = s.edges := rfl
@[simp] theorem State.setDt_nextCmd (s : State) (j : Nat) (d : DTile) : (s.setDt j d).nextCmd = s.nextCmd := rfl
@[simp] theorem State.setDt_sectors (s : State) (j : Nat) (d : DTile) : (s.setDt j d).sectors = s.sectors := rfl
@[simp] theorem State.setDt_boot (s : State) (j : Nat) (d : DTile) : (s.setDt j d).boot = s.boot := rfl

/-! ### setLp -/

@[simp] theorem State.setLp_focus (s : State) (i : Nat) (p : LPlane) : (s.setLp i p).focus = s.focus := rfl
@[simp] theorem State.setLp_bslot (s : State) (i : Nat) (p : LPlane) : (s.setLp i p).bslot = s.bslot := rfl
@[simp] theorem State.setLp_agenda (s : State) (i : Nat) (p : LPlane) : (s.setLp i p).agenda = s.agenda := rfl
@[simp] theorem State.setLp_free (s : State) (i : Nat) (p : LPlane) : (s.setLp i p).free = s.free := rfl
@[simp] theorem State.setLp_module (s : State) (i : Nat) (p : LPlane) : (s.setLp i p).module = s.module := rfl
@[simp] theorem State.setLp_cycle (s : State) (i : Nat) (p : LPlane) : (s.setLp i p).cycle = s.cycle := rfl
@[simp] theorem State.setLp_timeNs (s : State) (i : Nat) (p : LPlane) : (s.setLp i p).timeNs = s.timeNs := rfl
@[simp] theorem State.setLp_mem (s : State) (i : Nat) (p : LPlane) : (s.setLp i p).mem = s.mem := rfl
@[simp] theorem State.setLp_poison (s : State) (i : Nat) (p : LPlane) : (s.setLp i p).poison = s.poison := rfl
@[simp] theorem State.setLp_ctxs (s : State) (i : Nat) (p : LPlane) : (s.setLp i p).ctxs = s.ctxs := rfl
@[simp] theorem State.setLp_dts (s : State) (i : Nat) (p : LPlane) : (s.setLp i p).dts = s.dts := rfl
@[simp] theorem State.setLp_homes (s : State) (i : Nat) (p : LPlane) : (s.setLp i p).homes = s.homes := rfl
@[simp] theorem State.setLp_disp (s : State) (i : Nat) (p : LPlane) : (s.setLp i p).disp = s.disp := rfl
@[simp] theorem State.setLp_parts (s : State) (i : Nat) (p : LPlane) : (s.setLp i p).parts = s.parts := rfl
@[simp] theorem State.setLp_regs (s : State) (i : Nat) (p : LPlane) : (s.setLp i p).regs = s.regs := rfl
@[simp] theorem State.setLp_revLog (s : State) (i : Nat) (p : LPlane) : (s.setLp i p).revLog = s.revLog := rfl
@[simp] theorem State.setLp_revs (s : State) (i : Nat) (p : LPlane) : (s.setLp i p).revs = s.revs := rfl
@[simp] theorem State.setLp_nextRev (s : State) (i : Nat) (p : LPlane) : (s.setLp i p).nextRev = s.nextRev := rfl
@[simp] theorem State.setLp_fabric (s : State) (i : Nat) (p : LPlane) : (s.setLp i p).fabric = s.fabric := rfl
@[simp] theorem State.setLp_gang (s : State) (i : Nat) (p : LPlane) : (s.setLp i p).gang = s.gang := rfl
@[simp] theorem State.setLp_edges (s : State) (i : Nat) (p : LPlane) : (s.setLp i p).edges = s.edges := rfl
@[simp] theorem State.setLp_nextCmd (s : State) (i : Nat) (p : LPlane) : (s.setLp i p).nextCmd = s.nextCmd := rfl
@[simp] theorem State.setLp_sectors (s : State) (i : Nat) (p : LPlane) : (s.setLp i p).sectors = s.sectors := rfl
@[simp] theorem State.setLp_boot (s : State) (i : Nat) (p : LPlane) : (s.setLp i p).boot = s.boot := rfl

/-! ### setDp -/

@[simp] theorem State.setDp_focus (s : State) (j : Nat) (p : DPlane) : (s.setDp j p).focus = s.focus := rfl
@[simp] theorem State.setDp_bslot (s : State) (j : Nat) (p : DPlane) : (s.setDp j p).bslot = s.bslot := rfl
@[simp] theorem State.setDp_agenda (s : State) (j : Nat) (p : DPlane) : (s.setDp j p).agenda = s.agenda := rfl
@[simp] theorem State.setDp_free (s : State) (j : Nat) (p : DPlane) : (s.setDp j p).free = s.free := rfl
@[simp] theorem State.setDp_module (s : State) (j : Nat) (p : DPlane) : (s.setDp j p).module = s.module := rfl
@[simp] theorem State.setDp_cycle (s : State) (j : Nat) (p : DPlane) : (s.setDp j p).cycle = s.cycle := rfl
@[simp] theorem State.setDp_timeNs (s : State) (j : Nat) (p : DPlane) : (s.setDp j p).timeNs = s.timeNs := rfl
@[simp] theorem State.setDp_mem (s : State) (j : Nat) (p : DPlane) : (s.setDp j p).mem = s.mem := rfl
@[simp] theorem State.setDp_poison (s : State) (j : Nat) (p : DPlane) : (s.setDp j p).poison = s.poison := rfl
@[simp] theorem State.setDp_ctxs (s : State) (j : Nat) (p : DPlane) : (s.setDp j p).ctxs = s.ctxs := rfl
@[simp] theorem State.setDp_lcs (s : State) (j : Nat) (p : DPlane) : (s.setDp j p).lcs = s.lcs := rfl
@[simp] theorem State.setDp_homes (s : State) (j : Nat) (p : DPlane) : (s.setDp j p).homes = s.homes := rfl
@[simp] theorem State.setDp_disp (s : State) (j : Nat) (p : DPlane) : (s.setDp j p).disp = s.disp := rfl
@[simp] theorem State.setDp_parts (s : State) (j : Nat) (p : DPlane) : (s.setDp j p).parts = s.parts := rfl
@[simp] theorem State.setDp_regs (s : State) (j : Nat) (p : DPlane) : (s.setDp j p).regs = s.regs := rfl
@[simp] theorem State.setDp_revLog (s : State) (j : Nat) (p : DPlane) : (s.setDp j p).revLog = s.revLog := rfl
@[simp] theorem State.setDp_revs (s : State) (j : Nat) (p : DPlane) : (s.setDp j p).revs = s.revs := rfl
@[simp] theorem State.setDp_nextRev (s : State) (j : Nat) (p : DPlane) : (s.setDp j p).nextRev = s.nextRev := rfl
@[simp] theorem State.setDp_fabric (s : State) (j : Nat) (p : DPlane) : (s.setDp j p).fabric = s.fabric := rfl
@[simp] theorem State.setDp_gang (s : State) (j : Nat) (p : DPlane) : (s.setDp j p).gang = s.gang := rfl
@[simp] theorem State.setDp_edges (s : State) (j : Nat) (p : DPlane) : (s.setDp j p).edges = s.edges := rfl
@[simp] theorem State.setDp_nextCmd (s : State) (j : Nat) (p : DPlane) : (s.setDp j p).nextCmd = s.nextCmd := rfl
@[simp] theorem State.setDp_sectors (s : State) (j : Nat) (p : DPlane) : (s.setDp j p).sectors = s.sectors := rfl
@[simp] theorem State.setDp_boot (s : State) (j : Nat) (p : DPlane) : (s.setDp j p).boot = s.boot := rfl

/-! ### setCtx -/

@[simp] theorem State.setCtx_focus (s : State) (a : Agent) (c : Ctx) : (s.setCtx a c).focus = s.focus := rfl
@[simp] theorem State.setCtx_bslot (s : State) (a : Agent) (c : Ctx) : (s.setCtx a c).bslot = s.bslot := rfl
@[simp] theorem State.setCtx_agenda (s : State) (a : Agent) (c : Ctx) : (s.setCtx a c).agenda = s.agenda := rfl
@[simp] theorem State.setCtx_free (s : State) (a : Agent) (c : Ctx) : (s.setCtx a c).free = s.free := rfl
@[simp] theorem State.setCtx_module (s : State) (a : Agent) (c : Ctx) : (s.setCtx a c).module = s.module := rfl
@[simp] theorem State.setCtx_cycle (s : State) (a : Agent) (c : Ctx) : (s.setCtx a c).cycle = s.cycle := rfl
@[simp] theorem State.setCtx_timeNs (s : State) (a : Agent) (c : Ctx) : (s.setCtx a c).timeNs = s.timeNs := rfl
@[simp] theorem State.setCtx_mem (s : State) (a : Agent) (c : Ctx) : (s.setCtx a c).mem = s.mem := rfl
@[simp] theorem State.setCtx_poison (s : State) (a : Agent) (c : Ctx) : (s.setCtx a c).poison = s.poison := rfl
@[simp] theorem State.setCtx_lcs (s : State) (a : Agent) (c : Ctx) : (s.setCtx a c).lcs = s.lcs := rfl
@[simp] theorem State.setCtx_dts (s : State) (a : Agent) (c : Ctx) : (s.setCtx a c).dts = s.dts := rfl
@[simp] theorem State.setCtx_homes (s : State) (a : Agent) (c : Ctx) : (s.setCtx a c).homes = s.homes := rfl
@[simp] theorem State.setCtx_disp (s : State) (a : Agent) (c : Ctx) : (s.setCtx a c).disp = s.disp := rfl
@[simp] theorem State.setCtx_parts (s : State) (a : Agent) (c : Ctx) : (s.setCtx a c).parts = s.parts := rfl
@[simp] theorem State.setCtx_regs (s : State) (a : Agent) (c : Ctx) : (s.setCtx a c).regs = s.regs := rfl
@[simp] theorem State.setCtx_revLog (s : State) (a : Agent) (c : Ctx) : (s.setCtx a c).revLog = s.revLog := rfl
@[simp] theorem State.setCtx_revs (s : State) (a : Agent) (c : Ctx) : (s.setCtx a c).revs = s.revs := rfl
@[simp] theorem State.setCtx_nextRev (s : State) (a : Agent) (c : Ctx) : (s.setCtx a c).nextRev = s.nextRev := rfl
@[simp] theorem State.setCtx_fabric (s : State) (a : Agent) (c : Ctx) : (s.setCtx a c).fabric = s.fabric := rfl
@[simp] theorem State.setCtx_gang (s : State) (a : Agent) (c : Ctx) : (s.setCtx a c).gang = s.gang := rfl
@[simp] theorem State.setCtx_edges (s : State) (a : Agent) (c : Ctx) : (s.setCtx a c).edges = s.edges := rfl
@[simp] theorem State.setCtx_nextCmd (s : State) (a : Agent) (c : Ctx) : (s.setCtx a c).nextCmd = s.nextCmd := rfl
@[simp] theorem State.setCtx_sectors (s : State) (a : Agent) (c : Ctx) : (s.setCtx a c).sectors = s.sectors := rfl
@[simp] theorem State.setCtx_boot (s : State) (a : Agent) (c : Ctx) : (s.setCtx a c).boot = s.boot := rfl

/-! ### setCur -/

@[simp] theorem State.setCur_focus (s : State) (c : Ctx) : (s.setCur c).focus = s.focus := rfl
@[simp] theorem State.setCur_bslot (s : State) (c : Ctx) : (s.setCur c).bslot = s.bslot := rfl
@[simp] theorem State.setCur_agenda (s : State) (c : Ctx) : (s.setCur c).agenda = s.agenda := rfl
@[simp] theorem State.setCur_free (s : State) (c : Ctx) : (s.setCur c).free = s.free := rfl
@[simp] theorem State.setCur_module (s : State) (c : Ctx) : (s.setCur c).module = s.module := rfl
@[simp] theorem State.setCur_cycle (s : State) (c : Ctx) : (s.setCur c).cycle = s.cycle := rfl
@[simp] theorem State.setCur_timeNs (s : State) (c : Ctx) : (s.setCur c).timeNs = s.timeNs := rfl
@[simp] theorem State.setCur_mem (s : State) (c : Ctx) : (s.setCur c).mem = s.mem := rfl
@[simp] theorem State.setCur_poison (s : State) (c : Ctx) : (s.setCur c).poison = s.poison := rfl
@[simp] theorem State.setCur_lcs (s : State) (c : Ctx) : (s.setCur c).lcs = s.lcs := rfl
@[simp] theorem State.setCur_dts (s : State) (c : Ctx) : (s.setCur c).dts = s.dts := rfl
@[simp] theorem State.setCur_homes (s : State) (c : Ctx) : (s.setCur c).homes = s.homes := rfl
@[simp] theorem State.setCur_disp (s : State) (c : Ctx) : (s.setCur c).disp = s.disp := rfl
@[simp] theorem State.setCur_parts (s : State) (c : Ctx) : (s.setCur c).parts = s.parts := rfl
@[simp] theorem State.setCur_regs (s : State) (c : Ctx) : (s.setCur c).regs = s.regs := rfl
@[simp] theorem State.setCur_revLog (s : State) (c : Ctx) : (s.setCur c).revLog = s.revLog := rfl
@[simp] theorem State.setCur_revs (s : State) (c : Ctx) : (s.setCur c).revs = s.revs := rfl
@[simp] theorem State.setCur_nextRev (s : State) (c : Ctx) : (s.setCur c).nextRev = s.nextRev := rfl
@[simp] theorem State.setCur_fabric (s : State) (c : Ctx) : (s.setCur c).fabric = s.fabric := rfl
@[simp] theorem State.setCur_gang (s : State) (c : Ctx) : (s.setCur c).gang = s.gang := rfl
@[simp] theorem State.setCur_edges (s : State) (c : Ctx) : (s.setCur c).edges = s.edges := rfl
@[simp] theorem State.setCur_nextCmd (s : State) (c : Ctx) : (s.setCur c).nextCmd = s.nextCmd := rfl
@[simp] theorem State.setCur_sectors (s : State) (c : Ctx) : (s.setCur c).sectors = s.sectors := rfl
@[simp] theorem State.setCur_boot (s : State) (c : Ctx) : (s.setCur c).boot = s.boot := rfl

/-! ### setPart -/

@[simp] theorem State.setPart_focus (s : State) (k : Nat) (p : PartSet) : (s.setPart k p).focus = s.focus := rfl
@[simp] theorem State.setPart_bslot (s : State) (k : Nat) (p : PartSet) : (s.setPart k p).bslot = s.bslot := rfl
@[simp] theorem State.setPart_agenda (s : State) (k : Nat) (p : PartSet) : (s.setPart k p).agenda = s.agenda := rfl
@[simp] theorem State.setPart_free (s : State) (k : Nat) (p : PartSet) : (s.setPart k p).free = s.free := rfl
@[simp] theorem State.setPart_module (s : State) (k : Nat) (p : PartSet) : (s.setPart k p).module = s.module := rfl
@[simp] theorem State.setPart_cycle (s : State) (k : Nat) (p : PartSet) : (s.setPart k p).cycle = s.cycle := rfl
@[simp] theorem State.setPart_timeNs (s : State) (k : Nat) (p : PartSet) : (s.setPart k p).timeNs = s.timeNs := rfl
@[simp] theorem State.setPart_mem (s : State) (k : Nat) (p : PartSet) : (s.setPart k p).mem = s.mem := rfl
@[simp] theorem State.setPart_poison (s : State) (k : Nat) (p : PartSet) : (s.setPart k p).poison = s.poison := rfl
@[simp] theorem State.setPart_ctxs (s : State) (k : Nat) (p : PartSet) : (s.setPart k p).ctxs = s.ctxs := rfl
@[simp] theorem State.setPart_lcs (s : State) (k : Nat) (p : PartSet) : (s.setPart k p).lcs = s.lcs := rfl
@[simp] theorem State.setPart_dts (s : State) (k : Nat) (p : PartSet) : (s.setPart k p).dts = s.dts := rfl
@[simp] theorem State.setPart_homes (s : State) (k : Nat) (p : PartSet) : (s.setPart k p).homes = s.homes := rfl
@[simp] theorem State.setPart_disp (s : State) (k : Nat) (p : PartSet) : (s.setPart k p).disp = s.disp := rfl
@[simp] theorem State.setPart_regs (s : State) (k : Nat) (p : PartSet) : (s.setPart k p).regs = s.regs := rfl
@[simp] theorem State.setPart_revLog (s : State) (k : Nat) (p : PartSet) : (s.setPart k p).revLog = s.revLog := rfl
@[simp] theorem State.setPart_revs (s : State) (k : Nat) (p : PartSet) : (s.setPart k p).revs = s.revs := rfl
@[simp] theorem State.setPart_nextRev (s : State) (k : Nat) (p : PartSet) : (s.setPart k p).nextRev = s.nextRev := rfl
@[simp] theorem State.setPart_fabric (s : State) (k : Nat) (p : PartSet) : (s.setPart k p).fabric = s.fabric := rfl
@[simp] theorem State.setPart_gang (s : State) (k : Nat) (p : PartSet) : (s.setPart k p).gang = s.gang := rfl
@[simp] theorem State.setPart_edges (s : State) (k : Nat) (p : PartSet) : (s.setPart k p).edges = s.edges := rfl
@[simp] theorem State.setPart_nextCmd (s : State) (k : Nat) (p : PartSet) : (s.setPart k p).nextCmd = s.nextCmd := rfl
@[simp] theorem State.setPart_sectors (s : State) (k : Nat) (p : PartSet) : (s.setPart k p).sectors = s.sectors := rfl
@[simp] theorem State.setPart_boot (s : State) (k : Nat) (p : PartSet) : (s.setPart k p).boot = s.boot := rfl

/-! ### push -/

@[simp] theorem State.push_focus (s : State) (i : Instr) : (s.push i).focus = s.focus := rfl
@[simp] theorem State.push_bslot (s : State) (i : Instr) : (s.push i).bslot = s.bslot := rfl
@[simp] theorem State.push_free (s : State) (i : Instr) : (s.push i).free = s.free := rfl
@[simp] theorem State.push_module (s : State) (i : Instr) : (s.push i).module = s.module := rfl
@[simp] theorem State.push_cycle (s : State) (i : Instr) : (s.push i).cycle = s.cycle := rfl
@[simp] theorem State.push_timeNs (s : State) (i : Instr) : (s.push i).timeNs = s.timeNs := rfl
@[simp] theorem State.push_mem (s : State) (i : Instr) : (s.push i).mem = s.mem := rfl
@[simp] theorem State.push_poison (s : State) (i : Instr) : (s.push i).poison = s.poison := rfl
@[simp] theorem State.push_ctxs (s : State) (i : Instr) : (s.push i).ctxs = s.ctxs := rfl
@[simp] theorem State.push_lcs (s : State) (i : Instr) : (s.push i).lcs = s.lcs := rfl
@[simp] theorem State.push_dts (s : State) (i : Instr) : (s.push i).dts = s.dts := rfl
@[simp] theorem State.push_homes (s : State) (i : Instr) : (s.push i).homes = s.homes := rfl
@[simp] theorem State.push_disp (s : State) (i : Instr) : (s.push i).disp = s.disp := rfl
@[simp] theorem State.push_parts (s : State) (i : Instr) : (s.push i).parts = s.parts := rfl
@[simp] theorem State.push_regs (s : State) (i : Instr) : (s.push i).regs = s.regs := rfl
@[simp] theorem State.push_revLog (s : State) (i : Instr) : (s.push i).revLog = s.revLog := rfl
@[simp] theorem State.push_revs (s : State) (i : Instr) : (s.push i).revs = s.revs := rfl
@[simp] theorem State.push_nextRev (s : State) (i : Instr) : (s.push i).nextRev = s.nextRev := rfl
@[simp] theorem State.push_fabric (s : State) (i : Instr) : (s.push i).fabric = s.fabric := rfl
@[simp] theorem State.push_gang (s : State) (i : Instr) : (s.push i).gang = s.gang := rfl
@[simp] theorem State.push_edges (s : State) (i : Instr) : (s.push i).edges = s.edges := rfl
@[simp] theorem State.push_nextCmd (s : State) (i : Instr) : (s.push i).nextCmd = s.nextCmd := rfl
@[simp] theorem State.push_sectors (s : State) (i : Instr) : (s.push i).sectors = s.sectors := rfl
@[simp] theorem State.push_boot (s : State) (i : Instr) : (s.push i).boot = s.boot := rfl
@[simp] theorem State.push_agenda (s : State) (i : Instr) : (s.push i).agenda = s.agenda ++ [i] := rfl

/-! ### pushAll -/

@[simp] theorem State.pushAll_focus (s : State) (l : List Instr) : (s.pushAll l).focus = s.focus := rfl
@[simp] theorem State.pushAll_bslot (s : State) (l : List Instr) : (s.pushAll l).bslot = s.bslot := rfl
@[simp] theorem State.pushAll_free (s : State) (l : List Instr) : (s.pushAll l).free = s.free := rfl
@[simp] theorem State.pushAll_module (s : State) (l : List Instr) : (s.pushAll l).module = s.module := rfl
@[simp] theorem State.pushAll_cycle (s : State) (l : List Instr) : (s.pushAll l).cycle = s.cycle := rfl
@[simp] theorem State.pushAll_timeNs (s : State) (l : List Instr) : (s.pushAll l).timeNs = s.timeNs := rfl
@[simp] theorem State.pushAll_mem (s : State) (l : List Instr) : (s.pushAll l).mem = s.mem := rfl
@[simp] theorem State.pushAll_poison (s : State) (l : List Instr) : (s.pushAll l).poison = s.poison := rfl
@[simp] theorem State.pushAll_ctxs (s : State) (l : List Instr) : (s.pushAll l).ctxs = s.ctxs := rfl
@[simp] theorem State.pushAll_lcs (s : State) (l : List Instr) : (s.pushAll l).lcs = s.lcs := rfl
@[simp] theorem State.pushAll_dts (s : State) (l : List Instr) : (s.pushAll l).dts = s.dts := rfl
@[simp] theorem State.pushAll_homes (s : State) (l : List Instr) : (s.pushAll l).homes = s.homes := rfl
@[simp] theorem State.pushAll_disp (s : State) (l : List Instr) : (s.pushAll l).disp = s.disp := rfl
@[simp] theorem State.pushAll_parts (s : State) (l : List Instr) : (s.pushAll l).parts = s.parts := rfl
@[simp] theorem State.pushAll_regs (s : State) (l : List Instr) : (s.pushAll l).regs = s.regs := rfl
@[simp] theorem State.pushAll_revLog (s : State) (l : List Instr) : (s.pushAll l).revLog = s.revLog := rfl
@[simp] theorem State.pushAll_revs (s : State) (l : List Instr) : (s.pushAll l).revs = s.revs := rfl
@[simp] theorem State.pushAll_nextRev (s : State) (l : List Instr) : (s.pushAll l).nextRev = s.nextRev := rfl
@[simp] theorem State.pushAll_fabric (s : State) (l : List Instr) : (s.pushAll l).fabric = s.fabric := rfl
@[simp] theorem State.pushAll_gang (s : State) (l : List Instr) : (s.pushAll l).gang = s.gang := rfl
@[simp] theorem State.pushAll_edges (s : State) (l : List Instr) : (s.pushAll l).edges = s.edges := rfl
@[simp] theorem State.pushAll_nextCmd (s : State) (l : List Instr) : (s.pushAll l).nextCmd = s.nextCmd := rfl
@[simp] theorem State.pushAll_sectors (s : State) (l : List Instr) : (s.pushAll l).sectors = s.sectors := rfl
@[simp] theorem State.pushAll_boot (s : State) (l : List Instr) : (s.pushAll l).boot = s.boot := rfl
@[simp] theorem State.pushAll_agenda (s : State) (l : List Instr) : (s.pushAll l).agenda = s.agenda ++ l := rfl

/-! ### write -/

@[simp] theorem State.write_focus (s : State) (a : Nat) (l : List Byte) : (s.write a l).focus = s.focus := rfl
@[simp] theorem State.write_bslot (s : State) (a : Nat) (l : List Byte) : (s.write a l).bslot = s.bslot := rfl
@[simp] theorem State.write_agenda (s : State) (a : Nat) (l : List Byte) : (s.write a l).agenda = s.agenda := rfl
@[simp] theorem State.write_free (s : State) (a : Nat) (l : List Byte) : (s.write a l).free = s.free := rfl
@[simp] theorem State.write_module (s : State) (a : Nat) (l : List Byte) : (s.write a l).module = s.module := rfl
@[simp] theorem State.write_cycle (s : State) (a : Nat) (l : List Byte) : (s.write a l).cycle = s.cycle := rfl
@[simp] theorem State.write_timeNs (s : State) (a : Nat) (l : List Byte) : (s.write a l).timeNs = s.timeNs := rfl
@[simp] theorem State.write_ctxs (s : State) (a : Nat) (l : List Byte) : (s.write a l).ctxs = s.ctxs := rfl
@[simp] theorem State.write_lcs (s : State) (a : Nat) (l : List Byte) : (s.write a l).lcs = s.lcs := rfl
@[simp] theorem State.write_dts (s : State) (a : Nat) (l : List Byte) : (s.write a l).dts = s.dts := rfl
@[simp] theorem State.write_homes (s : State) (a : Nat) (l : List Byte) : (s.write a l).homes = s.homes := rfl
@[simp] theorem State.write_disp (s : State) (a : Nat) (l : List Byte) : (s.write a l).disp = s.disp := rfl
@[simp] theorem State.write_parts (s : State) (a : Nat) (l : List Byte) : (s.write a l).parts = s.parts := rfl
@[simp] theorem State.write_regs (s : State) (a : Nat) (l : List Byte) : (s.write a l).regs = s.regs := rfl
@[simp] theorem State.write_revLog (s : State) (a : Nat) (l : List Byte) : (s.write a l).revLog = s.revLog := rfl
@[simp] theorem State.write_revs (s : State) (a : Nat) (l : List Byte) : (s.write a l).revs = s.revs := rfl
@[simp] theorem State.write_nextRev (s : State) (a : Nat) (l : List Byte) : (s.write a l).nextRev = s.nextRev := rfl
@[simp] theorem State.write_fabric (s : State) (a : Nat) (l : List Byte) : (s.write a l).fabric = s.fabric := rfl
@[simp] theorem State.write_gang (s : State) (a : Nat) (l : List Byte) : (s.write a l).gang = s.gang := rfl
@[simp] theorem State.write_edges (s : State) (a : Nat) (l : List Byte) : (s.write a l).edges = s.edges := rfl
@[simp] theorem State.write_nextCmd (s : State) (a : Nat) (l : List Byte) : (s.write a l).nextCmd = s.nextCmd := rfl
@[simp] theorem State.write_sectors (s : State) (a : Nat) (l : List Byte) : (s.write a l).sectors = s.sectors := rfl
@[simp] theorem State.write_boot (s : State) (a : Nat) (l : List Byte) : (s.write a l).boot = s.boot := rfl
@[simp] theorem State.write_mem (s : State) (a : Nat) (l : List Byte) : (s.write a l).mem = memWrite s.mem a l := rfl

/-! ### addPoison -/

@[simp] theorem State.addPoison_focus (s : State) (a n : Nat) : (s.addPoison a n).focus = s.focus := rfl
@[simp] theorem State.addPoison_bslot (s : State) (a n : Nat) : (s.addPoison a n).bslot = s.bslot := rfl
@[simp] theorem State.addPoison_agenda (s : State) (a n : Nat) : (s.addPoison a n).agenda = s.agenda := rfl
@[simp] theorem State.addPoison_free (s : State) (a n : Nat) : (s.addPoison a n).free = s.free := rfl
@[simp] theorem State.addPoison_module (s : State) (a n : Nat) : (s.addPoison a n).module = s.module := rfl
@[simp] theorem State.addPoison_cycle (s : State) (a n : Nat) : (s.addPoison a n).cycle = s.cycle := rfl
@[simp] theorem State.addPoison_timeNs (s : State) (a n : Nat) : (s.addPoison a n).timeNs = s.timeNs := rfl
@[simp] theorem State.addPoison_mem (s : State) (a n : Nat) : (s.addPoison a n).mem = s.mem := rfl
@[simp] theorem State.addPoison_ctxs (s : State) (a n : Nat) : (s.addPoison a n).ctxs = s.ctxs := rfl
@[simp] theorem State.addPoison_lcs (s : State) (a n : Nat) : (s.addPoison a n).lcs = s.lcs := rfl
@[simp] theorem State.addPoison_dts (s : State) (a n : Nat) : (s.addPoison a n).dts = s.dts := rfl
@[simp] theorem State.addPoison_homes (s : State) (a n : Nat) : (s.addPoison a n).homes = s.homes := rfl
@[simp] theorem State.addPoison_disp (s : State) (a n : Nat) : (s.addPoison a n).disp = s.disp := rfl
@[simp] theorem State.addPoison_parts (s : State) (a n : Nat) : (s.addPoison a n).parts = s.parts := rfl
@[simp] theorem State.addPoison_regs (s : State) (a n : Nat) : (s.addPoison a n).regs = s.regs := rfl
@[simp] theorem State.addPoison_revLog (s : State) (a n : Nat) : (s.addPoison a n).revLog = s.revLog := rfl
@[simp] theorem State.addPoison_revs (s : State) (a n : Nat) : (s.addPoison a n).revs = s.revs := rfl
@[simp] theorem State.addPoison_nextRev (s : State) (a n : Nat) : (s.addPoison a n).nextRev = s.nextRev := rfl
@[simp] theorem State.addPoison_fabric (s : State) (a n : Nat) : (s.addPoison a n).fabric = s.fabric := rfl
@[simp] theorem State.addPoison_gang (s : State) (a n : Nat) : (s.addPoison a n).gang = s.gang := rfl
@[simp] theorem State.addPoison_edges (s : State) (a n : Nat) : (s.addPoison a n).edges = s.edges := rfl
@[simp] theorem State.addPoison_nextCmd (s : State) (a n : Nat) : (s.addPoison a n).nextCmd = s.nextCmd := rfl
@[simp] theorem State.addPoison_sectors (s : State) (a n : Nat) : (s.addPoison a n).sectors = s.sectors := rfl
@[simp] theorem State.addPoison_boot (s : State) (a n : Nat) : (s.addPoison a n).boot = s.boot := rfl

/-! ### What a part reads as after an update -/

@[simp] theorem State.lc_setLc (s : State) (i : Nat) (c : LCore) : (s.setLc i c).lc i = c := getAt_setAt_same _ _ _ _
theorem State.lc_setLc_ne (s : State) (i n : Nat) (c : LCore) (h : n ≠ i) : (s.setLc i c).lc n = s.lc n := getAt_setAt_ne _ _ _ _ _ h
@[simp] theorem State.lp_setLp (s : State) (i : Nat) (p : LPlane) : (s.setLp i p).lp i = p := by simp [State.lp, State.setLp]
@[simp] theorem State.dt_setDt (s : State) (j : Nat) (d : DTile) : (s.setDt j d).dt j = d := getAt_setAt_same _ _ _ _
theorem State.dt_setDt_ne (s : State) (j n : Nat) (d : DTile) (h : n ≠ j) : (s.setDt j d).dt n = s.dt n := getAt_setAt_ne _ _ _ _ _ h
@[simp] theorem State.dp_setDp (s : State) (j : Nat) (p : DPlane) : (s.setDp j p).dp j = p := by simp [State.dp, State.setDp]
@[simp] theorem State.ctx_setCtx (s : State) (a : Agent) (c : Ctx) : (s.setCtx a c).ctx a = c := getAt_setAt_same _ _ _ _
theorem State.ctx_setCtx_ne (s : State) (a b : Agent) (c : Ctx) (h : agentId b ≠ agentId a) : (s.setCtx a c).ctx b = s.ctx b :=
  getAt_setAt_ne _ _ _ _ _ h
@[simp] theorem State.cur_setCur (s : State) (c : Ctx) : (s.setCur c).cur = c := State.ctx_setCtx s s.focus c
@[simp] theorem State.setCtx_setCtx (s : State) (a : Agent) (c d : Ctx) : (s.setCtx a c).setCtx a d = s.setCtx a d := by
  simp [State.setCtx]
@[simp] theorem State.setCur_setCur (s : State) (c d : Ctx) : (s.setCur c).setCur d = s.setCur d := State.setCtx_setCtx s s.focus c d
@[simp] theorem State.setLc_setLc (s : State) (i : Nat) (c d : LCore) : (s.setLc i c).setLc i d = s.setLc i d := by simp [State.setLc]
@[simp] theorem State.setDt_setDt (s : State) (j : Nat) (c d : DTile) : (s.setDt j c).setDt j d = s.setDt j d := by simp [State.setDt]
@[simp] theorem State.part_setPart (s : State) (k : Nat) (p : PartSet) : (s.setPart k p).part k = p := getAt_setAt_same _ _ _ _
theorem State.part_setPart_ne (s : State) (k n : Nat) (p : PartSet) (h : n ≠ k) : (s.setPart k p).part n = s.part n := getAt_setAt_ne _ _ _ _ _ h

@[simp] theorem State.lc_setDt (s : State) (j : Nat) (d : DTile) (m : Nat) : (s.setDt j d).lc m = s.lc m := rfl
@[simp] theorem State.lc_setDp (s : State) (j : Nat) (p : DPlane) (m : Nat) : (s.setDp j p).lc m = s.lc m := rfl
@[simp] theorem State.lc_setCtx (s : State) (a : Agent) (c : Ctx) (m : Nat) : (s.setCtx a c).lc m = s.lc m := rfl
@[simp] theorem State.lc_setCur (s : State) (c : Ctx) (m : Nat) : (s.setCur c).lc m = s.lc m := rfl
@[simp] theorem State.lc_setPart (s : State) (k : Nat) (p : PartSet) (m : Nat) : (s.setPart k p).lc m = s.lc m := rfl
@[simp] theorem State.lc_push (s : State) (i : Instr) (m : Nat) : (s.push i).lc m = s.lc m := rfl
@[simp] theorem State.lc_pushAll (s : State) (l : List Instr) (m : Nat) : (s.pushAll l).lc m = s.lc m := rfl
@[simp] theorem State.lc_write (s : State) (a : Nat) (l : List Byte) (m : Nat) : (s.write a l).lc m = s.lc m := rfl
@[simp] theorem State.lc_addPoison (s : State) (a n : Nat) (m : Nat) : (s.addPoison a n).lc m = s.lc m := rfl
@[simp] theorem State.dt_setLc (s : State) (i : Nat) (c : LCore) (m : Nat) : (s.setLc i c).dt m = s.dt m := rfl
@[simp] theorem State.dt_setLp (s : State) (i : Nat) (p : LPlane) (m : Nat) : (s.setLp i p).dt m = s.dt m := rfl
@[simp] theorem State.dt_setCtx (s : State) (a : Agent) (c : Ctx) (m : Nat) : (s.setCtx a c).dt m = s.dt m := rfl
@[simp] theorem State.dt_setCur (s : State) (c : Ctx) (m : Nat) : (s.setCur c).dt m = s.dt m := rfl
@[simp] theorem State.dt_setPart (s : State) (k : Nat) (p : PartSet) (m : Nat) : (s.setPart k p).dt m = s.dt m := rfl
@[simp] theorem State.dt_push (s : State) (i : Instr) (m : Nat) : (s.push i).dt m = s.dt m := rfl
@[simp] theorem State.dt_pushAll (s : State) (l : List Instr) (m : Nat) : (s.pushAll l).dt m = s.dt m := rfl
@[simp] theorem State.dt_write (s : State) (a : Nat) (l : List Byte) (m : Nat) : (s.write a l).dt m = s.dt m := rfl
@[simp] theorem State.dt_addPoison (s : State) (a n : Nat) (m : Nat) : (s.addPoison a n).dt m = s.dt m := rfl
@[simp] theorem State.lp_setDt (s : State) (j : Nat) (d : DTile) (m : Nat) : (s.setDt j d).lp m = s.lp m := rfl
@[simp] theorem State.lp_setDp (s : State) (j : Nat) (p : DPlane) (m : Nat) : (s.setDp j p).lp m = s.lp m := rfl
@[simp] theorem State.lp_setCtx (s : State) (a : Agent) (c : Ctx) (m : Nat) : (s.setCtx a c).lp m = s.lp m := rfl
@[simp] theorem State.lp_setCur (s : State) (c : Ctx) (m : Nat) : (s.setCur c).lp m = s.lp m := rfl
@[simp] theorem State.lp_setPart (s : State) (k : Nat) (p : PartSet) (m : Nat) : (s.setPart k p).lp m = s.lp m := rfl
@[simp] theorem State.lp_push (s : State) (i : Instr) (m : Nat) : (s.push i).lp m = s.lp m := rfl
@[simp] theorem State.lp_pushAll (s : State) (l : List Instr) (m : Nat) : (s.pushAll l).lp m = s.lp m := rfl
@[simp] theorem State.lp_write (s : State) (a : Nat) (l : List Byte) (m : Nat) : (s.write a l).lp m = s.lp m := rfl
@[simp] theorem State.lp_addPoison (s : State) (a n : Nat) (m : Nat) : (s.addPoison a n).lp m = s.lp m := rfl
@[simp] theorem State.dp_setLc (s : State) (i : Nat) (c : LCore) (m : Nat) : (s.setLc i c).dp m = s.dp m := rfl
@[simp] theorem State.dp_setLp (s : State) (i : Nat) (p : LPlane) (m : Nat) : (s.setLp i p).dp m = s.dp m := rfl
@[simp] theorem State.dp_setCtx (s : State) (a : Agent) (c : Ctx) (m : Nat) : (s.setCtx a c).dp m = s.dp m := rfl
@[simp] theorem State.dp_setCur (s : State) (c : Ctx) (m : Nat) : (s.setCur c).dp m = s.dp m := rfl
@[simp] theorem State.dp_setPart (s : State) (k : Nat) (p : PartSet) (m : Nat) : (s.setPart k p).dp m = s.dp m := rfl
@[simp] theorem State.dp_push (s : State) (i : Instr) (m : Nat) : (s.push i).dp m = s.dp m := rfl
@[simp] theorem State.dp_pushAll (s : State) (l : List Instr) (m : Nat) : (s.pushAll l).dp m = s.dp m := rfl
@[simp] theorem State.dp_write (s : State) (a : Nat) (l : List Byte) (m : Nat) : (s.write a l).dp m = s.dp m := rfl
@[simp] theorem State.dp_addPoison (s : State) (a n : Nat) (m : Nat) : (s.addPoison a n).dp m = s.dp m := rfl
@[simp] theorem State.ctx_setLc (s : State) (i : Nat) (c : LCore) (b : Agent) : (s.setLc i c).ctx b = s.ctx b := rfl
@[simp] theorem State.ctx_setDt (s : State) (j : Nat) (d : DTile) (b : Agent) : (s.setDt j d).ctx b = s.ctx b := rfl
@[simp] theorem State.ctx_setLp (s : State) (i : Nat) (p : LPlane) (b : Agent) : (s.setLp i p).ctx b = s.ctx b := rfl
@[simp] theorem State.ctx_setDp (s : State) (j : Nat) (p : DPlane) (b : Agent) : (s.setDp j p).ctx b = s.ctx b := rfl
@[simp] theorem State.ctx_setPart (s : State) (k : Nat) (p : PartSet) (b : Agent) : (s.setPart k p).ctx b = s.ctx b := rfl
@[simp] theorem State.ctx_push (s : State) (i : Instr) (b : Agent) : (s.push i).ctx b = s.ctx b := rfl
@[simp] theorem State.ctx_pushAll (s : State) (l : List Instr) (b : Agent) : (s.pushAll l).ctx b = s.ctx b := rfl
@[simp] theorem State.ctx_write (s : State) (a : Nat) (l : List Byte) (b : Agent) : (s.write a l).ctx b = s.ctx b := rfl
@[simp] theorem State.ctx_addPoison (s : State) (a n : Nat) (b : Agent) : (s.addPoison a n).ctx b = s.ctx b := rfl
@[simp] theorem State.part_setLc (s : State) (i : Nat) (c : LCore) (m : Nat) : (s.setLc i c).part m = s.part m := rfl
@[simp] theorem State.part_setDt (s : State) (j : Nat) (d : DTile) (m : Nat) : (s.setDt j d).part m = s.part m := rfl
@[simp] theorem State.part_setLp (s : State) (i : Nat) (p : LPlane) (m : Nat) : (s.setLp i p).part m = s.part m := rfl
@[simp] theorem State.part_setDp (s : State) (j : Nat) (p : DPlane) (m : Nat) : (s.setDp j p).part m = s.part m := rfl
@[simp] theorem State.part_setCtx (s : State) (a : Agent) (c : Ctx) (m : Nat) : (s.setCtx a c).part m = s.part m := rfl
@[simp] theorem State.part_setCur (s : State) (c : Ctx) (m : Nat) : (s.setCur c).part m = s.part m := rfl
@[simp] theorem State.part_push (s : State) (i : Instr) (m : Nat) : (s.push i).part m = s.part m := rfl
@[simp] theorem State.part_pushAll (s : State) (l : List Instr) (m : Nat) : (s.pushAll l).part m = s.part m := rfl
@[simp] theorem State.part_write (s : State) (a : Nat) (l : List Byte) (m : Nat) : (s.write a l).part m = s.part m := rfl
@[simp] theorem State.part_addPoison (s : State) (a n : Nat) (m : Nat) : (s.addPoison a n).part m = s.part m := rfl
@[simp] theorem State.cur_setLc (s : State) (i : Nat) (c : LCore) : (s.setLc i c).cur = s.cur := rfl
@[simp] theorem State.cur_setDt (s : State) (j : Nat) (d : DTile) : (s.setDt j d).cur = s.cur := rfl
@[simp] theorem State.cur_setLp (s : State) (i : Nat) (p : LPlane) : (s.setLp i p).cur = s.cur := rfl
@[simp] theorem State.cur_setDp (s : State) (j : Nat) (p : DPlane) : (s.setDp j p).cur = s.cur := rfl
@[simp] theorem State.cur_setPart (s : State) (k : Nat) (p : PartSet) : (s.setPart k p).cur = s.cur := rfl
@[simp] theorem State.cur_push (s : State) (i : Instr) : (s.push i).cur = s.cur := rfl
@[simp] theorem State.cur_pushAll (s : State) (l : List Instr) : (s.pushAll l).cur = s.cur := rfl
@[simp] theorem State.cur_write (s : State) (a : Nat) (l : List Byte) : (s.write a l).cur = s.cur := rfl
@[simp] theorem State.cur_addPoison (s : State) (a n : Nat) : (s.addPoison a n).cur = s.cur := rfl

/-! ### Registers of a context -/

@[simp] theorem Ctx.readX_zero (c : Ctx) : c.readX 0#5 = 0#64 := rfl
@[simp] theorem Ctx.writeX_zero (c : Ctx) (v : BitVec 64) : c.writeX 0#5 v = c := rfl

/-- A scalar register after a write: x0 reads 0, the destination the value, every other register as before (R227). -/
theorem Ctx.readX_writeX (c : Ctx) (d r : BitVec 5) (v : BitVec 64) :
    (c.writeX d v).readX r = if r = 0#5 then 0#64 else if r = d then v else c.readX r := by
  unfold Ctx.readX Ctx.writeX
  by_cases hr : r = 0#5
  · simp [hr]
  · by_cases hd : d = 0#5
    · have : r ≠ d := by rw [hd]; exact hr
      simp [hr, hd]
    · simp only [hr, hd, if_false]
      by_cases h : r = d
      · subst h
        simp only [if_true]
        exact Vector.getElem_set_self r.isLt
      · have : d.toNat ≠ r.toNat := fun e => h (BitVec.eq_of_toNat_eq e.symm)
        simp only [h, if_false]
        exact Vector.getElem_set_ne d.isLt r.isLt this

@[simp] theorem Ctx.writeX_pc (c : Ctx) (d : BitVec 5) (v : BitVec 64) : (c.writeX d v).pc = c.pc := by unfold Ctx.writeX; split <;> rfl
@[simp] theorem Ctx.writeX_sup (c : Ctx) (d : BitVec 5) (v : BitVec 64) : (c.writeX d v).sup = c.sup := by unfold Ctx.writeX; split <;> rfl
@[simp] theorem Ctx.writeX_v (c : Ctx) (d : BitVec 5) (v : BitVec 64) : (c.writeX d v).v = c.v := by unfold Ctx.writeX; split <;> rfl
@[simp] theorem Ctx.writeX_k (c : Ctx) (d : BitVec 5) (v : BitVec 64) : (c.writeX d v).k = c.k := by unfold Ctx.writeX; split <;> rfl
@[simp] theorem Ctx.writeX_h (c : Ctx) (d : BitVec 5) (v : BitVec 64) : (c.writeX d v).h = c.h := by unfold Ctx.writeX; split <;> rfl
@[simp] theorem Ctx.writeX_loops (c : Ctx) (d : BitVec 5) (v : BitVec 64) : (c.writeX d v).loops = c.loops := by unfold Ctx.writeX; split <;> rfl
@[simp] theorem Ctx.writeX_mflags (c : Ctx) (d : BitVec 5) (v : BitVec 64) : (c.writeX d v).mflags = c.mflags := by unfold Ctx.writeX; split <;> rfl
@[simp] theorem Ctx.writeX_ascope (c : Ctx) (d : BitVec 5) (v : BitVec 64) : (c.writeX d v).ascope = c.ascope := by unfold Ctx.writeX; split <;> rfl
@[simp] theorem Ctx.writeX_cbko (c : Ctx) (d : BitVec 5) (v : BitVec 64) : (c.writeX d v).cbko = c.cbko := by unfold Ctx.writeX; split <;> rfl
@[simp] theorem Ctx.writeX_src (c : Ctx) (d : BitVec 5) (v : BitVec 64) : (c.writeX d v).src = c.src := by unfold Ctx.writeX; split <;> rfl
@[simp] theorem Ctx.writeX_seed (c : Ctx) (d : BitVec 5) (v : BitVec 64) : (c.writeX d v).seed = c.seed := by unfold Ctx.writeX; split <;> rfl
@[simp] theorem Ctx.writeX_vlen (c : Ctx) (d : BitVec 5) (v : BitVec 64) : (c.writeX d v).vlen = c.vlen := by unfold Ctx.writeX; split <;> rfl
@[simp] theorem Ctx.writeX_cause (c : Ctx) (d : BitVec 5) (v : BitVec 64) : (c.writeX d v).cause = c.cause := by unfold Ctx.writeX; split <;> rfl
@[simp] theorem Ctx.writeX_epc (c : Ctx) (d : BitVec 5) (v : BitVec 64) : (c.writeX d v).epc = c.epc := by unfold Ctx.writeX; split <;> rfl
@[simp] theorem Ctx.writeX_tval (c : Ctx) (d : BitVec 5) (v : BitVec 64) : (c.writeX d v).tval = c.tval := by unfold Ctx.writeX; split <;> rfl
@[simp] theorem Ctx.writeX_journal (c : Ctx) (d : BitVec 5) (v : BitVec 64) : (c.writeX d v).journal = c.journal := by unfold Ctx.writeX; split <;> rfl
@[simp] theorem Ctx.writeX_wait (c : Ctx) (d : BitVec 5) (v : BitVec 64) : (c.writeX d v).wait = c.wait := by unfold Ctx.writeX; split <;> rfl
@[simp] theorem Ctx.writeX_locks (c : Ctx) (d : BitVec 5) (v : BitVec 64) : (c.writeX d v).locks = c.locks := by unfold Ctx.writeX; split <;> rfl
@[simp] theorem Ctx.writeX_table (c : Ctx) (d : BitVec 5) (v : BitVec 64) : (c.writeX d v).table = c.table := by unfold Ctx.writeX; split <;> rfl
@[simp] theorem Ctx.advance_sup (c : Ctx) (u : BitVec 48) : (c.advance u).sup = c.sup := rfl
@[simp] theorem Ctx.advance_x (c : Ctx) (u : BitVec 48) : (c.advance u).x = c.x := rfl
@[simp] theorem Ctx.advance_v (c : Ctx) (u : BitVec 48) : (c.advance u).v = c.v := rfl
@[simp] theorem Ctx.advance_k (c : Ctx) (u : BitVec 48) : (c.advance u).k = c.k := rfl
@[simp] theorem Ctx.advance_h (c : Ctx) (u : BitVec 48) : (c.advance u).h = c.h := rfl
@[simp] theorem Ctx.advance_mflags (c : Ctx) (u : BitVec 48) : (c.advance u).mflags = c.mflags := rfl
@[simp] theorem Ctx.advance_ascope (c : Ctx) (u : BitVec 48) : (c.advance u).ascope = c.ascope := rfl
@[simp] theorem Ctx.advance_cbko (c : Ctx) (u : BitVec 48) : (c.advance u).cbko = c.cbko := rfl
@[simp] theorem Ctx.advance_src (c : Ctx) (u : BitVec 48) : (c.advance u).src = c.src := rfl
@[simp] theorem Ctx.advance_seed (c : Ctx) (u : BitVec 48) : (c.advance u).seed = c.seed := rfl
@[simp] theorem Ctx.advance_vlen (c : Ctx) (u : BitVec 48) : (c.advance u).vlen = c.vlen := rfl
@[simp] theorem Ctx.advance_cause (c : Ctx) (u : BitVec 48) : (c.advance u).cause = c.cause := rfl
@[simp] theorem Ctx.advance_epc (c : Ctx) (u : BitVec 48) : (c.advance u).epc = c.epc := rfl
@[simp] theorem Ctx.advance_tval (c : Ctx) (u : BitVec 48) : (c.advance u).tval = c.tval := rfl
@[simp] theorem Ctx.advance_journal (c : Ctx) (u : BitVec 48) : (c.advance u).journal = c.journal := rfl
@[simp] theorem Ctx.advance_wait (c : Ctx) (u : BitVec 48) : (c.advance u).wait = c.wait := rfl
@[simp] theorem Ctx.advance_locks (c : Ctx) (u : BitVec 48) : (c.advance u).locks = c.locks := rfl
@[simp] theorem Ctx.advance_table (c : Ctx) (u : BitVec 48) : (c.advance u).table = c.table := rfl
@[simp] theorem Ctx.advance_pc (c : Ctx) (u : BitVec 48) : (c.advance u).pc = (loopEnd c.pc u c.loops).1 := rfl
@[simp] theorem Ctx.advance_loops (c : Ctx) (u : BitVec 48) : (c.advance u).loops = (loopEnd c.pc u c.loops).2 := rfl
@[simp] theorem Ctx.readX_advance (c : Ctx) (u : BitVec 48) (r : BitVec 5) : (c.advance u).readX r = c.readX r := rfl

end Sys2Proof.Machine
end

