-- ==== Sys2Proof/Tests/Slice0.lean ====
section
/-! SUPPORT. Tests on fixed values: words that the manual writes out, terms that each well-formedness check refuses, single instructions,
and for each statement with hypotheses a state that meets them. -/

open Sys2Proof Sys2Proof.Machine

namespace Sys2Proof.Tests

-- One theorem after the other: their kernel evaluations would else each hold a thread.
set_option Elab.async false

/-! ### Words of the manual -/

theorem ok_of {α : Type} [DecidableEq α] (e : Except DecodeError α) (i : α)
    (h : (match e with | .ok j => decide (j = i) | .error _ => false) = true) : e = .ok i := by
  cases e <;> simp_all

theorem test_addi : decode .lookup 0 false 0x03080005#32 = .ok (.addi 1#5 0#5 5#14) := ok_of _ _ (by decide +kernel)
theorem test_cmpi_ltu : decode .lookup 0 false 0x0F20A064#32 = .ok (.cmpi 4#5 2#5 4#3 100#11) := ok_of _ _ (by decide +kernel)
theorem test_lexit : decode .lookup 0 false 0x1C010001#32 = .ok (.lexit 4#5 1#3) := ok_of _ _ (by decide +kernel)
theorem test_jmpr : decode .lookup 0 false 0x1A07C000#32 = .ok (.jmpr 0#5 31#5) := ok_of _ _ (by decide +kernel)
theorem test_wpb : decode .lookup 0 false 0x39500000#32 = .ok (.wpb 10#5) := ok_of _ _ (by decide +kernel)
theorem test_lsort : decode .lookup 0 false 0x4D110601#32 = .ok (.lsort 2#5 4#5 3#5 1#1) := ok_of _ _ (by decide +kernel)
theorem test_vpack : decode .lookup 0 false 0x7B1A0A0C#32 = .ok (.vpack 3#5 8#5 5#5 0#3 1#2 4#3) := ok_of _ _ (by decide +kernel)
theorem test_mzero : decode .dense 2 false 0x87080000#32 = .ok (.mzero 1#2) := ok_of _ _ (by decide +kernel)
theorem test_cpl : decode .lookup 0 false 0xA0498002#32 = .ok (.cpl 9#5 6#5 2#14) := ok_of _ _ (by decide +kernel)
theorem test_gang : decode .lookup 0 true 0xD1298000#32 = .ok (.gang 5#5 6#5) := ok_of _ _ (by decide +kernel)
theorem test_gang_user : decode .lookup 0 false 0xD1298000#32 = .error ⟨0x03, 0x00⟩ := rfl
theorem test_table_word : decodeTableWord 32 0x0F20A064 = some (.cmpi 4#5 2#5 4#3 100#11) := by decide +kernel
theorem test_all_ones : decodeTableWord 32 0xFFFFFFFF = none := by decide +kernel

/-! ### Terms that the well-formedness checks refuse -/

theorem test_wf_codes : (Instr.logi 0 0 7 0).wf = false ∧ (Instr.cmp 0 0 0 6).wf = false ∧ (Instr.cmpi 0 0 7 0).wf = false ∧ (Instr.sel 0 0 0 6 0).wf = false ∧
    (Instr.bitc 0 0 0 3).wf = false ∧ (Instr.extr 0 0 0 60 4).wf = false ∧ (Instr.insr 0 0 63 1).wf = false ∧ (Instr.lih 0 4 0).wf = false := by decide
theorem test_wf_control : (Instr.br 7 0 0).wf = false ∧ (Instr.br 6 1 0).wf = false ∧ (Instr.loop 0 0).wf = false ∧ (Instr.lexit 0 6).wf = false ∧
    (Instr.lidx 0 6).wf = false := by decide
theorem test_wf_memory : (Instr.ld 0 0 0 7 0 0).wf = false ∧ (Instr.ld 0 0 0 0 2 0).wf = false ∧ (Instr.st 0 0 0 4 0 0).wf = false ∧ (Instr.stv 0 0 0 1 0).wf = false ∧
    (Instr.ldv 0 0 0 3 0).wf = false ∧ (Instr.hop 0 0 3).wf = false ∧ (Instr.amo 0 0 0 0 1 0 0).wf = false ∧ (Instr.radd 0 0 0 3 0).wf = false ∧
    (Instr.raddTable 0 0 0 3 0).wf = false ∧ (Instr.rst 0 0 0 0 1 0).wf = false ∧ (Instr.rld 0 0 0 0 0 0).wf = false ∧ (Instr.rldMigrate 0 0 7 0).wf = false ∧
    (Instr.fence 32 0).wf = false := by decide
theorem test_wf_lists : (Instr.lred 0 0 0 0 4).wf = false ∧ (Instr.lexp 0 0 0 1).wf = false ∧ (Instr.lmrg 0 0 0 3).wf = false := by decide
theorem test_wf_vectors : (Instr.vadd 0 0 0 7 0 0).wf = false ∧ (Instr.vadd 0 0 0 1 0 3).wf = false ∧ (Instr.vmin 0 0 0 4 0 1).wf = false ∧ (Instr.vneg 0 0 1 0 4).wf = false ∧
    (Instr.vcmp 0 0 0 1 0 6).wf = false ∧ (Instr.vsel 0 0 0 1 0).wf = false ∧ (Instr.vand 0 0 0 7 0).wf = false ∧ (Instr.vcvt 0 0 0 0 0 5).wf = false ∧
    (Instr.vred 0 0 3 1 0 0).wf = false ∧ (Instr.vred 0 0 4 4 0 0).wf = false ∧ (Instr.vexp2 0 0 4 0 1).wf = false ∧ (Instr.vcnt 0 0 1 0 3).wf = false ∧
    (Instr.vpack 0 0 0 5 0 0).wf = false ∧ (Instr.vunpk 0 0 0 0 3 0).wf = false ∧ (Instr.vkop 0 0 0 7).wf = false ∧ (Instr.vsetl 0 0 7).wf = false := by decide
theorem test_wf_rest : (Instr.mst 0 0 0 5 8).wf = false ∧ (Instr.mld 0 0 0 11).wf = false ∧ (Instr.cwait 33).wf = false ∧ (Instr.ccan 1 1).wf = false ∧
    (Instr.evsel 0 0 12).wf = false := by decide
theorem test_wf_units : (Instr.slotGrant 512).wf = false ∧ (Instr.bindRecord 2).wf = false ∧ (Instr.refusalTaken (.thread 0 16)).wf = false ∧
    (Instr.trapDrain 64).wf = false ∧ (Instr.laneFailure 16 0).wf = false ∧ (Instr.sweepMarker 0 0 6).wf = false ∧ (Instr.launchPortRecord 256 0 true).wf = false ∧
    (Instr.coreFence (.dt 64) 0).wf = false ∧ (Instr.l1Eviction 0 256 0).wf = false ∧ (Instr.repartition 0 19).wf = false := by decide
theorem test_regs : (Instr.vadd 16 0 0 1 0 0).regsOk .lookup = false ∧ (Instr.mspec 0 1 0).regsOk .dense = false ∧ (Instr.lpart 0 0 30).regsOk .lookup = false ∧
    (Instr.vadd 16 0 0 1 0 0).regsOk .dense = true := by decide

/-! ### Single instructions -/

/-- Thread 0 of core 0 with x1, x2 and h1. -/
def thr (a b : BitVec 64) (h : BitVec 128) : State :=
  { State.reset with
    ctxs := [(0, { Ctx.reset with
      x := (Ctx.reset.x.set 1 a).set 2 b
      h := Ctx.reset.h.set 1 h })]
    lcs := [(0, { LCore.reset with plane := { LPlane.reset with banks := 16 } })] }

/-- The handle of the first 16 KiB of core 0's scratchpad, with every right. -/
def padH : BitVec 128 := mkHandle false false 7 true 14 0 (4 * 2 ^ 48)

/-- The scalar register of the outcome's next state. -/
def xOf (r : BitVec 5) (o : Host.Outcome State Fault Refusal) : Option (BitVec 64) :=
  match o with
  | .next t => some (t.x r)
  | _ => none

/-- R246's examples. -/
theorem test_div : xOf 3 (exec (.div 3 1 2 0) (thr 0xFFFFFFFFFFFFFFF9#64 2#64 0)) = some 0xFFFFFFFFFFFFFFFD#64 := by decide +kernel
theorem test_rem : xOf 3 (exec (.rem 3 1 2 0) (thr 0xFFFFFFFFFFFFFFF9#64 2#64 0)) = some 0xFFFFFFFFFFFFFFFF#64 := by decide +kernel
theorem test_div_min : xOf 3 (exec (.div 3 1 2 0) (thr 0x8000000000000000#64 0xFFFFFFFFFFFFFFFF#64 0)) = some 0x8000000000000000#64 := by decide +kernel
theorem test_rem_zero : xOf 3 (exec (.rem 3 1 2 1) (thr 100#64 0#64 0)) = some 100#64 := by decide +kernel
/-- R249: the immediate -1 compared without sign is all ones. -/
theorem test_cmpi : xOf 3 (exec (.cmpi 3 1 4 0x7FF#11) (thr 5#64 0 0)) = some 1#64 := by decide +kernel
/-- R263: a store is read back by a load, sign extended from its width. -/
theorem test_store_load : (match exec (.st 2 1 1 0 0 0) (thr 64#64 0x80#64 padH) with
    | .next t => xOf 3 (exec (.ld 3 1 1 0 0 0) t)
    | _ => none) = some 0xFFFFFFFFFFFFFF80#64 := by decide +kernel


/-! ### States that meet the hypotheses of the statements -/

/-- Whether an outcome is a next state. -/
def goesOn (o : Host.Outcome State Fault Refusal) : Bool :=
  match o with
  | .next _ => true
  | _ => false

theorem witness_DecodeEncode : let i := Instr.vadd 3 4 5 1 0 1
    i.wf = true ∧ i.regsOk .dense = true ∧ i.needsSupervisor = false ∧ 0x60190A41#32 ∈ encode i ∧ engineOf 0x60190A41#32 ≠ 2 ∧
    slotOf (engineOf 0x60190A41#32) = 1 ∧ classMark (topOf 0x60190A41#32) = none := by decide +kernel
theorem witness_DecodeChecks : engineOf 0xE0000000#32 = 7 ∧ engineOf 0x87080000#32 = 4 ∧ engineOf 0x4D110601#32 = 2 ∧ slotOf (engineOf 0x60190A41#32) ≠ 2 ∧
    bundleError false [0#32, 0x60190A41#32, 0x87080000#32, 0xFFFFFFFF#32] = some (3, ⟨0x01, 0x00⟩) := by decide +kernel

/-- ADDI x1, x0, 5 where the next step fetches it. -/
def sAddi : State := State.reset.withFetchWord 32 0x03080005

theorem witness_ThreadRunsDecoded : sAddi.agenda = [] ∧ sAddi.focus = .thread 0 0 ∧ (∃ sl, sAddi.slot 0 0 = some sl ∧ sl.state = .running ∧ sl.since ≤ sAddi.cycle) ∧
    sAddi.idleCore (.lc 0) = false ∧ sAddi.cur.wait = .none ∧ sAddi.partner sAddi.focus = none ∧ sAddi.cur.refusals = [] ∧
    sAddi.fetch sAddi.focus sAddi.cur.pc = .bytes [0x05#8, 0#8, 0x08#8, 0x03#8] := by
  refine ⟨by decide +kernel, by decide +kernel, ⟨_, rfl, by decide +kernel, by decide +kernel⟩, ?_⟩
  decide +kernel
theorem test_step_addi : (match step sAddi with
    | .next t => decide ((t.ctx (.thread 0 0)).x.get 1 = 5#64)
    | _ => false) = true := by decide +kernel

/-- MZERO a1 in a bundle where the next step fetches it. -/
def sMzero : State := State.reset.withFetchWord 32 0x87080000

theorem witness_BundleRunsDecoded : sMzero.agenda = [] ∧ sMzero.focus = .bank 0 0 ∧ (sMzero.dp 0).active = 0 ∧ (sMzero.bankInfo 0 0).isSome = true ∧
    sMzero.idleCore (.dt 0) = false ∧ sMzero.groupHolds 0 = false ∧ (sMzero.dp 0).lates = [] ∧ sMzero.cur.refusals = [] ∧
    (let s1 := (sMzero.land 0 (sMzero.dp 0).vcc).endMsq 0
     s1.cur.wait = .none ∧ (s1.dp 0).again = [] ∧ let bs : List Byte := List.replicate 8 0#8 ++ [0#8, 0#8, 0x08#8, 0x87#8] ++ List.replicate 4 0#8
     s1.fetch (.bank 0 0) (s1.ctx (.bank 0 0)).pc = .bytes bs ∧ bundleError (s1.ctx (.bank 0 0)).sup (wordsOf bs) = none) := by
  refine ⟨by decide +kernel, by decide +kernel, by decide +kernel, by decide +kernel, by decide +kernel, by decide +kernel, by decide +kernel, by decide +kernel, ?_⟩
  decide +kernel
theorem witness_runSlots : ∃ x, exec .nop { sMzero with bslot := 3 } = .next x ∧ x.focus = .bank 0 0 ∧ (x.bankInfo 0 0).isSome = true :=
  ⟨_, rfl, by decide +kernel, by decide +kernel⟩

theorem witness_UnitStepRuns : comesFirst (.timerExpiry (.lc 0) 0) = true ∧ comesFirst (.ageTick 0) = false := by decide
theorem witness_TurnsStayInRotation : State.reset.turnOk ∧ goesOn (step sAddi) = true := by
  refine ⟨by unfold State.turnOk; decide, by decide +kernel⟩
theorem witness_ScalarResult : (thr 0 0 0).focus = .thread 0 0 ∧ sMzero.focus = .bank 0 0 ∧ (thr 0 0 0).cur.loops = [] := by decide +kernel
theorem witness_ScalarFrame : scalarDest (.add 3 1 2 0) = some 3 ∧ (thr 1 2 0).focus = .thread 0 0 ∧ goesOn (exec (.add 3 1 2 0) (thr 1 2 0)) = true := by
  decide +kernel
theorem witness_Transfers : (thr 8 6 0).focus = .thread 0 0 ∧ ((thr 8 6 0).x 1).toNat % 4 = 0 ∧ ((thr 8 6 0).x 2).toNat % 4 ≠ 0 := by decide +kernel
theorem witness_Loops : let s := (thr 3 0 0).setCur { (thr 3 0 0).cur with loops := List.replicate 6 ⟨2, 0, 0, 8⟩ }
    s.focus = .thread 0 0 ∧ s.x 1 ≠ 0#64 ∧ s.x 2 = 0#64 ∧ 6 ≤ s.cur.loops.length ∧ s.cur.loops[5]? = some ⟨2, 0, 0, 8⟩ ∧ (thr 3 0 0).cur.loops.length < 6 := by
  decide +kernel
theorem witness_Vectors : isFloatType 1 = false ∧ isFloatType 4 = true ∧ ((thr 0 0 0).x 2).toNat < laneCount (vectorBytes (thr 0 0 0).focus) (elemBits 1) ∧
    laneCount (vectorBytes (thr 64 0 0).focus) (elemBits 1) ≤ ((thr 64 0 0).x 1).toNat ∧ ((thr 64 0 0).focus) = .thread 0 0 := by decide +kernel
theorem witness_VectorConversions : cvtFmt 8 ≠ none ∧ (packPair (thr 0 0 0).focus 0 && (0#5).getLsbD 0) = false ∧
    packPair (thr 0 0 0).focus 1 = false := by decide +kernel
theorem witness_LaneResults : (thr 0 0 0).focus = .thread 0 0 ∧ ([(0, ({ code := 1 } : Res)), (15, { code := 2 })].map (·.1)).Nodup ∧
    (∀ r ∈ [(0, ({ code := 1 } : Res)), (15, { code := 2 })], r.1 < 512 / 4 ∧ r.2.nan = false) := by decide +kernel

/-- A state whose x1 is an offset and h1 the scratchpad's handle. -/
def sPad : State := thr 64 8 padH

theorem witness_OwnLoads : sPad.focus = .thread 0 0 ∧ acquires 0 = false ∧
    checkHandle sPad.cur.sup (sPad.h 1) (sPad.mOffset 1 0 8).toNat 8 8 .load true = none ∧
    sPad.siteOf (.lc 0) (canon (hBase (sPad.h 1) + (sPad.mOffset 1 0 8).toNat)) = .own 64 ∧ sPad.ownOk (.lc 0) 64 8 = true ∧
    sPad.poisoned (canon (hBase (sPad.h 1) + 64)) 64 = false ∧ checkHandle sPad.cur.sup (sPad.h 1) 64 64 64 .load true = none ∧ sPad.ownOk (.lc 0) 64 64 = true := by
  decide +kernel
theorem witness_OwnStores : releases 0 = false ∧ Memory.wf sPad.mem = true ∧ checkHandle sPad.cur.sup (sPad.h 1) (sPad.mOffset 1 0 8).toNat 8 8 .store true = none ∧
    checkHandle sPad.cur.sup (sPad.h 1) (sPad.mOffset 1 0 64).toNat 64 64 .store true = none := by decide +kernel
theorem witness_HandleTraps : checkHandle false 0 0 8 8 .load true = some 0x04 ∧ checkHandle false padH 0x4000 8 8 .load true = some 0x05 ∧
    checkHandle false (mkHandle false false 0 true 14 0 0) 0 8 8 .load true = some 0x06 ∧ checkHandle false padH 4 8 8 .load true = some 0x07 ∧
    checkHandle false (mkHandle true false 7 true 14 0 0) 0 8 8 .load true = some 0x0E ∧
    checkHandle false (mkHandle false false 7 true 14 0 (6 * 2 ^ 48)) 0 8 8 .load true = some 0x03 := by decide +kernel
theorem witness_StridedAccess : let on := sPad.activeLanes 0 (8 * 4)
    on ≠ [] ∧ (sPad.x 1).toNat % 4 = 0 ∧ (sPad.x 2).toInt % 4 = 0 ∧ (∀ i ∈ on, (0 : Int) ≤ (sPad.x 1).toNat + i * (sPad.x 2).toInt ∧
      ((sPad.x 1).toNat : Int) + i * (sPad.x 2).toInt + 4 ≤ hLimit (sPad.h 1) + 1) ∧
    (∀ i ∈ on, sPad.ownOk (.lc 0) (64 + i * 8) 4 = true ∧ sPad.siteOf (.lc 0) (canon (hBase (sPad.h 1) + (64 + i * 8))) = .own (64 + i * 8)) ∧
    hV (sPad.h 1) = true ∧ hS (sPad.h 1) = false ∧ hD (sPad.h 1) = false ∧ hR (sPad.h 1) = true ∧ hW (sPad.h 1) = true := by decide +kernel


/-- `sPad` with a page table installed and one translation held. -/
def sTrns : State :=
  { sPad.setPart 0 { PartSet.reset with ptroot := BitVec.ofNat 64 (2 ^ 63) } with lcs := [(0, { sPad.lc 0 with trans := [⟨0, 14, 14, 0, 7#64⟩] })] }

theorem witness_Handles : (match sTrns.translate (.lc 0) sTrns.curKey false 8#64 with
      | .hit _ lg => decide (lg = 14)
      | _ => false) = true ∧ (match sPad.translate (.lc 0) sPad.curKey sPad.cur.sup 8#64 with
      | .fault _ => true
      | _ => false) = true ∧ (sPad.setCur { sPad.cur with wait := .completion 0x26 }).cur.wait = .completion 0x26 ∧
    (match sAddi.translate (.lc 0) sAddi.curKey false 0#64 with
      | .walked _ _ => true
      | _ => false) = true ∧ sAddi.revLog = [] ∧
    (sPad.x 1).toNat % 2 ^ 6 = 0 ∧ spaceOf (sPad.x 1).toNat ≠ 4 ∧ (∃ lim, spaceLimit (spaceOf (sPad.x 1).toNat) = some lim ∧ offsetOf (sPad.x 1).toNat + 2 ^ 6 ≤ lim) := by
  refine ⟨by decide +kernel, by decide +kernel, by decide +kernel, by decide +kernel, by decide +kernel, by decide +kernel, by decide +kernel, _, rfl, by decide +kernel⟩

/-- A state whose x1 is an offset and h1 the handle of the module's first 16 KiB of vault memory or of space `k`. -/
def sVault (k : Nat) : State := thr 64 8 (mkHandle false false 7 true 14 0 (k * 2 ^ 48))

theorem witness_SentOperations : let s := sVault 0
    (s.lp 0).sbuf = [] ∧ releases 0 = false ∧ checkHandle s.cur.sup (s.h 1) (s.x 1).toNat 8 8 .amor true = none ∧
    (let pa := canon (hBase (s.h 1) + (s.x 1).toNat)
     moduleOf pa = s.module ∧ spaceOf pa ≠ 4 ∧ spaceOf pa ≠ 6 ∧ l1Find (s.lp 0) (pa / 64) = none) ∧
    checkHandle s.cur.sup (s.h 1) (s.x 1).toNat 8 8 .acc true = none ∧ journalFull s.cur = false ∧ (nextEntry s.cur).isSome = true ∧
    (let u := (sVault 3).setCur { (sVault 3).cur with ascope := 1#64 }
     u.wideScope u.focus = false ∧ spaceOf (hBase (u.h 1) + (u.x 1).toNat) = 3 ∧ checkHandle u.cur.sup (u.h 1) (u.x 1).toNat 16 16 .store true = none) ∧
    s.activeLanes 0 32 ≠ [0] ∧ (s.setCur { s.cur with vlen := 4#64 }).activeLanes 0 32 = [0] := by decide +kernel


theorem witness_FencesAndRevocations : sPad.resolveScope sPad.focus 1 = some 1 ∧ (1#8).getLsbD 2 = false ∧ (1#8).getLsbD 3 = false ∧ (sPad.lp 0).sbuf = [] ∧
    sPad.resolveScope sPad.focus 4 = some 4 ∧ sPad.x 3 = 0#64 ∧ sPad.x 1 ≠ 0#64 ∧ (sPad.x 3).toNat % 65536 = 0 := by decide +kernel
theorem witness_MilestoneWords : let pa := hBase (sPad.h 1) + (sPad.x 1).toNat
    sPad.siteOf (.lc 0) pa = .own 64 ∧ sPad.ownOk (.lc 0) 64 16 = true ∧ spaceOf pa = 4 ∧ moduleOf pa = sPad.module ∧ sPad.wordReport pa = none ∧
    checkHandle sPad.cur.sup (sPad.h 1) (sPad.x 1).toNat 16 16 .store true = none ∧ ((sPad.milestone pa).arm 8 true).isSome = true ∧
    checkHandle sPad.cur.sup (sPad.h 1) (sPad.x 1).toNat 16 16 .load true = none ∧ sPad.poisoned pa 16 = false ∧
    reaches (sPad.milestone pa).gen 0 = true ∧ reaches (sPad.milestone pa).gen 1 = false ∧ sPad.cur.sealedBatches = [] ∧
    sPad.batch sPad.focus sPad.cur.openBatch = none ∧ Memory.wf sPad.mem = true := by decide +kernel

/-- A thread under a waypoint that was opened with x1 = 8 and its destination x4. -/
def sWay : State := match exec (.wpb 4) (thr 8 0 0) with
  | .next u => u
  | _ => State.reset

theorem witness_Waypoints : (thr 8 0 0).cur.wayOpen = false ∧ sWay.cur.wayOpen = true ∧ sWay.cur.journal = [] ∧ (sWay.lp 0).sbuf = [] ∧
    sWay.partner sWay.focus = none ∧ sWay.cur.checkpoint.isSome = true ∧ sWay.cur.committing = false ∧
    (sWay.setCur { sWay.cur with ascope := 1#64 }).wideScope sWay.focus = false ∧
    (sWay.setCur { sWay.cur with journal := [(0, { addr := 0, top := 0x2D, handle := 1, ofs := 0, parts := 1, held := true })] }).cur.journal.any (fun e => e.2.held) = true := by decide +kernel

/-- `sVault 0` with its line 1 in the L1, whose first byte a store has made newer. -/
def sLine : State := (sVault 0).setLp 0 { (sVault 0).lp 0 with l1 := [⟨0, 1, 1#64, 1#64, 1#16, 0, 0x55#512, false, false⟩] }

theorem witness_LineLocks : let ofs := sLine.mOffset 1 0 64
    let pa := canon (hBase (sLine.h 1) + ofs.toNat)
    ofs = 64#64 ∧ checkHandle sLine.cur.sup (sLine.h 1) ofs.toNat 1 1 .load true = none ∧ cachedSpace (spaceOf pa) = true ∧ sLine.cur.locks.length < maxLocks ∧
    (∃ l, l1Find (sLine.lp 0) (pa / 64) = some l ∧ l.lock < maxLineLocks) ∧ cachedSpace (spaceOf (canon (hBase (sPad.h 1) + 64))) = false ∧
    (sLine.setCur { sLine.cur with locks := [1] }).cur.locks.contains (pa / 64) = true ∧ sLine.cur.locks.contains (pa / 64) = false := by
  refine ⟨by decide +kernel, by decide +kernel, by decide +kernel, by decide +kernel, ⟨_, rfl, by decide +kernel⟩, by decide +kernel, by decide +kernel, by decide +kernel⟩

/-- A state whose partition has a supervisor handler. -/
def sTraps : State := sPad.setPart 0 { PartSet.reset with svpc := 0x1000#64 }

theorem witness_TrapEntry : sTraps.focus = .thread 0 0 ∧ sTraps.partner sTraps.focus = none ∧ sTraps.route sTraps.focus 0x1A = some (0x1000#48, true) ∧
    sTraps.route sTraps.focus 0x19 = some (0x1000#48, true) ∧ sPad.route sPad.focus 0x1A = none ∧ sPad.cur.cause.getLsbD 9 = false ∧
    (sPad.setCur { sPad.cur with cause := 0x200#64 }).cur.cause.getLsbD 9 = true ∧ (sAddi.slot 0 0).isSome = true ∧
    (sTraps.ctx (.thread 0 0)).sup = false ∧ (sTraps.part 0).tdeleg.getLsbD 0x1A = true ∧ (sTraps.task (.thread 0 0)).hpc = 0#48 := by decide +kernel
theorem witness_SystemRegisters : sPad.x 1 &&& srReserved 0x021 = 0#64 ∧ sPad.x 3 &&& srReserved 0x041 = 0#64 ∧ sPad.x 3 &&& srReserved 0x070 = 0#64 ∧
    srAssigned 0xFFF = false ∧ srAssigned 0x031 = true ∧ srDense 0x031 = false ∧ srWritable 0x031 = false ∧ (sPad.x 1).toNat < 2 ^ 18 ∧
    sourceOk (isDense sPad.focus) 0 (sPad.x 1) = false ∧ (let u := thr 1 8 padH
      sourceOk (isDense u.focus) 0 (u.x 1) = true ∧ (u.x 1).toNat < 2 ^ 18 ∧ 1#64 &&& srReserved 0x080 = 0#64 ∧ u.x 1 = 1#64) ∧
    (sAddi.slot 0 0).isSome = true ∧ sAddi.x 1 = 0#64 := by decide +kernel

/-- A running thread of a task of width 1. -/
def sTask : State := sPad.setLp 0 { sPad.lp 0 with
  tasks := [(0, { Task.reset with valid := true })]
  slots := [(0, ⟨0, 0, false, .running, 64, 0, true, none⟩)] }

theorem witness_TaskOperations : (sTask.slot 0 0).isSome = true ∧ (sTask.task sTask.focus).ready = false ∧ sTask.yields 0 0 = false ∧ (sTask.x 1).toNat % 4 = 0 ∧
    (sTask.task sTask.focus).ds = false ∧ sTask.freeEntries 0 = List.range' 1 63 ∧ (getAt (sTask.lp 0).chans 63 ⟨none, []⟩).task = none ∧
    journalFull sTask.cur = false ∧ coreOfNumber ((sTask.x 3).toNat % 2 ^ 24) = some (.lc 0) ∧ moduleOfNumber ((sTask.x 3).toNat % 2 ^ 24) = sTask.module ∧
    (sTask.refTask 0 0).isSome = true := by decide +kernel
theorem witness_ThreadEnds : sTask.cur.wayOpen = false ∧ sTask.endRelease = (true, sTask) ∧ sTask.releaseFor sTask.focus true false = (true, sTask) ∧ sTask.cur.sealedBatches = [] ∧
    sTask.batch sTask.focus sTask.cur.openBatch = none ∧ sTask.taskBatches sTask.focus = false ∧ sWay.cur.wayOpen = true ∧
    checkHandle sTask.cur.sup (sTask.h 1) (sTask.x 1).toNat 0x800 64 .store true = none ∧
    (∀ p ∈ pieces (hBase (sTask.h 1)) (sTask.x 1).toNat 0x800, sTask.pieceBad (.lc 0) p = false) ∧ sTask.unfinished sTask.focus = [] ∧
    (sTask.x 3).toNat % 2 ^ 63 < 2 ^ 24 ∧ (0#64).getLsbD 0 = false ∧ (1#64).getLsbD 0 = true ∧ sTask.yields 0 0 = false := by decide +kernel

/-! ### States for the other clauses of the statements above -/

theorem witness_VectorKinds : isFloatType 4 = true ∧ (signedOf (elemBits 4) (laneAt (thr 0 0 0) 5 (elemBits 4) 0)).natAbs ≤ 1000 ∧
    ((floatOf 4).decode (laneAt (thr 0 0 0) 5 (elemBits 4) 0)).isNan = false ∧
    (let u := (thr 0 0 0).setCur { (thr 0 0 0).cur with v := (thr 0 0 0).cur.v.set 5 (BitVec.allOnes 4096) }
     ((floatOf 4).decode (laneAt u 5 (elemBits 4) 0)).isNan = true) ∧ (thr 0 0 0).act 0 (elemBits 4) 0 = true ∧ cvtFmt 0 ≠ none ∧
    laneAt (thr 0 0 0) 5 (elemBits 1) 0 = 0 ∧
    (let u := (thr 0 0 0).setCur { (thr 0 0 0).cur with mflags := 0x4000#64 }
     u.cur.mflags.getLsbD 14 = true ∧ u.cur.mflags.getLsbD 15 = false) ∧ (thr 0 0 0).cur.mflags.getLsbD 14 = false := by decide +kernel
theorem witness_OwnAccess : sPad.poisoned (canon (hBase (sPad.h 1) + 64)) 4 = false ∧
    checkHandle sPad.cur.sup (sPad.h 1) (sPad.x 1).toNat 16 16 .amor true = none ∧ sPad.focus = .thread 0 0 ∧
    checkHandle (thr 0 0 0).cur.sup ((thr 0 0 0).h 1) 0 16 16 .amor true = some 0x04 := by decide +kernel

/-- `sAddi`'s thread while its TRNS walks, which the revocations `l` have met. -/
def sWalks (l : List Revocation) : State := sAddi.setCur { sAddi.cur with wait := .completion 0x26, walkRevs := l }

/-- A revocation of key 0's page at 2 MiB. -/
def revPage : Revocation := ⟨0, 0x200000, 0x20FFFF, 4, .host, 0⟩

theorem witness_WalkEnds : (sWalks []).focus = .thread 0 0 ∧ (sWalks []).regs.nqen = false ∧ (sWalks [revPage]).cur.wait = .completion 0x26 ∧
    (match (sWalks [revPage]).translate (.lc 0) (sWalks [revPage]).curKey (sWalks [revPage]).cur.sup 0#64 with
     | .walked e lg => matchesRev revPage (leafHandle e lg (sWalks [revPage]).curKey)
     | _ => false) = true ∧ (sWalks []).cur.walkRevs = [] ∧ (sWalks []).cur.wait = .completion 0x26 ∧
    (match (sWalks []).translate (.lc 0) (sWalks []).curKey (sWalks []).cur.sup (BitVec.ofNat 64 (2 ^ 47)) with
     | .fault _ => true
     | _ => false) = true ∧ (BitVec.ofNat 64 (2 ^ 48)).extractLsb' 48 16 ≠ 0#16 := by decide +kernel

theorem witness_SentRows : let s := sVault 0
    (∀ k ∈ [Access.load, .store], checkHandle s.cur.sup (s.h 1) (s.mOffset 1 0 8).toNat 8 8 k true = none) ∧ (s.x 1).toNat + 4 ≤ 2 ^ 64 ∧
    (let u := s.setCur { s.cur with vlen := 4#64 }
     u.activeLanes 0 32 = [0] ∧ checkHandle u.cur.sup (u.h 1) (u.x 1).toNat 4 4 .acc true = none ∧ (u.x 1).toNat % 4 = 0 ∧ spaceOf (hBase (u.h 1)) ≠ 6 ∧
     journalFull u.cur = false) ∧ s.focus = .thread 0 0 ∧ acquires 0 = false := by decide +kernel

/-- `sPad` with a store of its thread buffered. -/
def sBuf : State := sPad.setLp 0 { sPad.lp 0 with sbuf := [⟨0, 3 * 2 ^ 48, [1#8], 0⟩] }

/-- `sTrns` with a leaf of 64 KiB with O = 1 for address 0, and x1 and x2 for a DROP of it. -/
def sDrop : State :=
  let s := sTrns.setCur { sTrns.cur with x := (sTrns.cur.x.set 1 0).set 2 1 }
  (s.writeNat 0 8 (2 ^ 63 + 2 ^ 62 + 0x20000)).writeNat 0x200000 8 (2 ^ 63 + 2 ^ 60 + 2 ^ 56 + 0x30)

theorem witness_Drops : sDrop.focus = .thread 0 0 ∧ (sDrop.x 1).toNat % 65536 = 0 ∧ (sDrop.x 2).toNat = 1 ∧ Memory.wf sDrop.mem = true ∧
    (match sDrop.walk sDrop.curKey 0 with
     | .leaf e lg _ _ => decide (lg = 16) && pteO e
     | _ => false) = true ∧ (sDrop.dropGranules sDrop.curKey 0 1).2.1 = [0x300000] ∧
    (match sDrop.walk sDrop.curKey 0x10000 with
     | .leaf _ _ _ _ => false
     | _ => true) = true ∧ (sBuf.releaseFor sBuf.focus true false).1 = false ∧ (sPad.releaseFor sPad.focus true false).1 = true ∧
    (sPad.setCur { sPad.cur with x := sPad.cur.x.set 2 65537 }).x 2 = 65537#64 := by decide +kernel
theorem witness_MilestoneSites : let s := sVault 3
    let pa := hBase (s.h 1) + (s.x 1).toNat
    s.focus = .thread 0 0 ∧ Memory.wf s.mem = true ∧ moduleOf pa = s.module ∧ s.ownWord pa = false ∧ milestoneSpace pa = true ∧ (s.lp 0).sbuf = [] ∧
    l1Find (s.lp 0) (pa / 64) = none ∧ checkHandle s.cur.sup (s.h 1) (s.x 1).toNat 16 16 .store true = none ∧
    checkHandle s.cur.sup (s.h 1) (s.x 1).toNat 16 16 .load true = none ∧ s.wordReport pa = none ∧ s.cur.sealedBatches = [] ∧
    s.batch s.focus s.cur.openBatch = none ∧ (s.x 2).toNat ≤ 0xFFFFFFFFFF ∧ (s.milestone pa).arm (2 ^ 40) false = none := by decide +kernel

/-- A journal entry of one part, held or not, of which `n` parts are at their site. -/
def entry1 (held : Bool) (n : Nat) : JEntry := { addr := 0, top := 0x2D, handle := 1, ofs := 0, parts := 1, held := held, atSite := n }

/-- `sWay` with one held post, `n` of whose parts are pending at its site. -/
def sHeld (n : Nat) : State := sWay.setCur { sWay.cur with journal := [(0, entry1 true n)] }

theorem witness_WaypointEnds : (sHeld 1).cur.wayOpen = true ∧ (sHeld 1).cur.journal.any (fun e => e.2.held) = true ∧ (sHeld 1).onTheWay (sHeld 1).focus = false ∧
    (sHeld 1).otherModules = [] ∧ (sHeld 0).onTheWay (sHeld 0).focus = true ∧ (sHeld 0).cur.committing = false ∧ (sHeld 0).cur.checkpoint.isSome = true ∧
    (sHeld 0).partner (sHeld 0).focus = none ∧ (sWay.releaseFor sWay.focus (sWay.wideScope sWay.focus) false).1 = true ∧
    sWay.cur.journal.any (fun e => e.2.held) = false ∧ (thr 8 0 0).cur.wayOpen = false ∧ sWay.cur.wayDest ≠ 0#5 ∧
    (let p : Pending := ⟨.thread 0 0, 0, .commit (.thread 0 0)⟩
     let u := { sHeld 1 with homes := { Homes.reset with pending := [p] } }
     u.homes.pending = [p] ∧ u.homes.commits.find? (fun r => r.1 = u.focus) = none) ∧
    (let g : TaskReq := ⟨.thread 0 0, 0, 0, 0, .ready, some 0, true⟩
     Pending.of ⟨.thread 0 0, 0, .task g⟩ 0 0 (.thread 0 0) = true) := by decide +kernel

/-- `sLine` with its line locked once and waiting for its fill. -/
def sFill : State :=
  let s := sLine.setLp 0 { sLine.lp 0 with l1 := [⟨0, 1, 1#64, 1#64, 1#16, 1, 0x55#512, true, false⟩] }
  s.setCur { s.cur with locks := List.replicate maxLocks 1 }

theorem witness_Fills : (match l1Find (sFill.lp 0) 1 with
     | some l => l.filling
     | none => false) = true ∧ (List.replicate 64 (7#8 : Byte)).length = 64 ∧ maxLocks ≤ sFill.cur.locks.length ∧ sFill.focus = .thread 0 0 ∧
    (match l1Find (sLine.lp 0) 1 with
     | some l => !l.filling
     | none => false) = true ∧ l1Find (sLine.lp 0) 2 = none := by decide +kernel
theorem witness_TrapKinds : let s := sTraps.setCur { sTraps.cur with refusals := [⟨0, 0x13, 0x24, 0, 0, false, 0, 0, 0, 0⟩] }
    s.cur.cause.getLsbD 9 = false ∧ s.cur.refusals ≠ [] ∧ s.focus = .thread 0 0 ∧ s.partner s.focus = none ∧ (sAddi.slot 0 0).isSome = true ∧
    (let u := s.setCur { s.cur with sup := true }
     (u.ctx u.focus).sup = true ∧ u.cur.cause.getLsbD 9 = false ∧ (u.part (u.key u.focus)).svpc.setWidth 48 ≠ 0#48) := by decide +kernel

/-- `sTask` with a channel of its task that holds the message 5. -/
def sMail : State := sTask.setLp 0 { sTask.lp 0 with chans := [(3, ⟨some 0, [5#48]⟩)] }

theorem witness_RegisterKinds : sMail.takeMessage.1.getLsbD 63 = true ∧ sTask.takeMessage.1.getLsbD 63 = false ∧ sPad.cur.shown = none ∧
    isDense sMzero.focus = true ∧ (sMzero.dp 0).traps = [] ∧ (sPad.x 1).toNat % 4 ≠ 3 ∧ (sPad.x 3).toNat % 16 = 0 ∧
    (sPad.resolveScope sPad.focus (sPad.x 3).toNat).isSome = true ∧ srAssigned 0x070 = true ∧ srWritable 0x070 = true ∧
    BitVec.allOnes 64 &&& srReserved 0x070 ≠ 0#64 ∧ srAssigned 0x021 = true ∧ srDense 0x021 = false := by decide +kernel
theorem witness_TaskKinds : (let u := sTask.setLp 0 { sTask.lp 0 with tasks := [(0, { Task.reset with valid := true, ready := true })] }
     (u.task u.focus).ready = true ∧ (u.slot 0 0).isSome = true ∧ u.focus = .thread 0 0) ∧
    (let u := sTask.setLp 0 { sTask.lp 0 with tasks := (List.range 64).map fun i => (i, { Task.reset with valid := true }) }
     u.freeEntries 0 = [] ∧ (u.slot 0 0).isSome = true) ∧
    (getAt (sMail.lp 0).chans 3 ⟨none, []⟩).task = some (sMail.taskIndex sMail.focus) ∧ (sMail.slot 0 0).isSome = true ∧
    (let u := { sTask.setPart 0 { sTask.part 0 with admitted := true } with fabric := { sTask.fabric with domain := [0, 1] } }
     u.admits 1 u.curKey = true ∧ coreOfNumber 4096 = some (.lc 0) ∧ moduleOfNumber 4096 = 1 ∧ journalFull u.cur = false ∧ (nextEntry u.cur).isSome = true) ∧
    coreOfNumber (0 % 4096) = some (.lc 0) := by decide +kernel

/-- `sTask` with the image of a context in its inbox, of which only the pc is not zero. -/
def sImage : State :=
  let s := sTask.setCur { sTask.cur with inbox := some [(0, natToBytes 8 0x40)] }
  s

theorem witness_EndKinds : (let u := sImage.setCur { sImage.cur with inbox := none }
     (u.releaseFor u.focus (u.wideScope u.focus) false).1 = true ∧ (u.releaseFor u.focus (u.wideScope u.focus) false).2.focus = sImage.focus) ∧
    bitsOf (imageWord (assemble [(0, natToBytes 8 0x40)] 0x800) 0) 63 61 = 0 ∧
    checkHandle sImage.cur.sup (sImage.h 1) (sImage.x 1).toNat 0x800 64 .load true = none ∧
    (let u := sTask.setCur { sTask.cur with wbacks := 1 }
     u.cur.wayOpen = false ∧ u.endRelease.1 = false) ∧ checkHandle sPad.cur.sup (sPad.h 1) (sPad.x 1).toNat (sPad.x 1).toNat 64 .store true = none ∧ (sPad.x 1).toNat % 64 = 0 ∧
    bitsOf (sPad.x 3).toNat 62 24 = 0 ∧ (sTask.lc 0).fenced = false ∧ (sTask.dt 0).fenced = false ∧ sTask.sliceSpent (.thread 0 1) = false ∧
    (let u := sTask.setLp 0 { sTask.lp 0 with
       tasks := [(0, { Task.reset with valid := true, slice := 1 })]
       slots := [(0, ⟨0, 0, false, .running, 0, 0, true, none⟩)] }
     (u.slot 0 0).any (fun sl => sl.slice = 0 && (u.taskAt 0 sl.task).slice ≠ 0) = true) ∧
    (let u := sTask.setCur { sTask.cur with inbox := some [] }
     (u.releaseFor u.focus true false).2.cur.inbox.isSome = true) := by decide +kernel


/-- `sPad` with some scalar registers set. -/
def sRegs (l : List (BitVec 5 × BitVec 64)) : State := sPad.setCur (l.foldl (fun c r => c.writeX r.1 r.2) sPad.cur)

/-- A table of 8 rows of 16 elements of F32 at home 0, without staleness. -/
def tabD : BitVec 512 := BitVec.ofNat 512 (2 ^ 495 + 3 * 2 ^ 480 + 1 * 2 ^ 473 + 2 * 2 ^ 468 + 8 * 2 ^ 424 + 2 ^ 346 + 2 * 2 ^ 328)

/-- A state whose x8 is the list of row 0, as are x9 and the words behind it, and whose areas lie apart, with the table selected. -/
def sTab : State :=
  let s := sRegs [(8, listWord false 1 0), (9, listWord false 1 4), (10, 64), (11, 128), (12, 192), (14, 0), (16, 256), (17, listWord false 1 4), (18, 512)]
  s.setCur { s.cur with table := some tabD }

theorem witness_ListOperations : sTab.lkpFails true [] [] false [] = none ∧
    sTab.lkpFails false [(8, false)] [sTab.areaSpan 10 (1 * 4) 4 true, sTab.areaSpan 11 (1 * 4) 4 true] true [] = none ∧
    sTab.lkpFails false [(8, false), (9, false)] [sTab.areaSpan 10 8 4 true] true [] = none ∧ sTab.lkpFails false [(8, false)] [] false [] = none ∧
    sTab.lkpFails true [(8, false)] [sTab.areaSpan 10 4 4 true] true [] = none ∧ (∀ v ∈ sTab.listAt 8, v < sTab.sel.rows) ∧
    sTab.lkpFails false [] [sTab.areaSpan 10 64 64 false] false [] = none ∧
    sTab.lkpFails true [(8, false), (9, false)] [sTab.areaSpan 10 4 4 true, sTab.areaSpan 11 4 4 true, sTab.areaSpan 12 4 4 true] true [] = none ∧
    sTab.sel.homes = 1 ∧ (sTab.listAt 9).length = 1 ∧ (∀ v ∈ sTab.listAt 9, v < 1) ∧ (sTab.listAt 8).sum ≤ 2 ^ 24 - 1 ∧
    (let u := sTab.setCur { sTab.cur with x := sTab.cur.x.set 8 (2 ^ 63) }
     u.lkpFails false [(8, false)] [u.areaSpan 10 0 8 true] true [] = none) := by decide +kernel
theorem witness_RowOperations : sTab.module < 4096 ∧ sTab.sel.pairOf (sTab.sel.home 0) / 512 = sTab.module ∧ 0 < sTab.sel.rows ∧ sTab.listAt 8 = [0] ∧
    sTab.lkpFails true [(8, false)] [sTab.areaSpan 10 (1 * 64) 64 true] false [] = none ∧
    sTab.lkpFails true [] [sTab.areaSpan 10 64 64 true] false [] = none ∧ (sTab.x 14).toNat = 0 ∧ sTab.listAt 17 = [0] ∧
    sTab.lkpFails true [(17, false)] [sTab.areaSpan 16 (1 * 64) 64 false] false [] = none ∧ sTab.lkpFails true [] [] false [] = none ∧
    journalFull sTab.cur = false ∧ sTab.cur.table.isSome = true ∧
    (let u := sRegs [(8, 64), (9, 64), (10, 0), (11, 128)]
     u.seamFails 8 8 11 10 [] = none ∧ moduleOfNumber (u.x 10).toNat = u.module ∧ (u.xg 8 1).toNat = 64 ∧ (u.xg 10 1).toNat % 256 ≤ 192) ∧
    (let g : Segment := { core := 0, who := .thread 0 0, key := 0, dst := 0, ofs := 128, data := List.replicate 64 1#8, poison := false, jent := some 0, ms := none, held := false, last := true }
     sTask.segmentRefusal g = none ∧ coreOfNumber g.dst = some (.lc 0)) := by decide +kernel
theorem witness_TableArithmetic : sTab.lkpFails false [] [sTab.areaSpan 10 64 64 false] false [] = none ∧ (descOf (sTab.cur.table.getD 0)).ok sTab.curKey = true ∧
    (descOf tabD).nmod = 0 ∧ (descOf tabD).mod0 = sTab.module ∧ (descOf tabD).key = sTab.curKey ∧ sTab.homes = Homes.reset ∧ sTab.sel.fmt ≠ 3 ∧ sTab.poison = [] ∧
    sTab.lkpFails true [(17, false)] [sTab.areaSpan 16 64 64 false, sTab.areaSpan 18 0 64 true] true [] = none ∧ sTab.listAt 17 = [0] ∧
    (sTab.x 18).toNat + (0 + 1) * (4 * sTab.sel.elems) ≤ sTab.padBytes ∧
    (let u := (sRegs [(16, 256), (17, 2 ^ 63 + listWord false 1 0), (18, 512)]).setCur { (sRegs [(16, 256), (17, 2 ^ 63 + listWord false 1 0), (18, 512)]).cur with table := some tabD }
     let w : State := { u with mem := memSet u.mem (4 * 2 ^ 48 + 3) 1#8 }
     w.lkpFails true [(17, true)] [w.areaSpan 16 64 64 false, w.areaSpan 18 0 64 true] true [] = none ∧ (w.listAt 17).map segLen = [1]) := by decide +kernel

/-- A module with one vault range, and a thread whose x1 is its token. -/
def sRange : State :=
  let s := { sPad with homes := { Homes.reset with ranges := [⟨0, 0, 0, 0, 0, 4096, 7#3, 0, none, false, 0, false, []⟩] } }
  match s.homes.ranges.head? with
  | some g => s.setCur (s.cur.writeX 1 (rangeToken s.module g))
  | none => s

theorem witness_RangeOperations : (sRange.x 1).toNat / 2 ^ 52 = sRange.module ∧ (sRange.rangeOf sRange.curKey (sRange.x 1).toNat).isSome = true ∧
    sRange.rangeOf sRange.curKey 0x12345 = none ∧ (∀ g ∈ sRange.homes.ranges, g.mapper = none) ∧ rangeExtent (spaceOf (hBase ((sVault 0).h 1))) = some 0x30000000 ∧
    checkEach false ((sVault 0).h 1) 64 8 true false false = none ∧
    ((sVault 0).bindRange 0 64 8 4 64).1.isSome = true ∧ ((sVault 0).bindRange 0 64 8 4 64).2.2.ctxs = (sVault 0).ctxs ∧
    sRange.releaseFor sRange.focus true false = (true, sRange) ∧ journalFull sRange.cur = false ∧ (nextEntry sRange.cur).isSome = true ∧
    sRange.homes.ranges ≠ [] := by decide +kernel


/-- A load of a thread of this module at `pa`. -/
def loadAt (pa : Nat) : Request := { who := .agent (.thread 0 0), core := coreNumber 0 (.lc 0), key := 0, op := .load, pa := pa, len := 8, dest := .x 3 0 }

theorem witness_HomeSteps : (loadAt (3 * 2 ^ 48)).op = .load ∧ spaceOf (loadAt (3 * 2 ^ 48)).pa = 3 ∧ sPad.homes.ranges = [] ∧ sPad.regs.nqen = false ∧
    sPad.hostReady (3 * 2 ^ 48) false = (none, sPad) ∧ (sPad.checkRanges (loadAt (3 * 2 ^ 48))).1 = none ∧
    sPad.windowRefusal (loadAt (4 * 2 ^ 48)) = none ∧ regionOf (3 * 2 ^ 48) = none ∧ moduleOfNumber (loadAt 0).core = sPad.module ∧
    (let u := sPad.setLp 0 { sPad.lp 0 with sbuf := [⟨0, 4 * 2 ^ 48, [1#8], 0⟩] }
     (u.lp 0).sbuf ≠ [] ∧ cachedSpace (spaceOf (4 * 2 ^ 48)) = false) ∧
    (let u := sPad.setCur { sPad.cur with wait := .replies 1 }
     (u.ctx (.thread 0 0)).wait = .replies 1 ∧ (u.ctx (.thread 0 0)).failed = none ∧ (u.ctx (.thread 0 0)).want = none ∧ (u.lp 0).stray 0 = 0) ∧
    (let u := sPad.setLp 0 { sPad.lp 0 with strays := [(0, 1)] }
     (u.lp 0).stray 0 ≠ 0) ∧
    (findLate [Late.mk 0 (.x 3 0) 0 0 0 (0, 0) 0 0 none 0 []] 0 (.x 3 0)).isSome = true ∧
    (let u := sPad.setCur { sPad.cur with journal := [(0, { addr := 0, top := 0x2D, handle := 1, ofs := 0, parts := 1, held := false })] }
     (findAt (u.ctx (.thread 0 0)).journal 0).isSome = true ∧ (u.ctx (.thread 0 0)).committing = false ∧ (u.ctx (.thread 0 0)).refusals = []) := by
  decide +kernel

/-- The table `tabD` installed at home 0, with the watch on gathers on. -/
def sHome : State := { sPad with
  homes := { Homes.reset with tables := [(0, tabD)] }
  regs := { sPad.regs with rcontrol := 0x100004000 } }

/-- A gather of row 0, and one of a table whose rows may not be stale. -/
def gather0 : Gather := ⟨.thread 0 0, 0, 0, 3, 0, 0, 5, 64, 3, 1, false, 0, none, 0⟩

theorem witness_RowsAtHome : sHome.regs.nqen = false ∧ sHome.homes.ranges = [] ∧ sHome.regs.rcontrol.getLsbD 32 = true ∧
    (sHome.tableAt 0 0 3) = some (descOf tabD) ∧ sHome.fresh (descOf tabD) gather0 = true ∧
    sHome.fresh { descOf tabD with smode := 0 } gather0 = false ∧
    (sHome.checkRanges (homeAccess gather0.who 0 0 .load ((descOf tabD).rowAt 0 0 0) 64)).1 = none ∧
    sHome.regs.rcontrol.extractLsb' 0 32 ≠ 0#32 ∧ sHome.gang.suspended.contains gather0.key = false ∧ sHome.cycle < resendAt gather0 ∧ resendAt gather0 ≤ ({ sHome with cycle := 64 } : State).cycle ∧
    (let a : Accum := { who := .thread 0 0, core := 0, key := 0, tid := 3, pair := 0, row := 0, step8 := 0, fmt := 8, e0 := 0, vals := [some 1#32], jent := none, held := false }
     (match sHome.accumChecked a with
      | .ok x => decide (x = descOf tabD)
      | .error _ => false) = true ∧ (match sHome.accumChecked { a with row := 9 } with
      | .ok _ => false
      | .error _ => true) = true ∧ sHome.linesReady ((descOf tabD).gradAt 0 0 0 0) 4 = (true, sHome)) ∧
    stepReaches 0xFFFF (sHome.metaField (descOf tabD) 0 0 0) = false ∧ sHome.metaField (descOf tabD) 0 0 1 = 0 ∧ sHome.metaField (descOf tabD) 0 0 3 = 0 ∧
    sHome.metaField (descOf tabD) 0 0 2 ≠ 1 ∧ sHome.linesReady ((descOf tabD).gradAt 0 0 0 0) 64 = (true, sHome) := by decide +kernel
theorem witness_ContextsOnTheMove : sTask.cur.wayOpen = false ∧ sTask.unanswered = false ∧ sTask.outboundFull = false ∧
    sTask.releaseFor sTask.focus (decide (0 ≠ sTask.coreNo sTask.focus)) false = (true, sTask) ∧ lookupNumber (sTask.x 3) = some 0 ∧
    moduleOfNumber 0 = sTask.module ∧ sTask.cur.spawned < 8 ∧ (sTask.x 2).toNat % 4 = 0 ∧ sTask.cur.inbox = none ∧
    (let u := sVault 0
     u.unanswered = false ∧ homeNumber (canon (hBase (u.h 1) + (u.x 1).toNat)) = homeNumber 64 ∧
     checkHandle u.cur.sup (u.h 1) (u.x 1).toNat 1 1 .load true = none ∧ (u.lp 0).sbuf = []) ∧
    lookupNumber (BitVec.ofNat 64 (2 ^ 24)) = none ∧
    (let x : Travel := ⟨0, [], 0, 1, 0, 0, 0, none, 0, none⟩
     sTask.holdsLaunch 0 x = true ∧ (sTask.lc 0).spill = [] ∧ (sTask.lp 0).arrivals.length < maxArrivals ∧ coreIndex 1 ≠ coreIndex 0 ∧
     sPad.holdsLaunch 0 x = false) := by decide +kernel
theorem witness_Scheduling : sTask.gang.suspended.contains (sTask.lp 0).key = false ∧ (sTask.refreshReady 0).repartitioning 0 = false ∧
    (let u := sTask.setLp 0 { sTask.lp 0 with tasks := [(0, { Task.reset with valid := true, ready := true, n := 1, unstarted := [0] })], slots := [] }
     (u.refreshReady 0).readyOrder 0 = [0] ∧ (u.refreshReady 0).slotFor 0 ((u.refreshReady 0).taskAt 0 0) = some 0) ∧
    (sTask.slot 0 0).isSome = true ∧ (sTask.lp 0).area = [] ∧ (∀ e ∈ (sTask.lp 0).slots, e.2.state ≠ .restoring) ∧ (sTask.taskAt 0 0).valid = true ∧
    sTask.taskOver 0 1 = false ∧ (sTask.lp 0).mappings = [] ∧ ((sTask.taskAt 0 0).age < 4095) ∧
    (findAt (sTask.dp 0).banks (sTask.dp 0).timerBank).isNone = true ∧ sTask.homes.waiting = [] ∧
    (let u := sTask.setDp 0 { sTask.dp 0 with banks := [(0, BankInfo.mk Task.reset 0 false 0 false [] [] [])] }
     (findAt (u.dp 0).banks (u.dp 0).timerBank).isSome = true) := by decide +kernel
theorem witness_Launching : (sPad.x 3).toNat % 65536 = 0 ∧ (sPad.xg 3 1).toNat ≤ 65536 ∧ (sPad.xg 3 1) = 0#64 ∧ sPad.disp.producers = [] ∧
    (let u := sRegs [(4, 8)]
     (u.xg 3 1) ≠ 0#64 ∧ (u.xg 3 1).toNat ≤ 65536) ∧ checkHandle sPad.cur.sup (sPad.h 1) (sPad.x 1).toNat 64 64 .load true = none ∧
    sPad.releaseFor sPad.focus true false = (true, sPad) ∧ (getAt sPad.disp.ports 0 LaunchPort.reset).queue = [] ∧
    ({ LaunchPort.reset with en := true } : LaunchPort).queue.length < 16 ∧ sPad.heldOnPort 0 = none ∧ (getAt sPad.disp.slotTable 0 []).length < 256 ∧
    recC (BitVec.allOnes 512) = true ∧ (sPad.lp 0).mappings = [] ∧ (sPad.lp 0).l1 = [] ∧ (sPad.lp 0).wb = [] := by decide +kernel

/-- Areas for LRED, LSCAT and LEXP under `tabD`: rows at 256, a list of row 0 at 8, an output at 512, and at 0 a segment of one row. -/
def sRows : State :=
  let u := sRegs [(16, 256), (17, listWord false 1 8), (18, 512), (20, 2 ^ 63 + listWord false 1 0), (22, listWord false 0 0), (24, 256), (25, 2 ^ 63 + listWord false 1 0)]
  let w := u.setCur { u.cur with table := some tabD }
  { w with mem := memSet w.mem (4 * 2 ^ 48 + 3) 1#8 }

/-- `sPad` with `tabD` itself at the start of its scratchpad. -/
def sDesc : State := { sPad with mem := memWrite sPad.mem (4 * 2 ^ 48 + 64) (natToBytes 64 tabD.toNat) }

theorem witness_ListKinds : sDesc.lkpFails false [] [sDesc.areaSpan 1 64 64 false] false [] = none ∧
    (descOf (BitVec.ofNat 512 (sDesc.readNat (sDesc.ownAddr sDesc.focus (sDesc.x 1).toNat) 64))).ok sDesc.curKey = true ∧
    (descOf (BitVec.ofNat 512 (sPad.readNat (sPad.ownAddr sPad.focus (sPad.x 1).toNat) 64))).ok sPad.curKey = false ∧
    (descOf tabD).ok sPad.curKey = true ∧ (sPad.installHere tabD).1 = none ∧ (descOf tabD).key = sPad.curKey ∧ sPad.homes.tableRuns = [] := by decide +kernel
theorem witness_RowLists : sRows.lkpFails true [(22, false)] [sRows.areaSpan 18 0 64 true] false [] = none ∧ sRows.listAt 22 = [] ∧ sRows.listAt 17 = [0] ∧
    0 < sRows.sel.rows ∧ sRows.focus = .thread 0 0 ∧ sRows.lkpFails true [] [sRows.areaSpan 18 64 64 true] false [] = none ∧
    (let u := sRows.setCur { sRows.cur with x := sRows.cur.x.set 17 (listWord false 0 0) }
     u.listAt 17 = [] ∧ u.lkpFails true [(17, false)] [u.areaSpan 16 0 64 false] false [] = none) := by decide +kernel
theorem witness_RowArithmetic : sRows.padPoison (sRows.listSpan 17) = false ∧ sRows.sel.fmt ≠ 3 ∧
    sRows.lkpFails true [(17, false), (20, true)] ([sRows.areaSpan 16 0 64 false, sRows.areaSpan 18 (1 * sRows.sel.elems * 4) 64 true]
      ++ sRows.rowSpans 16 256 sRows.sel.rowBytes [0] false) true [] = none ∧ (segPositions (sRows.listAt 20)).map (nth (sRows.listAt 17)) = [0] ∧
    lredFail sRows 256 sRows.sel.rowBytes (sRows.listAt 17) (sRows.listAt 20) = none ∧ sRows.poison = [] ∧
    sRows.lkpFails true [(17, false)] ([sRows.areaSpan 16 (1 * 64) 64 false, sRows.areaSpan 18 0 64 true] ++ sRows.rowSpans 18 512 64 [0] true) true [] = none ∧
    512 + (0 + 1) * 64 ≤ sRows.padBytes ∧
    sRows.lkpFails true [(25, true)] ([sRows.areaSpan 24 (1 * 64) 64 false, sRows.areaSpan 18 0 64 true]
      ++ sRows.rowSpans 18 512 64 (segPositions (sRows.listAt 25)) true) true [] = none ∧ (sRows.listAt 25).map segLen = [1] := by decide +kernel
theorem witness_TablesElsewhere : let d0 := descOf (tabD ||| BitVec.ofNat 512 0)
    let u : State := { sPad.setPart 0 { sPad.part 0 with admitted := true } with fabric := { sPad.fabric with domain := [0, 1] }, module := 1 }
    d0.nmod = 0 ∧ d0.mod0 ≠ u.module ∧ u.admits d0.mod0 u.curKey = true ∧ d0.key = u.curKey ∧
    (let r : TableRun := ⟨.thread 0 0, tabD, false, 3, 1, 0, [], none⟩
     let w : State := { sPad.setCur { sPad.cur with wait := .completion 0x40 } with homes := { Homes.reset with tableRuns := [r] } }
     w.homes.tableRuns.find? (fun x => x.who = w.focus) = some r ∧ w.cur.wait = .completion 0x40) := by decide +kernel

/-- A range of the module mapped by core 0 with rights W, and a thread whose x1 is its token. -/
def sMapped : State :=
  let s : State := { sRange with homes := { sRange.homes with ranges := sRange.homes.ranges.map fun g => { g with mapper := some (0, 0, 0) } } }
  { s with homes := { s.homes with subs := [⟨s.x 1, 0, 0, 4 * 2 ^ 48, 4 * 2 ^ 48 + 64⟩] } }

theorem witness_RangeCommands : (sRange.delivering (sRange.x 1).toNat = false) ∧ sRange.homeBusy (0, 0) = false ∧
    (∀ top ∈ [0x34, 0x35, 0x36], commandHome top [(sRange.x 1).toNat] = some (0, 0)) ∧ sRange.admits 1 sRange.curKey = false ∧
    (let u : State := { sRange with homes := { sRange.homes with commands := [⟨.thread 0 1, 0, 0, 0x34, [(sRange.x 1).toNat]⟩] } }
     u.homeBusy (0, 0) = true) ∧
    (let u : State := { sRange with homes := { sRange.homes with announced := [⟨.host, 0, 0, 0, sRange.x 1, 1⟩] } }
     u.delivering (u.x 1).toNat = true) ∧
    (∀ g ∈ sMapped.homes.ranges, g.mapper = some (coreNumber 0 (.lc 0), 0, 0) ∧ g.rights.extractLsb' 0 2 ≠ 0#2 ∧ (sMapped.linesReady g.lo g.len).1 = true) ∧
    sMapped.homes.ranges ≠ [] ∧ (∀ g ∈ sPad.homes.ranges, (rangeToken sPad.module g).toNat ≠ 0) ∧
    (sPad.setCur { sPad.cur with wait := .completion 0x36 }).cur.wait = .completion 0x36 ∧
    (let u : State := { sMapped with homes := { sMapped.homes with hostLines := [0] } }
     (u.linesReady 0 64).1 = false) := by decide +kernel

/-- A delivery of eight bytes to core `k`'s scratchpad with version `n`. -/
def delivery (k n : Nat) : Delivery :=
  { who := .agent (.thread 0 0), key := 0, module := 0, pa := 4 * 2 ^ 48 + k * 0x400000 + 128, data := List.replicate 8 7#8,
    msPa := 4 * 2 ^ 48 + k * 0x400000 + 64, jent := some 0, token := 5, ok := true, version := n }

theorem witness_Deliveries : (let g := delivery 0 2
     windowCore (offsetOf g.pa) = some (.lc 0) ∧ windowCore (offsetOf g.msPa) = some (.lc 0) ∧ sTask.holdsKey (.lc 0) 0 = true ∧
     sTask.agenda.any (earlierDelivery g) = false ∧ ({ sTask with agenda := [.subscriberDelivery (delivery 0 1)] } : State).agenda.any (earlierDelivery g) = true ∧
     (sTask.checkRanges { who := g.who, core := coreNumber sTask.module (.lc 0), key := g.key, op := .store, pa := g.pa, len := g.data.length }).1 = none ∧
     (sTask.linesReady (canon g.pa) g.data.length).1 = true) ∧
    sTask.holdsKey (.lc 1) 3 = false ∧ (sTask.linesReady (5 * 2 ^ 48) 8).1 = false := by decide +kernel

theorem witness_HomeRequests : let r := loadAt (3 * 2 ^ 48)
    r.jent = none ∧ r.hops = [] ∧ r.data = [] ∧ r.orig = none ∧ sPad.homes.heldWrites = [] ∧ r.key ≠ hostKey ∧ spaceOf (loadAt (6 * 2 ^ 48)).pa = 6 ∧
    (let q : Request := { loadAt (3 * 2 ^ 48) with op := .store, data := List.replicate 8 1#8 }
     q.data.length = q.len ∧ q.mask = [] ∧ q.poison = false ∧ Memory.wf sPad.mem = true) ∧ (sPad.windowRefusal (loadAt (4 * 2 ^ 48 + 0x3FFFF8))).isSome = true ∧
    (sMapped.homes.ranges.find? fun g => (rangeToken sMapped.module g).toNat = (sMapped.x 1).toNat).any (fun g => g.mapper = some (0, 0, 0)) = true ∧
    (sMapped.checkRanges (loadAt 0)).1 = none ∧
    (let u : State := { sMapped with homes := { sMapped.homes with ranges := sMapped.homes.ranges.map fun g => { g with key := 7 } } }
     (u.checkRanges (loadAt 0)).1.isSome = true) := by decide +kernel
theorem witness_Replies : let w := sPad.setCur { sPad.cur with wait := .replies 2 }
    w.cur.wait = .replies 2 ∧ w.cur.failed = none ∧ w.cur.want = none ∧ sPad.cur.wait = .none ∧ isCode (.x 3 0) = false ∧ isInbox (.x 3 0) = false ∧
    (let l : Late := ⟨0, .x 3 0, 0, 0, 0, (0, 0), 0, 0, some (64, 5), 0, []⟩
     findLate [l] 0 (.x 3 0) = some l ∧ reaches (bytesToNat (natToBytes 16 0)) 5 = false ∧ reaches (bytesToNat (natToBytes 16 6)) 5 = true ∧ findLate [l] 1 (.x 3 0) = none) ∧
    (let u := sWay.setCur { sWay.cur with journal := [(0, entry1 true 0), (1, { entry1 false 0 with parts := 2 })] }
     u.cur.wayOpen = true ∧ u.cur.committing = false ∧ (findAt u.cur.journal 0).any (·.held) = true ∧ (findAt u.cur.journal 1).any (fun e => decide (1 < e.parts) && !e.held) = true ∧
     u.cur.refusals = []) := by decide +kernel

theorem witness_RowsMore : (sHome.tableAt 0 0 9) = none ∧ sHome.homes.waiting = [] ∧ (State.gang { sHome with gang := { sHome.gang with suspended := [0] } }).suspended.contains 0 = true ∧
    (let u : State := { sHome with homes := { sHome.homes with waiting := [(0, gather0)] } }
     u.homes.waiting = [(0, gather0)] ∧ gather0.merge = none ∧ moduleOfNumber gather0.core = u.module ∧ gather0.peek = false) ∧
    (let u : State := { sHome with regs := { sHome.regs with rcontrol := 0 } }
     u.regs.rcontrol.extractLsb' 0 32 = 0#32) ∧ stepReaches 5 (sHome.metaField (descOf tabD) 0 0 0) = true ∧ 5 ≠ sHome.metaField (descOf tabD) 0 0 0 ∧
    (sHome.linesReady ((descOf tabD).rowAt 0 0 0) 64).1 = true ∧ sHome.metaField (descOf tabD) 0 0 1 ≠ 3 ∧
    (let u : State := { sHome with homes := { sHome.homes with ranges := [⟨0, 0, 0, 9, 0, 0x30000000, 7#3, 0, none, false, 0, false, []⟩] } }
     (u.checkRanges (homeAccess (.thread 0 0) 0 0 .load ((descOf tabD).rowAt 0 0 0) 64)).1.isSome = true) := by decide +kernel


/-- Tile 0's bank 0 with x1 = 64 and a row feed and a column feed of one step ready. -/
def sFed : State :=
  let f : Fill := ⟨0, 1, 0, List.replicate 256 [1]⟩
  let a : ArrayState := { ArrayState.reset with
    fa := [(0, ⟨none, some f, 0, 0⟩)]
    fb := [(0, ⟨none, some f, 0, 0⟩)] }
  let s := sMzero.setDp 0 { sMzero.dp 0 with array := a }
  s.setCur (s.cur.writeX 1 64)

theorem witness_ArrayPasses : sFed.focus = .bank 0 0 ∧ cfgOk 0x00FFC03F = true ∧ cfgOk (sFed.x 1) = false ∧ getAt (sFed.dp 0).busy 0 0 ≤ sFed.now ∧
    (((sFed.array 0).cfg sFed.now).extractLsb' 14 5).toNat = 0x1F ∧ (fillsOf (sFed.array 0) true 0).hi ≤ sFed.now ∧
    (fillsOf (sFed.array 0) true 0).new.isSome = true ∧ (fillsOf (sFed.array 0) true 1).new = none ∧ sFed.cur.mpos = 0#64 ∧ (sFed.array 0).plane.hi ≤ sFed.now ∧
    (match (fillsOf (sFed.array 0) true 0).new with
     | some p => decide (p.lines.length = 256) && p.lines.all fun l => decide (l.length = p.kpass)
     | none => false) = true ∧ (sFed.array 0).msa = none ∧ (sFed.array 0).plane.new.plsum = (sFed.array 0).plane.new.chkv ∧
    (match sFed.startEngine 0 256 with
     | .ok s1 => (match s1.useBanks 0 [(1, 64)] with
       | .ok _ => true
       | .error _ => false)
     | .error _ => false) = true := by decide +kernel
theorem witness_ArrayTiles : sFed.focus = .bank 0 0 ∧ Memory.wf sFed.mem = true ∧ getAt (sFed.dp 0).busy 4 0 ≤ sFed.now ∧ nanTraps sFed.cur.mflags = false ∧
    (∀ t < 4, ∀ w ∈ getAt (sFed.array 0).acc t [], w.hi ≤ sFed.now) ∧ (sFed.array 0).plane.hi ≤ sFed.now ∧ (sFed.x 1).toNat % 64 = 0 ∧ (sFed.x 1).toNat < 256 ∧
    (sFed.x 1).toNat + 255 * (sFed.x 1).toNat + 256 ≤ 0x200000 ∧ sFed.poisoned (sFed.accAddr 0 0) 0x40000 = false := by decide +kernel
theorem witness_DenseGroups : sFed.focus = .bank 0 0 ∧ (sFed.dp 0).sync ≠ 2 ∧ sFed.groupOf 0 = [0] ∧ (sFed.releaseFor sFed.focus true false).1 = true ∧
    (let u := sFed.setDp 0 { sFed.dp 0 with members := 3#32 }
     u.groupOf 0 = [0, 1] ∧ (∀ i ∈ u.groupOf 0, i ≠ 0 → (u.dp i).sync ≠ 1 ∧ (u.dp i).vcc ≤ (u.dp 0).vcc ∧ (u.dp i).again = [])) ∧
    (sFed.x 0).getLsbD 0 = false ∧ sFed.runsLaunch 0 (sFed.task sFed.focus).tag = true ∧ (sFed.x 1).toNat < 2 ^ 32 ∧ (∀ i ∈ sFed.groupOf 0, (sFed.dp i).traps = []) ∧
    sFed.reload 0 = sFed ∧ sFed.gang.suspended = [] ∧ (sFed.dp 0).sync ≠ 4 ∧ (sFed.bankInfo 0 (sFed.dp 0).active).isSome = true ∧ sFed.standbyWins 0 = false := by
  decide +kernel

/-- A descriptor of a linear copy of 64 bytes through h1, from offset 256 to offset 512. -/
def descL : BitVec 1024 := BitVec.ofNat 1024 (2 ^ 60 + 2 ^ 56 + 256 * 2 ^ 64 + 512 * 2 ^ 128 + 64 * 2 ^ 256)

/-- `sPad` with the descriptor at the start of the scratchpad and an open batch. -/
def sCopy : State :=
  let s := sPad.setLp 0 { sPad.lp 0 with batches := [⟨0, 0, 0, 0, 0, 0, 0, 0, false, false, 0, 0, none, 0, []⟩, ⟨0, 0, 0, 7, 0, 2, 0, 0, true, false, 0, 0, none, 0, []⟩] }
  let s1 := s.setCur { s.cur with holder := agentId s.focus + 1 }
  { s1 with mem := memWrite s1.mem (4 * 2 ^ 48) (natToBytes 128 descL.toNat) }

/-- The command of that descriptor, and one that copies 64 bytes within the scratchpad. -/
def cmdL : CopyCmd := ⟨1, 0xA0, descL, [padH, padH], .thread 0 0, .thread 0 0, 0, 0, false, 0, 0, 0, 0x01004009, none, 0, 0, 0, false, false, [], 0, false, [], none, false, 0, none⟩

theorem witness_CopyIssue : sCopy.focus = .thread 0 0 ∧ (sCopy.x 3 + BitVec.ofNat 64 0).toNat % 128 = 0 ∧ (sCopy.x 3).toNat + 128 ≤ sCopy.padBytes ∧
    BitVec.ofNat 1024 (sCopy.readNat (sCopy.ownAddr sCopy.focus 0) 128) = descL ∧ sCopy.copyChecks 0xA0 0#64 descL (wordOf (.cpl 4 3 0)) = none ∧
    sCopy.cur.ncmd < 65536 ∧ sCopy.releaseFor sCopy.focus true false = (true, sCopy) ∧ (sCopy.copies 0).length < 16 ∧
    (sCopy.batch sCopy.focus sCopy.cur.openBatch).isSome = true ∧ (sCopy.batch sCopy.focus 0).any (fun b => !b.isSealed && b.state = 0) = true ∧
    sCopy.poisoned (sCopy.ownAddr sCopy.focus 0) 128 = false ∧ descReserved 0xA0 descL = false := by decide +kernel
theorem witness_CopySteps : let u := sCopy.setLp 0 { sCopy.lp 0 with copyQ := [cmdL] }
    u.stopped 0 = none ∧ u.nextCopy 0 = some cmdL ∧ cmdL.got = [] ∧ cmdL.puts = 0 ∧ descSv descL = false ∧ descDv descL = false ∧ descMv descL = false ∧
    256 + 64 ≤ hLimit (cmdL.handles.getD 0 0) + 1 ∧ spaceOf (hBase padH + 256) = 4 ∧ moduleOf (hBase padH + 512) = u.module ∧
    u.windowRefusal (cmdL.request 0 (coreNumber 0 (.lc 0)) .load (hBase padH + 256) 64 []) = none ∧
    u.windowRefusal (cmdL.request 0 (coreNumber 0 (.lc 0)) .store (hBase padH + 512) 64 []) = none ∧
    offsetOf (hBase padH + 512) % 0x400000 + 64 ≤ 0x200000 ∧ u.poisoned (hBase padH + 256) 64 = false ∧
    (u.copies 0).filter (fun x => x.id = 1) = [cmdL] ∧ (u.batchOf cmdL).isSome = true ∧
    (u.setLp 0 { u.lp 0 with copyQ := [{ cmdL with stop := true }] }).stopped 0 = some { cmdL with stop := true } := by decide +kernel
theorem witness_CopyBatches : sCopy.focus = .thread 0 0 ∧ (sCopy.unfinished sCopy.focus).length < 32 ∧ (sCopy.batch sCopy.focus sCopy.cur.openBatch).isSome = true ∧
    (sCopy.resumeBatches sCopy.focus fun b => b.isSealed).focus = sCopy.focus ∧ (sCopy.unfinished sCopy.focus).length ≤ 0 ∧
    (sCopy.batch sCopy.focus 7).any (·.isSealed) = true ∧ (sCopy.batch sCopy.focus 9) = none ∧
    (match sCopy.tokenBatch (BitVec.ofNat 64 (2 ^ 30 + 7)) with
     | .ok (some b) => decide (b.state = 2)
     | _ => false) = true ∧ (match sCopy.tokenBatch 0#64 with
     | .error _ => true
     | .ok _ => false) = true ∧ sCopy.stillStopping sCopy.focus = false ∧ cbkoOk 0x4000#64 = true ∧ cbkoOk (sCopy.x 2) = false ∧
    (let u := sCopy.setCur { sCopy.cur with sealedBatches := [7] }
     let w := u.setLp 0 { u.lp 0 with batches := [⟨0, 0, 0, 7, 0, 1, 0, 0, true, false, 1, 0, none, 0, []⟩] }
     (w.unfinished w.focus).contains 7 = true) := by decide +kernel

/-- A context of launch 0 that core 0 sends to core `n`. -/
def travels (n : Nat) : Travel := ⟨0, [], n, 0, 0, 0, 0, none, 0, none⟩

theorem witness_Travelling : lookupNumber (BitVec.ofNat 64 1) = some 1 ∧ sTask.cur.wayOpen = false ∧ (sTask.slot 0 0).isSome = true ∧
    (let u := { sTask.setPart 0 { sTask.part 0 with admitted := true } with fabric := { sTask.fabric with domain := [0, 1] } }
     moduleOfNumber (travels 4096).dst ≠ u.module ∧ u.admits 1 (travels 4096).key = true) ∧
    (let u := sTask.setLp 0 { sTask.lp 0 with arrivals := List.replicate maxArrivals (travels 0) }
     u.holdsLaunch 0 (travels 0) = true ∧ (u.lc 0).stalled = [] ∧ (u.lc 0).spill.length < maxSpill ∧ maxArrivals ≤ (u.lp 0).arrivals.length) ∧
    (let u := sTask.setLc 0 { sTask.lc 0 with spill := [travels 0] }
     (u.lc 0).spill = [travels 0] ∧ u.holdsLaunch 0 (travels 0) = true ∧ (u.lp 0).arrivals.length < maxArrivals) ∧
    coreIndex (travels 0).src = 0 ∧
    (let u := sTask.setCur { sTask.cur with inbox := some [(migrateMark, natToBytes 8 9)] }
     u.cur.failed = none ∧ u.outboundFull = false ∧ homeNumber (canon (hBase (u.h 1) + (u.mOffset 1 0 8).toNat)) = homeNumber (4 * 2 ^ 48 + 64)) ∧
    (let u := sVault 0
     checkHandle u.cur.sup (u.h 1) (u.mOffset 1 0 8).toNat 8 8 .load true = none ∧ u.cur.inbox = none) := by decide +kernel

/-- Core 0 with one ready task, and slot 0 in the state `x`. -/
def sSlot (x : SlotState) (next : Option Nat) : State := sTask.setLp 0 { sTask.lp 0 with slots := [(0, ⟨0, 0, false, x, 64, 0, true, next⟩)] }

/-- A context of task 0 in the cache or the context area. -/
def saved0 : SavedCtx := { task := 0, tid := 0, visitor := false, ctx := Ctx.reset, asleep := true, rollback := none, seq := 0, slice := 0 }

theorem witness_Swaps : ((sSlot (.saving false) none).slot 0 0).any (fun sl => sl.state = .saving false) = true ∧ ((sSlot (.saving false) none).taskAt 0 0).ds = false ∧
    ((sSlot (.saving false) none).releaseFor (.thread 0 0) true false).1 = true ∧
    (((sSlot (.saving false) none).releaseFor (.thread 0 0) true false).2).onTheWay (.thread 0 0) = false ∧
    ((sSlot .restoring none).slot 0 0).any (fun sl => sl.state = .restoring) = true ∧ sPad.slot 0 0 = none ∧
    (let u := sTask.setLp 0 { sTask.lp 0 with slots := [], tasks := [(0, { Task.reset with valid := true, ready := true, n := 1, unstarted := [0] })] }
     (u.refreshReady 0).readyOrder 0 = [0] ∧ (u.refreshReady 0).repartitioning 0 = false) ∧
    (sPad.refreshReady 0).readyOrder 0 = [] ∧ ({ sPad with gang := { sPad.gang with suspended := [(sPad.lp 0).key] } } : State).gang.suspended.contains (sPad.lp 0).key = true := by
  decide +kernel
theorem witness_Caches : (let u := sTask.setLp 0 { sTask.lp 0 with area := [saved0] }
     (u.lp 0).area.filter (fun x => x.task = 0 && x.tid % 16 = 0 % 16 && x.visitor == decide (32 ≤ 0)) = [saved0] ∧
     (((u.lp 0).cache ++ [saved0]).map cacheUse).sum ≤ maxContextCache) ∧
    (let u := sTask.setLp 0 { sTask.lp 0 with cache := List.replicate maxContextCache saved0 }
     maxContextCache ≤ ((u.lp 0).cache.map cacheUse).sum ∧ (u.lp 0).cache ≠ []) ∧ ((sTask.lp 0).cache.map cacheUse).sum < maxContextCache ∧
    (let u := sTask.setLp 0 { sTask.lp 0 with cache := [saved0], watch := [(0, 0, 64)] }
     ∃ y ∈ (u.lp 0).cache, ∃ w ∈ (u.lp 0).watch, w.2.2 = 64 ∧ w.2.1 = y.code) := by decide +kernel

/-- A launch whose one task has ended. -/
def launch0 : Launch := ⟨0, none, none, 1, 1, 1, 0, 0, 0, 0, true, none, 0, []⟩

theorem witness_LaunchEnds : (let u : State := { sTask with disp := { sTask.disp with launches := [(0, launch0), (1, { launch0 with total := 2 })] } }
     findAt u.disp.launches 0 = some launch0 ∧ launch0.total ≤ launch0.ended ∧ findAt u.disp.launches 1 = some { launch0 with total := 2 } ∧ findAt u.disp.launches 2 = none) ∧
    (let u := sTask.setLp 0 { sTask.lp 0 with slots := [], tasks := [(0, { Task.reset with valid := true, n := 1, ended := 1 })] }
     u.taskOver 0 0 = true ∧ (u.lp 0).mappings = [] ∧ (∀ e ∈ (u.lp 0).tasks, e.1 = 0) ∧
     (let w := u.setLp 0 { u.lp 0 with mappings := [⟨0, 5, 0, 64, false, 0, false⟩] }
      w.taskOver 0 0 = true ∧ ∃ m ∈ (w.lp 0).mappings, m.tag = (w.taskAt 0 0).tag)) ∧
    (let u := sTask.setCur { sTask.cur with wait := .production 5 }
     (u.slot 0 0).any (fun sl => (u.taskAt 0 sl.task).key = 0) = true ∧ (u.ctx (.thread 0 0)).wait = .production 5) := by decide +kernel

/-- A launch port that takes records, with `q` waiting. -/
def port1 (q : List (BitVec 512)) : LaunchPort := { LaunchPort.reset with en := true, queue := q }

theorem witness_Ports : (let u : State := { sPad with disp := { sPad.disp with ports := [(0, port1 [BitVec.allOnes 512])], launches := [] } }
     (getAt u.disp.ports 0 LaunchPort.reset).queue = [BitVec.allOnes 512] ∧ u.heldOnPort 0 = none ∧ recC (BitVec.allOnes 512) = true ∧ recC (0 : BitVec 512) = false) ∧
    16 ≤ (port1 (List.replicate 16 0)).queue.length ∧ LaunchPort.reset.en = false ∧
    (let u : State := { sPad with disp := { sPad.disp with companions := [(some 0, none, 0)], holds := [(0, 5)] } }
     u.heldOnPort 0 = some 0 ∧ findAt u.disp.holds 0 = some 5) ∧
    (let i : Issue := ⟨some (.thread 0 0), 0, none⟩
     let u : State := { sPad with disp := { sPad.disp with issued := [i] } }
     u.disp.issued = [i] ∧ (u.ctx (.thread 0 0)).companion = none ∧ recC i.record = false) ∧ sPad.disp.issued = [] ∧
    (sPad.recordFault 0 (BitVec.allOnes 512) none).isSome = true ∧ sPad.freeTag.isSome = true ∧
    (let u := sPad.setCur { sPad.cur with inbox := some [(0, natToBytes 8 1)], companion := some 0 }
     u.cur.inbox = some [(0, natToBytes 8 1)] ∧ u.cur.companion = some 0) ∧
    (let u : State := { sPad with disp := { sPad.disp with producers := List.replicate maxProducers ⟨0, 65536, 1, none⟩ } }
     maxProducers ≤ (u.disp.producers.filter fun p => p.key = u.curKey).length) := by decide +kernel
theorem witness_Binds : sPad.placementOk (bindOf 0) = true ∧ (getAt ({ sPad.disp with slotTable := [(0, [0])] } : Dispatch).slotTable 0 []) = [0] ∧ (bindOf 0).kind ≠ 1 ∧
    getAt sPad.disp.slotTable 0 [] = [] ∧
    (let u := sPad.setLp 0 { sPad.lp 0 with mappings := [⟨0, 5, 0, 64, false, 0, false⟩] }
     (u.lp 0).mappings ≠ []) ∧
    (let u := sLine
     (u.lp 0).mappings = [] ∧ (((u.lp 0).l1.filter fun l => decide (l.way < 1)).foldl (fun x l => x.evict 0 l) u |>.lp 0).wb ≠ []) := by decide +kernel

/-- `sFed` with a feed of K = 64 of format 9 configured for rows, and all rows at 64. -/
def sSet : State :=
  let s := sFed.setDp 0 { sFed.dp 0 with array := { (sFed.dp 0).array with acfg := ⟨0, BitVec.ofNat 64 (0x3F + 0x1F * 2 ^ 19 + 9 * 2 ^ 14), 0, 0⟩ } }
  s.setCur ((s.cur.writeX 1 64).writeX 2 0)

/-- The bank uses of its feed, and of a tile's rows of 256 bytes, all at 64. -/
def feedUses : List (Nat × Nat) := (List.range 256).flatMap fun l => (List.range 2).map fun x => (1 + l / 8, 64 + l * 0 + 64 * x)
def tileUses : List (Nat × Nat) := (List.range 256).flatMap fun i => (List.range 4).map fun g => (4 + i / 4, 64 + i * 0 + 64 * g)

/-- Whether engine `e` may start for `n` cycles with the uses `us`. -/
def engineOk (s : State) (e n : Nat) (us : List (Nat × Nat)) : Bool :=
  match s.startEngine e n with
  | .ok s1 => (match s1.useBanks 0 us with
    | .ok _ => true
    | .error _ => false)
  | .error _ => false

theorem witness_Feeds : sSet.focus = .bank 0 0 ∧ cfgOk ((sSet.array 0).cfg sSet.now) = true ∧ (((sSet.array 0).cfg sSet.now).extractLsb' 14 5).toNat = 9 ∧
    engineOk sSet 0 32 feedUses = true ∧ (sSet.x 1).toNat % 64 = 0 ∧ (sSet.xg 1 1).toNat % 64 = 0 ∧ 64 + 255 * 0 + 64 * 16 / 8 ≤ 0x200000 ∧
    isMx 9 = false ∧ sSet.poison = [] ∧ (fillsOf (sSet.array 0) true 0).hi ≤ sSet.now := by decide +kernel
theorem witness_FeedTraps : (let u := sSet.setDp 0 { sSet.dp 0 with busy := [(0, sSet.now + 1), (4, sSet.now + 1)] }
     u.now < getAt (u.dp 0).busy 0 0 ∧ u.now < getAt (u.dp 0).busy 4 0) ∧
    (let u : State := { sSet with poison := [sSet.ownAddr sSet.focus 64 / 64] }
     u.poisoned (u.ownAddr u.focus 64) 128 = true) ∧ isMx 0x0D = true ∧ (sSet.cur.writeX 1 65).readX 1 = 65#64 ∧
    (fillsOf (sFed.array 0) true 0).new.map (fun f => (f.mode, f.kpass)) = (fillsOf (sFed.array 0) false 0).new.map (fun f => (f.mode, f.kpass)) ∧
    sFed.cur.mpos.getLsbD 63 = false ∧ (sFed.array 0).msq = none ∧ CellBank.zero.cells = [] ∧ CellBank.zero.hr = [] ∧ CellBank.zero.hc = [] ∧
    (getAt (sFed.array 0).bank 0 ⟨CellBank.zero, CellBank.zero, 0, 0⟩).hi ≤ sFed.now := by decide +kernel
/-- `sFed` with all rows of a tile at 64. -/
def sRow : State := sFed.setCur ((sFed.cur.writeX 1 64).writeX 2 0)

theorem witness_TileRows : (sRow.x 1).toNat % 64 = 0 ∧ (sRow.x 2).toNat % 64 = 0 ∧ engineOk sRow 4 64 tileUses = true ∧ sRow.poison = [] ∧
    ({ sRow with poison := [sRow.accAddr 0 0 / 64] } : State).poisoned (sRow.accAddr 0 0) 0x40000 = true := by decide +kernel

/-- Tiles 0 and 1 in one group, in which tile 1 stands in VCSYN at `y` and at virtual cycle `v`, and asks for the group `g`. -/
def sPair (y v : Nat) (g : Option (BitVec 32)) : State :=
  let s := sFed.setDp 0 { sFed.dp 0 with members := 3#32 }
  let u := s.setDp 1 { s.dp 0 with sync := y, vcc := v, wantGroup := g }
  u.setCur (u.cur.writeX 1 3)

theorem witness_Meetings : (sPair 0 1 none).groupOf 0 = [0, 1] ∧ ((sPair 0 1 none).dp 1).sync ≠ 1 ∧ ((sPair 0 1 none).dp 0).vcc < ((sPair 0 1 none).dp 1).vcc ∧
    ((sPair 1 0 none).dp 1).sync = 1 ∧ ((sPair 0 0 none).dp 1).again = [] ∧ ((sPair 0 0 none).dp 0).lates = [] ∧ (sPair 0 0 none).cur.posted = false ∧
    (sPair 0 0 none).cur.wbacks = 0 ∧ (let u := (sPair 0 0 none).setCur { (sPair 0 0 none).cur with wbacks := 1 }
      u.cur.wbacks ≠ 0) ∧ ((sPair 0 0 none).x 1).setWidth 32 = 3#32 ∧ (3#32).getLsbD 0 = true ∧ ((sPair 0 0 none).x 1).toNat < 2 ^ 32 ∧
    tilesOf 0 3#32 = [0, 1] ∧ (∀ i ∈ [0, 1], (sPair 0 0 none).runsLaunch i ((sPair 0 0 none).task (sPair 0 0 none).focus).tag = true) ∧
    ((sPair 0 0 (some 3#32)).dp 1).wantGroup = some 3#32 ∧ ((sPair 0 0 (some 1#32)).dp 1).wantGroup ≠ some 3#32 ∧
    ((sFed.setDp 0 { sFed.dp 0 with sync := 3 }).dp 0).sync = 3 ∧ (sFed.x 0).getLsbD 0 = false := by decide +kernel

/-- `sFed` with a handler for its bank, a trap due at once, and the bank still at work or not. -/
def sDue : State :=
  let s := sFed.setPart 0 { sFed.part 0 with svpcd := 0x1000#64 }
  s.setDp 0 { s.dp 0 with traps := [{ bank := 0, slot := 0, cause := ⟨0x1A, 0, 7⟩, tinfo := 0, tfmt := 0, tvec := 0, pc := 0, atIssue := false, replay := false, async := false, arrived := false, vcc := 0, batch := none }] }

theorem witness_TrapsDue : sDue.groupOf 0 = [0] ∧ (sDue.dp 0).flights = [] ∧ (sDue.array 0).msq = none ∧ sDue.bankInfo 0 (1 - (sDue.dp 0).active) = none ∧
    (sDue.bankInfo 0 (sDue.dp 0).active).any (fun k => !k.resume) = true ∧ (sDue.dp 0).again = [] ∧ (sDue.dp 0).active < 2 ∧ sDue.groupQuiet 0 = true ∧
    sDue.route (.bank 0 (sDue.dp 0).active) 0x1A = some (0x1000#48, true) ∧ sDue.gang.suspended.contains (sDue.dp 0).key = false ∧
    (∃ e ∈ (sDue.dp 0).traps, e.bank = (sDue.dp 0).active ∧ sDue.ripe e 0 = true) ∧
    (let u := sDue.setDp 0 { sDue.dp 0 with lates := [⟨0, .x 3 0, 0, 0, 0, (0, 0), 0, 0, none, 0, []⟩] }
     u.groupQuiet 0 = false) := by
  refine ⟨by decide +kernel, by decide +kernel, by decide +kernel, by decide +kernel, by decide +kernel, by decide +kernel, by decide +kernel, by decide +kernel, by decide +kernel,
    by decide +kernel, ?_, by decide +kernel⟩
  exact ⟨_, List.mem_singleton.mpr rfl, by decide +kernel, by decide +kernel⟩

/-- `sFed` with a standby context of task priority `n` in bank 1, and bank 0 empty or not. -/
def sBanks (n : Nat) (empty : Bool) : State :=
  let i : BankInfo := ⟨{ Task.reset with valid := true, bprio := n }, 0, false, 0, false, [], [], []⟩
  let j : BankInfo := { i with task := { i.task with bprio := 2 } }
  sFed.setDp 0 { sFed.dp 0 with banks := if empty then [(1, i)] else [(0, j), (1, i)] }

theorem witness_Switches : (sBanks 1 false).reload 0 = sBanks 1 false ∧ (sBanks 1 false).standbyWins 0 = true ∧ (sBanks 1 false).hasStandby 0 = true ∧
    (sBanks 1 false).groupQuiet 0 = true ∧ (sBanks 1 false).bankReleased 0 0 = true ∧ ((sBanks 1 false).bankInfo 0 0).isSome = true ∧ (sBanks 3 false).standbyWins 0 = false ∧
    ((sBanks 1 true).bankInfo 0 0).isNone = true ∧ (sBanks 1 true).hasStandby 0 = true ∧ sFed.hasStandby 0 = false ∧ ((sBanks 1 false).dp 0).sync ≠ 4 ∧
    (sBanks 1 false).gang.suspended.contains ((sBanks 1 false).dp 0).key = false ∧ ((sFed.setDp 0 { sFed.dp 0 with sync := 4 }).dp 0).sync = 4 := by decide +kernel


theorem witness_PartitionKeys : 65536 ≤ (BitVec.ofNat 64 65536).toNat ∧ sPad.focus = .thread 0 0 ∧ (sPad.x 3).toNat < 65536 ∧ sPad.parts.length < 64 ∧
    sPad.otherModules = [] ∧ sPad.gang.removals = [] ∧ moduleOfNumber 4096 ≠ sPad.module ∧ findAt sPad.parts sPad.regs.psel.toNat = none ∧
    (findAt sTraps.parts sTraps.regs.psel.toNat).isSome = true ∧
    (let u : State := { sPad with parts := (List.range 64).map fun i => (i + 1, PartSet.reset) }
     findAt u.parts u.regs.psel.toNat = none ∧ 64 ≤ u.parts.length) := by decide +kernel

/-- A switch of key 8 that this module has started, in phase `p`. -/
def run8 (p : Nat) : GangRun := ⟨8, none, p, 0, none, true, [0], 0, false, false, [], [], [], 0, 0, false, 0⟩

/-- `sPad` with a register set of key 8 whose selbase is set, and that switch. -/
def sGang (p : Nat) : State :=
  let s := sPad.setPart 8 { PartSet.reset with selbase := 64#64 }
  { s with gang := { Gang.reset with runs := [run8 p] } }

theorem witness_GangSwitch : 2 ^ 17 ≤ (BitVec.ofNat 64 131072).toNat ∧ (sPad.x 3).toNat % 65536 = sPad.curKey ∧ (sPad.x 2).toNat % 65536 ≠ sPad.curKey ∧
    ((sGang 0).runOf 8).isSome = true ∧ sPad.runOf 8 = none ∧ sPad.underWay 8 8 = false ∧ (sGang 0).gangBusy = true ∧ sPad.gangBusy = false ∧
    (run8 0).phase = 0 ∧ (run8 0).origin = (sGang 0).module ∧ (run8 0).left = [(sGang 0).module] ∧ (sGang 0).otherModules = [] ∧ (run8 0).status = 0 ∧
    (sGang 0).underWay 8 8 = false ∧ (sGang 0).pageOf1 8 = false ∧ (match (sGang 0).incomingOf 8 with
      | .ok none => true
      | _ => false) = true ∧ (sGang 0).gang.paging = none ∧ (findAt (sGang 0).parts 8).isSome = true ∧ ((sGang 0).part 8).selbase ≠ 0#64 ∧
    (let u := (sGang 1).setLp 0 { LPlane.reset with key := 8, banks := 16, tasks := [(0, { Task.reset with valid := true })] }
     u.stopping 8 = false ∧ u.coreSet 8 = [.lc 0] ∧ (u.lc 0).shadow = none ∧ u.fabric.ports = [] ∧ Memory.wf u.mem = true) ∧
    (0, 1) ∉ (run8 1).markers ∧ (getAt sPad.fabric.ports 0 Port.reset).state ≠ .up ∧ sPad.gang.captured = [] := by decide +kernel
theorem witness_PlanePages : sPad.gangBusy = false ∧ sPad.otherModules = [] ∧ sPad.gang.paging = none ∧ Memory.wf sPad.mem = true ∧
    (let p : PageRun := ⟨8, 1, [0], 0, false, none⟩
     p.moved = false ∧ p.left = [sPad.module] ∧ p.origin = none ∧ p.key < 65536 ∧ p.status = 0 ∧ p.op = 1) ∧
    (∀ i ∈ sPad.gang.images, i.key ≠ 8) := by decide +kernel

/-- A revocation of key 0's first 64 KiB. -/
def rev0 (w : Who) : Revocation := ⟨0, 0, 65535, 4, w, 0⟩

theorem witness_RevocationsAndRegisters : sPad.agenda.any (inFlight sPad.module (.lc 0) (rev0 .host)) = false ∧
    (let u : State := { sPad with revs := [⟨rev0 .host, [.lc 0], [], 0, [], none⟩] }
     u.revs = [⟨rev0 .host, [.lc 0], [], 0, [], none⟩] ∧ (∀ v ∈ u.revs, v.rev = rev0 .host → v.origin = none)) ∧ (rev0 .host).who = .host ∧
    sPad.keyOut 0 = false ∧ ((sPad.setCur { sPad.cur with wait := .completion 0x27 }).ctx (.thread 0 0)).wait = .completion 0x27 ∧
    (1#64).getLsbD 0 = true ∧ sPad.regs.rvScope.toNat = 4 ∧ sPad.regs.rvBsy = false ∧ sPad.regs.rvLen = 0#64 ∧
    (sPad.regs.nqtail - sPad.regs.nqhead).toNat < ((1#64).setWidth 12 - sPad.regs.nqhead).toNat ∧
    ((0#64).setWidth 11 - sPad.regs.fqhead).toNat ≤ (sPad.regs.fqtail - sPad.regs.fqhead).toNat ∧ sPad.regs.decay = 0#32 ∧
    ((sLine.lp 0).l1.find? fun l => Machine.setOf l.line = 1 && l.way = 0).isSome = true ∧ (sTraps.putPart 0 6 0#64).isSome = true := by decide +kernel

/-- Port 0 up, expecting flit 0. -/
def sLink : State := sPad.setPort 0 { Port.reset with state := .up }

/-- A packet of channel `vc` from module 1 to module `m` with sequence number `n`. -/
def packetTo (m vc n : Nat) : Packet := ⟨m * 4096, 4096, 0, 0, vc, 0, 0, 0, 0, n, 0, .commit (.thread 1 0), 0⟩

theorem witness_LinkSteps : (getAt sLink.fabric.ports 0 Port.reset).state = .up ∧ (getAt sLink.fabric.ports 0 Port.reset).expect = 0 ∧
    (getAt sPad.fabric.ports 0 Port.reset).state ≠ .up ∧ (getAt sLink.fabric.ports 0 Port.reset).failed.getLsbD 7 = false ∧
    (carriedSet 0 0).isSome = true ∧ sLink.fabric.held = [] ∧ moduleOfNumber (packetTo 0 1 0).dst = sLink.module ∧ moduleOfNumber (packetTo 2 1 0).dst ≠ sLink.module ∧
    (packetTo 0 1 0).seq = getAt sLink.fabric.seqIn (seqIndex 1 0 1) 0 ∧ ((packetTo 0 1 5).seq + 65536 - 0) % 65536 < 2 ^ 15 ∧
    2 ^ 15 ≤ ((packetTo 0 1 32768).seq + 65536 - 0) % 65536 ∧ sLink.fabric.waiting[0]? = none := by decide +kernel
theorem witness_LinkSteps_body : ∀ k, (packetTo 0 1 0).body ≠ .marker k := by intro k; exact nofun

/-- A module at stage C whose host window is the first 2 GiB. -/
def sHost : State := { sPad with
  regs := { sPad.regs with hwin := BitVec.ofNat 64 (2 * 2 ^ 32) }
  boot := { sPad.boot with stage := 2, powered := true } }

theorem witness_HostAttachment : sHost.regs.hdmCommitted = false ∧ bitsOf 0x0000000200000000 40 32 + bitsOf 0x0000000200000000 8 0 ≤ 384 ∧
    64 + 8 ≤ bitsOf sHost.regs.hwin.toNat 40 32 * 2 ^ 30 ∧ 2 ≤ sHost.boot.stage ∧ sPad.boot.stage < 2 ∧ sHost.regs.nqen = false ∧ sHost.homes.ranges = [] ∧
    spaceOf (bitsOf sHost.regs.hwin.toNat 8 0 * 2 ^ 30 + 64) = 0 ∧ Memory.wf sHost.mem = true ∧ sHost.agenda = [] ∧ (∀ e ∈ sHost.lcs, (sHost.lp e.1).l1 = []) ∧
    sHost.homes.l2 = [] ∧ sHost.homes.heldWrites = [] ∧ sHost.boot.cacheReqs.contains (1, .read) = false := by decide +kernel
theorem witness_BringUp : sHost.boot.powered = true ∧ sPad.boot.powered = false ∧ sHost.boot.fail = 0 ∧ sHost.boot.tripped = false ∧
    (getAt sHost.fabric.ports 0 Port.reset).dis = false ∧ sPad.boot.stage ≠ 1 ∧ ({ sHost.boot with stage := 1 } : Boot).stage = 1 := by decide +kernel

/-- A batch of thread 0 of core 0, known by `n`, in state `st` with `k` commands left. -/
def batch0 (n st k : Nat) (shut : Bool) : Batch := ⟨0, 0, 0, n, 0, st, 0, 0, shut, false, k, 0, none, 0, []⟩

/-- `sCopy` with these batches and a queue of `k` commands. -/
def sQueue (bs : List Batch) (k : Nat) : State := sCopy.setLp 0 { sCopy.lp 0 with
  batches := bs
  copyQ := List.replicate k cmdL }

theorem witness_CopyQueues : (sQueue [batch0 0 0 0 false] 16).focus = .thread 0 0 ∧ 16 ≤ ((sQueue [batch0 0 0 0 false] 16).copies 0).length ∧
    (sCopy.x 3 + BitVec.ofNat 64 (1 * 128)).toNat % 128 = 0 ∧
    ((sCopy.x 1 + BitVec.ofNat 64 0).toNat % 128 ≠ 0) ∧
    (∀ st ∈ [0, 3], (sQueue [batch0 0 st 0 false] 0).batch (.thread 0 0) 0 = some (batch0 0 st 0 false)) ∧
    descReserved 0xA0 (descL ||| BitVec.ofNat 1024 (2 ^ 1000)) = true ∧
    (let u := sCopy.setCur { sCopy.cur with ncmd := 65536 }
     65536 ≤ u.cur.ncmd ∧ (sBuf.releaseFor sBuf.focus true false).1 = false) ∧
    (let u := { sCopy with poison := [sCopy.ownAddr sCopy.focus 0 / 64] }
     u.poisoned (u.ownAddr u.focus 0) 128 = true) := by decide +kernel

/-- A command of edge engine `g` that core 0 has to hand over. -/
def cmdE (g tries : Nat) : CopyCmd := { cmdL with edge := some g, tries := tries }

theorem witness_Edges : (let u := sCopy.setLp 0 { sCopy.lp 0 with copyQ := [cmdE 576 1] }
     (u.copies (engineNo (.lc 0))).find? (fun x => x.id = 1) = some (cmdE 576 1) ∧ (u.copies 576).length < 64 ∧ u.gang.suspended.contains cmdL.key = false) ∧
    (let u : State := { sCopy.setLp 0 { sCopy.lp 0 with copyQ := [cmdE 576 1] } with edges := [(576, List.replicate 64 cmdL)] }
     64 ≤ (u.copies 576).length) ∧ (sCopy.copies 0).find? (fun x => x.id = 1) = none ∧ sCopy.stopped 0 = none ∧ sCopy.nextCopy 0 = none ∧
    ((0x0100#64).extractLsb' 8 8).toNat ≠ 0 ∧ ((0x0100#64).extractLsb' 8 8).toNat ≤ (cmdE 576 1).tries ∧ (cmdE 576 1).edge.isSome = true ∧
    (let k : CopyCmd := { cmdL with top := 0xB0 }
     let u := sCopy.setLp 0 { sCopy.lp 0 with copyQ := [k] }
     (u.copies 0).filter (fun x => x.id = 1) = [k] ∧ k.fault = none ∧ Memory.wf u.mem = true) ∧ (∃ k : CopyCmd, k = { cmdL with fault := some (6, 0) } ∧ k.top ≠ 0xB0) := by
  refine ⟨by decide +kernel, by decide +kernel, by decide +kernel, by decide +kernel, by decide +kernel, by decide +kernel, by decide +kernel, by decide +kernel, by decide +kernel, _, rfl, ?_⟩
  decide +kernel
theorem witness_Batches : (∀ st ∈ [1, 2, 3, 5], (match (sQueue [batch0 7 st 0 true] 0).tokenBatch (BitVec.ofNat 64 (2 ^ 30 + 7)) with
      | .ok (some b) => decide (b.state = st) && decide (b.left = 0)
      | _ => false) = true) ∧
    (match (sQueue [] 0).tokenBatch (BitVec.ofNat 64 (2 ^ 30 + 7)) with
     | .ok none => true
     | _ => false) = true ∧
    (let u := (sQueue ((List.range 32).map fun i => batch0 (100 + i) 1 1 true) 0)
     let v := u.setCur { u.cur with sealedBatches := (List.range 32).map (100 + ·) }
     let w := v.setLp 0 { v.lp 0 with batches := (v.lp 0).batches ++ [batch0 0 0 1 false] }
     32 ≤ (w.unfinished w.focus).length ∧ (w.batch w.focus w.cur.openBatch).any (fun b => !b.isSealed && !b.sealUp.finished) = true ∧
     w.sealedReport w.focus = none ∧ (w.resumeBatches w.focus fun b => b.isSealed).focus = w.focus) ∧
    (sQueue [batch0 7 5 1 true] 0).stillStopping (.thread 0 0) = true ∧ (sQueue [batch0 7 5 0 true] 0).stillStopping (.thread 0 0) = false := by decide +kernel

theorem witness_KeyRemovals : (∀ r ∈ sPad.gang.removals, r.key = 0 → sPad.module ∉ r.left) ∧ (∀ w ∈ sPad.homes.waiting, w.2.key ≠ 0) ∧
    (let u : State := { sPad with fabric := { sPad.fabric with domain := [0, 1] } }
     u.otherModules = [1]) ∧ (findAt sTraps.parts 0).isSome = true ∧ sPad.focus = .thread 0 0 := by decide +kernel

theorem witness_GangSteps : (run8 0).phase = 0 ∧ (sGang 0).runOf 8 = some (run8 0) ∧ (sGang 2).runOf 8 = some (run8 2) ∧ (run8 2).phase = 2 ∧ (sGang 0).stopping 8 = false ∧
    ({ sGang 1 with disp := { (sGang 1).disp with issued := [⟨some (.thread 0 0), 0, none⟩] }, agenda := [] } : State).stopping 0 = true ∧
    (let p : PageRun := ⟨8, 1, [0], 0, false, none⟩
     let u : State := { sGang 0 with gang := { (sGang 0).gang with paging := some p } }
     u.pageOf1 8 = true ∧ u.pageOf1 9 = false ∧ u.gang.paging.isSome = true) ∧
    (let u : State := { sGang 0 with gang := { (sGang 0).gang with runs := [run8 0, { run8 0 with out := 9, incoming := some 8 }] } }
     u.underWay 8 8 = true ∧ u.runOf 8 = some (run8 0)) ∧
    (let u := (sGang 0).setPart 8 PartSet.reset
     (findAt u.parts 8).isSome = true ∧ (u.part 8).selbase = 0#64) ∧
    (let u : State := { sGang 0 with fabric := { (sGang 0).fabric with ports := [(0, { Port.reset with state := .up })] } }
     (getAt u.fabric.ports 0 Port.reset).state = .up ∧ 1 ∉ (run8 2).gone) ∧ ((sGang 0).usablePorts 0 8) = [] := by decide +kernel
theorem witness_Reinjection : (∀ r ∈ (sPad.resumeKey 8).gang.runs, r.incoming ≠ some 8) ∧ sPad.gang.captured = [] ∧ sPad.gang.inLink = [] ∧
    sPad.agenda.any (sPad.belongs 8) = false ∧ sPad.homes.heldWrites = [] ∧
    (let u : State := { sGang 3 with gang := { (sGang 3).gang with runs := [{ run8 3 with out := 9, incoming := some 8 }] } }
     (u.resumeKey 8).gang.runs.find? (fun r => r.incoming = some 8) = some { run8 3 with out := 9, incoming := some 8 }) ∧
    (let u : State := { sPad with homes := { sPad.homes with heldWrites := [(0, { loadAt 0 with key := 8 })] } }
     ∃ w ∈ u.homes.heldWrites, w.2.key = 8) := by decide +kernel

/-- `sPad` with a page command of key 8 under way, and an image of that key without planes. -/
def sPage (op status : Nat) (moved : Bool) : State := { sPad with gang := { Gang.reset with
  paging := some ⟨8, op, [0], status, moved, none⟩
  images := [⟨8, true, [], [], PartSet.reset, 0, []⟩] } }

theorem witness_Pages : (sPage 1 0 true).gang.paging = some ⟨8, 1, [0], 0, true, none⟩ ∧ (sPage 2 0 false).gang.paging = some ⟨8, 2, [0], 0, false, none⟩ ∧
    (sPage 1 2 false).gang.paging = some ⟨8, 1, [0], 2, false, none⟩ ∧ [0] = [(sPage 1 0 false).module] ∧ sPad.gang.paging = none ∧ [0, 1].erase sPad.module ≠ [] ∧
    ((sPage 2 0 false).gang.images.find? fun i => i.key = 8 && (sPage 2 0 false).imageAt i).isSome = true := by decide +kernel

/-- The run of `rev0` that awaits the cores `us`, of which `todo` have not applied it. -/
def revRun (w : Who) (us todo : List CoreRef) : RevRun := ⟨rev0 w, us, todo, 0, [], none⟩

theorem witness_RevocationEnds : (let u : State := { sPad with revs := [revRun (.agent (.thread 0 0)) [.lc 0] []] }
     let v := u.setCur { u.cur with wait := .completion 0x29, opnd := (0, 0) }
     v.revs.find? (fun x => x.rev = rev0 (.agent (.thread 0 0))) = some (revRun (.agent (.thread 0 0)) [.lc 0] []) ∧ v.waitsFor (.thread 0 0) 0x29 = true ∧
     (v.ctx (.thread 0 0)).opnd.2 ≠ 1#3 ∧ v.keyOut 0 = false ∧ v.agenda.any (inFlight v.module (.lc 0) (rev0 (.agent (.thread 0 0)))) = false ∧
     v.coreBusy (.lc 0) (rev0 (.agent (.thread 0 0))) = false) ∧
    (let u := sPad.setCur { sPad.cur with wait := .completion 0x29, opnd := (0, 1) }
     u.waitsFor (.thread 0 0) 0x29 = true ∧ (u.ctx (.thread 0 0)).opnd.2 = 1#3) ∧
    (let u : State := { sPad with agenda := [.homeRequest { loadAt 0 with key := 0 }] }
     u.agenda.any (inFlight u.module (.lc 0) (rev0 .host)) = true) ∧
    (let u : State := { sPad with gang := { sPad.gang with suspended := [0] } }
     u.keyOut 0 = true) ∧
    (let v : RevRun := ⟨rev0 .host, [.lc 0], [.lc 0], 0, [], none⟩
     ∀ x ∈ v.todo, x = .lc 0) ∧
    (let r : Regs := { sPad.regs with rvScope := 4, rvLen := 1 }
     r.rvLen ≠ 0#64 ∧ r.rvBsy = false ∧ r.rvScope.toNat = 4) ∧ (∀ x ∈ sPad.revs, x.rev.id ≠ 0) ∧ sPad.waitsFor (.thread 0 0) 0x29 = false := by decide +kernel
theorem witness_RegisterWrites : ((sPad.regs.nqtail.setWidth 12 - sPad.regs.nqhead).toNat ≤ (sPad.regs.nqtail - sPad.regs.nqhead).toNat) ∧
    (let q : Regs := { sPad.regs with decay := 1 }
     q.decay ≠ 0#32) ∧ (match (sLine.lp 0).l1.find? fun l => Machine.setOf l.line = 1 && l.way = 0 with
      | some l => decide (l.lock = 0) && decide (l.dirty ≠ 0#64) && decide (moduleOf (l.line * 64) = sLine.module)
      | none => false) = true ∧ (sFill.lp 0).l1.any (fun l => Machine.setOf l.line = 1 && l.way = 0 && l.lock ≠ 0) = true ∧ 2 ≤ sHost.boot.stage ∧
    (BitVec.ofNat 64 (2 ^ 17)).extractLsb' 17 45 ≠ 0#45 ∧ (8#64).extractLsb' 17 47 = 0#47 := by decide +kernel

theorem witness_Flits : (let f : Flit := ⟨0, 1, none⟩
     f.num = (getAt sLink.fabric.ports 0 Port.reset).expect ∧ f.pkt = none) ∧
    (let q : Port := { Port.reset with state := .up, expect := 5 }
     (4 : Nat) < q.expect ∧ q.state = .up) ∧ ({ Port.reset with state := .training, width := 2 } : Port).state = .training ∧ (getAt sLink.fabric.ports 0 Port.reset).width < 2 ∧
    carriedSet 3 4000 = none ∧ Port.reset.dis = false ∧ ({ Port.reset with dis := true } : Port).dis = true ∧
    (let p : Packet := { packetTo 0 1 0 with body := .marker 8 }
     p.body = .marker 8 ∧ (sGang 2).runOf 8 = some (run8 2) ∧ (run8 2).markers.contains (0, p.vc) = false ∧ sLink.runOf 8 = none) ∧
    (let e : Nat × Packet := (0, packetTo 0 1 5)
     let u : State := { sLink with fabric := { sLink.fabric with held := [e], waiting := [packetTo 1 0 0, packetTo 1 1 0, packetTo 1 2 0, packetTo 1 4 0] } }
     u.fabric.held = [e] ∧ seqIndex (moduleOfNumber e.2.src) (moduleOfNumber e.2.dst) e.2.vc = seqIndex 1 0 1 ∧ e.2.seq < 65536 ∧
     (∀ k < 3, (u.fabric.waiting[k]?).any (fun p => p.vc = k) = true) ∧ u.admits (moduleOfNumber (packetTo 1 4 0).dst) 0 = false) := by decide +kernel

/-- An access of the host to eight bytes of its window. -/
def access (w : Bool) : HostAccess := ⟨w, 64, 8, if w then List.replicate 8 1#8 else []⟩

/-- `sHost` whose cache has asked for line 5, with a write held for it. -/
def sAsked (k : CacheReq) : State := { sHost with
  boot := { sHost.boot with cacheReqs := [(5, k)], backInvalidates := [7] }
  homes := { sHost.homes with heldWrites := [(5, loadAt 320)] } }

theorem witness_HostAccesses : (access true).addr + (access true).data.length ≤ bitsOf sHost.regs.hwin.toNat 40 32 * 2 ^ 30 ∧ sHost.module < 4096 ∧
    (access false).data = [] ∧ (access false).write = false ∧ (access true).write = true ∧ bitsOf sPad.regs.hwin.toNat 40 32 * 2 ^ 30 < 72 ∧
    (∀ l ∈ sHost.homes.l2, spaceOf (l.line * 64) ≠ 5) ∧
    (let u : State := { sHost with homes := { sHost.homes with l2 := [⟨5, true, true⟩] } }
     (u.gatherLine 5).homes.l2.find? (fun l => l.line = 5) = some ⟨5, true, true⟩) ∧ (sHost.gatherLine 5).homes.l2.find? (fun l => l.line = 5) = none ∧
    (∀ k ∈ [CacheReq.read, .own, .writeBack], (sAsked k).boot.cacheReqs.contains (5, k) = true) ∧ (sAsked .read).boot.backInvalidates.contains 7 = true ∧
    ¬ (∀ w ∈ (sAsked .read).homes.heldWrites, w.1 ≠ 5) ∧ (sAsked .read).homes.l2.length < 16 ∧ (List.replicate 64 (1#8 : Byte)).length = 64 ∧
    sHost.boot.backInvalidates.contains 5 = false := by decide +kernel
theorem witness_Health : sPad.l1Place 0 = none ∧ (sPad.l1Place (4 * 2 ^ 48 + 0x40000)).isSome = true ∧ (96 : Nat) > 95 ∧ ¬ (110 < 110) ∧
    ({ sPad.boot with powered := true } : Boot).stage = 0 ∧ sPad.boot.tripped = false ∧ sPad.boot.fail = 0 ∧ sPad.boot.powered = false := by decide +kernel

end Sys2Proof.Tests
end

section
/-! SUPPORT. When an instruction completes and when it stops the machine, and which of a turn and a due step one step makes (R2, R161, R203). -/

namespace Sys2Proof.Machine

/-! ### Outcomes that are a next state under a condition, and a fault without it -/

/-- A meaning that answers a next state exactly where `p` holds, and stops with a fault elsewhere; it never refuses. -/
def AnswersWhen (p : Prop) (o : Out) : Prop := (p → ∃ t, o = .next t) ∧ (¬p → ∃ f, o = .fault f)

theorem AnswersWhen.next {p : Prop} (hp : p) (t : State) : AnswersWhen p (.next t) :=
  ⟨fun _ => ⟨t, rfl⟩, fun hn => absurd hp hn⟩

/-- A meaning that first looks whether what it names is missing. -/
theorem AnswersWhen.guard {p c : Prop} [Decidable c] (hc : c ↔ ¬p) (f : Fault) (t : State) :
    AnswersWhen p (if c then .fault f else .next t) := by
  by_cases hp : p
  · rw [if_neg fun h => hc.mp h hp]
    exact .next hp t
  · rw [if_pos (hc.mpr hp)]
    exact ⟨fun h => absurd h hp, fun _ => ⟨f, rfl⟩⟩

/-- A meaning that completes under either answer to a question. -/
theorem AnswersWhen.ite {p c : Prop} [Decidable c] {a b : Out} (ha : AnswersWhen p a) (hb : AnswersWhen p b) :
    AnswersWhen p (if c then a else b) := by
  split
  · exact ha
  · exact hb

/-! ### Meanings that choose between several next states -/

theorem execRevocationComplete_answers (r : Revocation) (s : State) : AnswersWhen True (execRevocationComplete r s) :=
  .ite (.next trivial _) (.next trivial _)

/-- Every value of gcmd is a command or sets ER (R391). -/
theorem State.gangCommand_answers (s : State) (v : BitVec 64) : AnswersWhen True (s.gangCommand v) := by
  refine .ite (.next trivial _) (.ite (.next trivial _) ?_)
  split
  case h_1 => exact .next trivial _
  case h_2 => exact .next trivial _
  case h_3 => exact .next trivial _
  case h_4 => exact .next trivial _

theorem State.partitionWrite_answers (s : State) (ofs : Nat) (v : BitVec 64) : AnswersWhen True (s.partitionWrite ofs v) :=
  .ite (.next trivial _) <|
  .ite (.ite (.next trivial _) (.ite (.next trivial _) (.next trivial _))) <|
  .ite (.next trivial _) (.next trivial _)

/-- A write of BAR 2 completes at every offset, one without a register included (R9). -/
theorem State.barWrite_answers (s : State) (ofs : Nat) (v : BitVec 64) : AnswersWhen True (s.barWrite ofs v) :=
  .ite (.next trivial _) <|  -- launch ports
  .ite (.next trivial _) <|  -- gimg
  .ite (s.gangCommand_answers v) <|
  .ite (.next trivial _) <|  -- gstat
  .ite (.next trivial _) <|  -- hwin
  .ite (.next trivial _) <|  -- host errors
  .ite (.next trivial _) <|  -- hstat
  .ite (.next trivial _) <|  -- the revocation port's GO
  .ite (.next trivial _) <|  -- its other registers
  .ite (s.partitionWrite_answers _ v) (.next trivial _)

theorem execRegisterWrite_answers (space : RegSpace) (key : Option Nat) (ofs : Nat) (value : BitVec 64) (s : State) :
    AnswersWhen True (execRegisterWrite space key ofs value s) := by
  cases space with
  | control => exact .next trivial _
  | bar2 => exact s.barWrite_answers ofs value

/-! ### Every instruction -/

/-- An instruction completes where the unit that it names is there, and stops the machine where it is not (log 96). The cases written out are
the steps that look for a port, lane, die or host address, and the two meanings that choose between answers; the meaning of every other
instruction is one `.next`. -/
theorem exec_answersWhen_unitThere (s : State) (i : Instr) : AnswersWhen (s.unitThere i) (exec i s) := by
  cases i with
  | packetArrival port p => exact .guard Nat.not_lt.symm _ _
  | flitArrival port crcOk f => exact .guard Nat.not_lt.symm _ _
  | flitAck port num => exact .guard Nat.not_lt.symm _ _
  | flowControlSignal port vc stop => exact .guard Nat.not_lt.symm _ _
  | replayTimeout port => exact .guard Nat.not_lt.symm _ _
  | retrainComplete port rtt => exact .guard Nat.not_lt.symm _ _
  | lctlFullRetrain port => exact .guard Nat.not_lt.symm _ _
  | lctlDisable port dis => exact .guard Nat.not_lt.symm _ _
  | launchPortRecord port record whole => exact .guard Nat.not_lt.symm _ _
  | dispatchPlacement die record => exact .guard Nat.not_lt.symm _ _
  | hostWindowAccess a => exact .guard Nat.not_le.symm _ _
  | laneFailure port lane =>
    have missing : 16 ≤ port ∨ 8 ≤ lane ↔ ¬(port < 16 ∧ lane < 8) := by omega
    exact .guard missing _ _
  | revocationComplete r => exact execRevocationComplete_answers r s
  | registerWrite space key ofs value => exact execRegisterWrite_answers space key ofs value s
  | _ => exact .next trivial _

/-! ### Which of a turn and a due step one step makes -/

/-- A step that comes before every turn of its cycle is made when it is the oldest that is due: a timer sets Y before a WAIT (R203, R335). -/
theorem step_of_comesFirst {s : State} {i : Instr} {rest : List Instr} (due : s.agenda = i :: rest) (first : comesFirst i = true) :
    step s = s.unitStep i rest := by
  simp [step, State.oneStep, due, first]

/-- Any other due step waits for an agent's turn or goes before it, as a free choice says (log 4). -/
theorem step_of_not_comesFirst {s : State} {i : Instr} {rest : List Instr} (due : s.agenda = i :: rest) (late : comesFirst i = false) :
    step s = if s.freeBool.1 then s.freeBool.2.turnStep else s.freeBool.2.unitStep i rest := by
  simp [step, State.oneStep, due, late]

/-- Settles O6: every arm of `exec` is a next state but for the steps that look for a unit, and one step is a turn or the oldest due step. -/
theorem unitStepRuns : Obligations.UnitStepRuns :=
  ⟨exec_answersWhen_unitThere, fun _ _ _ due => ⟨step_of_comesFirst due, step_of_not_comesFirst due⟩⟩

end Sys2Proof.Machine
end

section
/-! SUPPORT. The rules by which an operation leaves a lookup thread for its site (R42, R162, R262): the line given up, the journal entry taken, and
the request sent; and the operations that are sent so (R269 to R271, R273). -/

namespace Sys2Proof.Machine

/-! ### What an update leaves of the agent in issue -/

theorem State.lp_setLp_ne (s : State) (c i : Nat) (p : LPlane) (h : i ≠ c) : (s.setLp c p).lp i = s.lp i :=
  congrArg LCore.plane (State.lc_setLc_ne s c i _ h)

/-- What a slot runs is told by the slots and the tasks of its core's plane. -/
theorem State.task_setLp (s : State) (c : Nat) (p : LPlane) (a : Agent) (hs : p.slots = (s.lp c).slots) (ht : p.tasks = (s.lp c).tasks) :
    (s.setLp c p).task a = s.task a := by
  cases a with
  | bank j b => rfl
  | thread i t =>
    by_cases hi : i = c
    · subst hi
      simp only [State.task, State.slot, State.lp_setLp, hs, ht]
    · simp only [State.task, State.slot, State.lp_setLp_ne s c i p hi]

theorem State.key_setLp (s : State) (c : Nat) (p : LPlane) (a : Agent) (hs : p.slots = (s.lp c).slots) (ht : p.tasks = (s.lp c).tasks) :
    (s.setLp c p).key a = s.key a :=
  congrArg Task.key (s.task_setLp c p a hs ht)

/-- A request of the instruction in issue names what its context, its core and its key are, and nothing else of the state. -/
theorem State.requestOf_congr {s u : State} {op : ReqOp} {pa n : Nat} {bs : List Byte} {d : Dest} {j : Option Nat} {acq : Bool}
    (hf : u.focus = s.focus) (hm : u.module = s.module) (hk : u.curKey = s.curKey) (hh : u.cur.h = s.cur.h)
    (hw : u.cur.wayOpen = s.cur.wayOpen) (ho : u.cur.opnd = s.cur.opnd) : u.requestOf op pa n bs d j acq = s.requestOf op pa n bs d j acq := by
  simp [State.requestOf, State.coreNo, State.h, Ctx.readH, hf, hm, hk, hh, hw, ho]

/-- Two contexts with the same handles, waypoint and operand send the same requests. -/
theorem State.requestOf_setCur {s : State} {c k : Ctx} (hh : c.h = k.h) (hw : c.wayOpen = k.wayOpen) (ho : c.opnd = k.opnd) (op : ReqOp) (pa n : Nat)
    (bs : List Byte) (d : Dest) (j : Option Nat) (acq : Bool) :
    (s.setCur c).requestOf op pa n bs d j acq = (s.setCur k).requestOf op pa n bs d j acq :=
  State.requestOf_congr rfl rfl rfl (by simpa using hh) (by simpa using hw) (by simpa using ho)

/-- The word of a lookup thread completes by moving its context on. -/
theorem State.complete_thread {s : State} {c t : Nat} (hf : s.focus = .thread c t) : s.complete = s.setCur (s.cur.advance 4#48) := by
  simp only [State.complete, State.completeFor, hf, State.setCur, State.cur]

/-- A release at core scope with an empty store buffer is done at once (R99). -/
theorem State.releaseFor_narrow {s : State} {c t : Nat} (hf : s.focus = .thread c t) (hb : (s.lp c).sbuf = []) (cm : Bool) :
    s.releaseFor s.focus false cm = (true, s) := by
  simp [State.releaseFor, hf, hb, upToLast, State.drainN]

/-! ### Lines given up, and requests sent -/

/-- The plane of a core that neither holds a line nor is filling its store buffer with it: giving the line up only outdates its fills (R42). -/
theorem State.flushLine_absent {s : State} {c line : Nat} (hb : (s.lp c).sbuf = []) (hl : l1Find (s.lp c) line = none) :
    s.flushLine c line = s.setLp c ((s.lp c).stale fun x => x = line) := by
  simp [State.flushLine, State.drainLine, hb, upToLast, State.drainN, hl]

theorem State.leaveLine_absent {s : State} {c t pa : Nat} (hf : s.focus = .thread c t) (hb : (s.lp c).sbuf = [])
    (hl : l1Find (s.lp c) (pa / 64) = none) : s.leaveLine pa = s.setLp c ((s.lp c).stale fun x => x = pa / 64) := by
  simp only [State.leaveLine, hf, State.flushLine_absent hb hl]

/-- Bytes of this module wait for no earlier operation of the thread (R91). -/
theorem State.afterLines_here {s : State} {ps : List (Nat × Nat)} (hm : ∀ p ∈ ps, moduleOf p.1 = s.module) (k : State → State) :
    s.afterLines ps k = k s := by
  have noWait : (ps.any fun p => s.behindPosted p.1 p.2) = false := by
    simp only [List.any_eq_false]
    intro p hp
    simp [State.behindPosted, hm p hp]
  have noneAway : (ps.filter fun p => moduleOf p.1 ≠ s.module) = [] := by
    simpa using hm
  simp only [State.afterLines, noWait, noneAway]
  cases s.focus <;> rfl

/-- The step by which a request reaches a site of this module: a tile's window, or a home. -/
def siteStep (r : Request) : Instr := if spaceOf r.pa = 4 then .tileWindowAccess r else .homeRequest r

theorem State.sendRequest_here {s : State} {r : Request} (hm : moduleOf r.pa = s.module) : s.sendRequest r = s.push (siteStep r) := by
  simp only [State.sendRequest, hm, if_true, siteStep]

/-- A line given up changes nothing that a request names. -/
theorem State.requestOf_stale (w : State) (c : Nat) (hit : Nat → Bool) (op : ReqOp) (pa n : Nat) (bs : List Byte) (d : Dest) (j : Option Nat)
    (acq : Bool) : (w.setLp c ((w.lp c).stale hit)).requestOf op pa n bs d j acq = w.requestOf op pa n bs d j acq :=
  State.requestOf_congr rfl rfl (w.key_setLp c _ _ rfl rfl) rfl rfl rfl

/-- An operation on bytes of this module whose line its core does not hold, as the core sends it: the line's fills are outdated, and a step is due at the
site (R42). -/
theorem State.leaveLine_sendRequest {w : State} {c t pa : Nat} (hf : w.focus = .thread c t) (hb : (w.lp c).sbuf = [])
    (hl : l1Find (w.lp c) (pa / 64) = none) {r : Request} (hm : moduleOf r.pa = w.module) :
    (w.leaveLine pa).sendRequest r = (w.setLp c ((w.lp c).stale fun x => x = pa / 64)).push (siteStep r) := by
  rw [State.leaveLine_absent hf hb hl, State.sendRequest_here (by exact hm)]

/-- A request for a result on a line that the core does not hold: it is sent, and the thread waits for its one reply (R162). -/
theorem State.awaitRequest_here {s : State} {c t pa : Nat} (hf : s.focus = .thread c t) (hb : (s.lp c).sbuf = []) (hm : moduleOf pa = s.module)
    (hl : l1Find (s.lp c) (pa / 64) = none) (m : BitVec 3) (o : BitVec 64) (op : ReqOp) (n : Nat) (bs : List Byte) (d : Dest) (acq wide : Bool) :
    ∃ p, s.awaitRequest m o op pa n bs d acq wide =
      (((s.setLp c p).push (siteStep ((s.setCur { s.cur with opnd := (o, m) }).requestOf op pa n bs d none wide))).setCur
        { s.cur with opnd := (o, m), undo := none, wait := .replies 1 }) := by
  refine ⟨(s.lp c).stale fun x => x = pa / 64, ?_⟩
  obtain ⟨k, hk⟩ : ∃ k : Ctx, k = { s.cur with opnd := (o, m), undo := none } := ⟨_, rfl⟩
  have asked : (s.setCur k).requestOf op pa n bs d none wide = (s.setCur { s.cur with opnd := (o, m) }).requestOf op pa n bs d none wide :=
    State.requestOf_setCur (by rw [hk]) (by rw [hk]) (by rw [hk]) op pa n bs d none wide
  have here : ∀ p ∈ [(pa, n)], moduleOf p.1 = (s.setCur k).module := by simpa using hm
  simp only [State.awaitRequest, ← hk]
  rw [State.afterLines_here here, State.leaveLine_sendRequest (by exact hf) (by exact hb) (by exact hl) (by exact hm),
    State.leaveLine_absent (by exact hf) (by exact hb) (by exact hl), State.requestOf_stale, asked]
  simp only [State.await, State.push_focus, State.setLp_focus, State.setCur_focus, hf]
  simp only [State.cur_push, State.cur_setLp, State.cur_setCur]
  exact (State.setCur_setCur ((s.setLp c _).push _) k _).trans (by subst hk; rfl)

/-! ### Posted operations -/

/-- The state in which an instruction in issue has its operand noted, as its requests are made. -/
def State.operand (s : State) (m : BitVec 3) (ofs : BitVec 64) : State := s.setCur { s.cur with opnd := (ofs, m) }

/-- The state in which a posted operation has taken journal entry `j`, with its handle and the bytes that it reaches (R25, R262). -/
def State.entered (s : State) (top : Nat) (m : BitVec 3) (ofs : BitVec 64) (n j : Nat) : State :=
  s.setCur { s.cur with
    journal := setAt s.cur.journal j ⟨s.cur.pc, BitVec.ofNat 8 top, m, ofs, 1, s.cur.wayOpen, s.h m, n, 0, s.cycle⟩
    jpos := j }

/-- The agent in issue, its context, the agenda and memory are as they were. -/
def State.KeepsAgent (s u : State) : Prop := u.focus = s.focus ∧ u.cur = s.cur ∧ u.agenda = s.agenda ∧ u.mem = s.mem

/-- Where an entry is free a posted operation takes it, leaves as `k` says, and its instruction completes (R262). -/
theorem State.postVia_of_free {s : State} {j : Nat} (hj : nextEntry s.cur = some j) (top : Nat) (m : BitVec 3) (ofs : BitVec 64) (n : Nat)
    (k : Nat → State → State) : s.postVia top m ofs n 1 k = (k j (s.entered top m ofs n j)).complete := by
  have free : journalFull s.cur = false := by simp [journalFull, hj]
  simp [State.postVia, State.post, free, State.takeEntry, hj, State.noteHandle, State.entered, State.h, Ctx.readH]

/-- A request under an entry is the one that would be made before it. -/
theorem State.requestOf_entered (s : State) (top : Nat) (m : BitVec 3) (ofs : BitVec 64) (n j : Nat) (op : ReqOp) (pa len : Nat) (bs : List Byte)
    (d : Dest) (e : Option Nat) (acq : Bool) : (s.entered top m ofs n j).requestOf op pa len bs d e acq = s.requestOf op pa len bs d e acq :=
  State.requestOf_congr rfl rfl rfl (by simp [State.entered]) (by simp [State.entered]) (by simp [State.entered])

/-- An instruction sends one request to its site and its thread waits for the reply (R162). -/
def State.Awaits (s : State) (m : BitVec 3) (i : Instr) (ofs : BitVec 64) (op : ReqOp) (pa n : Nat) (bs : List Byte) (dst : Dest) (acq : Bool) : Prop :=
  ∃ u, exec i s = .next u ∧ u.cur = { s.cur with opnd := (ofs, m), undo := none, wait := .replies 1 } ∧
    u.agenda.getLast? = some (.homeRequest ((s.operand m ofs).requestOf op pa n bs dst none acq)) ∧ u.agenda.length = s.agenda.length + 1 ∧ u.mem = s.mem

/-- An instruction sends one request under a journal entry, and its thread goes on (R262). -/
def State.Posts (s : State) (m : BitVec 3) (i : Instr) (top : Nat) (ofs : BitVec 64) (n : Nat) (sent : State → Nat → Instr) : Prop :=
  ∃ u j, exec i s = .next u ∧ nextEntry s.cur = some j ∧
    u.cur = ({ s.cur with
      opnd := (ofs, m)
      journal := setAt s.cur.journal j ⟨s.cur.pc, BitVec.ofNat 8 top, m, ofs, 1, s.cur.wayOpen, s.h m, n, 0, s.cycle⟩
      jpos := j } : Ctx).advance 4#48 ∧
    u.agenda.getLast? = some (sent (s.operand m ofs) j) ∧ u.agenda.length = s.agenda.length + 1 ∧ u.mem = s.mem

theorem State.posts_of_postVia {s : State} {c t : Nat} (hf : s.focus = .thread c t) (hfree : journalFull s.cur = false) {m : BitVec 3} {i : Instr}
    {top n : Nat} {ofs : BitVec 64} {sent : State → Nat → Instr} {k : Nat → State → State}
    (hx : exec i s = .next ((s.operand m ofs).postVia top m ofs n 1 k))
    (hk : ∀ j, ∃ y, k j ((s.operand m ofs).entered top m ofs n j) = y.push (sent (s.operand m ofs) j) ∧
      ((s.operand m ofs).entered top m ofs n j).KeepsAgent y) :
    s.Posts m i top ofs n sent := by
  obtain ⟨j, hj⟩ : ∃ j, nextEntry s.cur = some j := Option.isSome_iff_exists.mp (by simpa [journalFull] using hfree)
  obtain ⟨y, hy, hyf, hyc, hya, hym⟩ := hk j
  have hj' : nextEntry (s.operand m ofs).cur = some j := by
    rw [State.operand, State.cur_setCur]
    exact hj
  rw [State.postVia_of_free hj', hy, State.complete_thread (s := y.push _) (hyf.trans hf)] at hx
  refine ⟨_, j, hx, hj, ?_, ?_, ?_, ?_⟩
  · rw [State.cur_setCur, State.cur_push, hyc]
    simp [State.entered, State.operand, State.h, Ctx.readH]
  · simp [State.push]
  · simp [State.push, hya, State.entered, State.operand]
  · exact hym

/-- The site's step under an entry, sent once the line is given up, leaves the agent as it is. -/
theorem State.leaveLine_posts {w : State} {c t pa : Nat} (hf : w.focus = .thread c t) (hb : (w.lp c).sbuf = [])
    (hl : l1Find (w.lp c) (pa / 64) = none) {r : Request} (hm : moduleOf r.pa = w.module) :
    ∃ y, (w.leaveLine pa).sendRequest r = y.push (siteStep r) ∧ w.KeepsAgent y :=
  ⟨_, State.leaveLine_sendRequest hf hb hl hm, rfl, rfl, rfl, rfl⟩

/-! ### The operations that are sent -/

/-- A line of this module outside the tiles' windows that core `c` does not hold. -/
def State.LineThere (s : State) (c pa : Nat) : Prop :=
  moduleOf pa = s.module ∧ spaceOf pa ≠ 4 ∧ spaceOf pa ≠ 6 ∧ l1Find (s.lp c) (pa / 64) = none

/-- An operation on bytes of this module goes on with its lines at once. -/
theorem State.afterLines_operand {s : State} {m : BitVec 3} {ofs : BitVec 64} {pa n : Nat} (hm : moduleOf pa = s.module) (k : State → State) :
    (s.operand m ofs).afterLines [(pa, n)] k = k (s.operand m ofs) :=
  State.afterLines_here (by simpa [State.operand] using hm) k

@[simp] theorem State.x_operand (s : State) (m : BitVec 3) (ofs : BitVec 64) (r : BitVec 5) : (s.operand m ofs).x r = s.x r := by
  simp [State.operand, State.x, Ctx.readX]

theorem State.afterRelease_none (s : State) (wide : Bool) (k : State → State) : s.afterRelease false wide k = k s := rfl

section
variable {s : State} {c t : Nat} (hf : s.focus = .thread c t) (hb : (s.lp c).sbuf = [])
include hf hb

/-- What follows the checks of an instruction that waits for its request's reply. -/
theorem State.awaits_of_awaitRequest {m : BitVec 3} {i : Instr} {ofs : BitVec 64} {op : ReqOp} {pa n : Nat} {bs : List Byte} {dst : Dest}
    {acq wide : Bool} (hpa : s.LineThere c pa) (hx : exec i s = .next (s.awaitRequest m ofs op pa n bs dst acq wide)) :
    s.Awaits m i ofs op pa n bs dst wide := by
  obtain ⟨hm, h4, -, hl⟩ := hpa
  obtain ⟨p, hp⟩ := State.awaitRequest_here hf hb hm hl m ofs op n bs dst acq wide
  have home : siteStep ((s.operand m ofs).requestOf op pa n bs dst none wide) =
      .homeRequest ((s.operand m ofs).requestOf op pa n bs dst none wide) := if_neg h4
  refine ⟨_, hx.trans (congrArg _ hp), ?_, ?_, ?_, ?_⟩
  · simp
  · rw [← home]; simp [State.push, State.operand]
  · simp [State.push]
  · simp

/-- What follows the checks of a posted operation on one line. -/
theorem State.posts_of_lineThere {m : BitVec 3} {i : Instr} {top n pa : Nat} {ofs : BitVec 64} {r q : State → Nat → Request}
    (hpa : s.LineThere c pa) (hfree : journalFull s.cur = false) (hr : ∀ w j, (q w j).pa = pa)
    (he : ∀ j, r ((s.operand m ofs).entered top m ofs n j) j = q (s.operand m ofs) j)
    (hx : exec i s = .next ((s.operand m ofs).postVia top m ofs n 1 fun j x => (x.leaveLine pa).sendRequest (r x j))) :
    s.Posts m i top ofs n fun w j => .homeRequest (q w j) := by
  obtain ⟨hm, h4, -, hl⟩ := hpa
  refine State.posts_of_postVia hf hfree hx fun j => ?_
  have home : siteStep (q (s.operand m ofs) j) = .homeRequest (q (s.operand m ofs) j) := if_neg (by rwa [hr])
  rw [← home, he]
  exact State.leaveLine_posts (t := t) (w := (s.operand m ofs).entered top m ofs n j) hf hb hl (by rw [hr]; exact hm)

theorem State.awaits_of_atomic {i : Instr} {m : BitVec 3} {a : BitVec 5} {o : BitVec 2} {n top : Nat} {op : ReqOp} {data : List Byte} {k : Access}
    {dst : Dest} (ho : releases o = false) (hpa : s.LineThere c (canon (hBase (s.h m) + (s.x a).toNat)))
    (hc : checkHandle s.cur.sup (s.h m) (s.x a).toNat n n k true = none) (hx : exec i s = .next (s.atomic i m a o n op data k (some dst) top)) :
    s.Awaits m i (s.x a) op (canon (hBase (s.h m) + (s.x a).toNat)) n data dst (acquires o && s.wideScope s.focus) := by
  have hpa' := hpa
  obtain ⟨-, -, h6, -⟩ := hpa'
  simp only [State.atomic, hc, h6, if_false, ho, State.afterRelease_none] at hx
  exact State.awaits_of_awaitRequest hf hb hpa hx

theorem State.posts_of_atomic {i : Instr} {m : BitVec 3} {a : BitVec 5} {o : BitVec 2} {n top : Nat} {op : ReqOp} {data : List Byte} {k : Access}
    (ho : releases o = false) (hfree : journalFull s.cur = false) (hpa : s.LineThere c (canon (hBase (s.h m) + (s.x a).toNat)))
    (hc : checkHandle s.cur.sup (s.h m) (s.x a).toNat n n k true = none) (hx : exec i s = .next (s.atomic i m a o n op data k none top)) :
    s.Posts m i top (s.x a) n fun w j => .homeRequest
      (w.requestOf op (canon (hBase (s.h m) + (s.x a).toNat)) n data .none (some j) false) := by
  have hpa' := hpa
  obtain ⟨hm, -, h6, -⟩ := hpa'
  simp only [State.atomic, hc, h6, if_false, ho, State.afterRelease_none] at hx
  exact State.posts_of_lineThere hf hb hpa hfree (fun _ _ => rfl) (fun _ => State.requestOf_entered ..)
    (hx.trans (congrArg _ (State.afterLines_operand hm _)))

theorem rld_awaits {d a : BitVec 5} {m w : BitVec 3} {o : BitVec 2} {i : BitVec 6}
    (hpa : s.LineThere c (canon (hBase (s.h m) + (s.mOffset a i (widthBytes w)).toNat)))
    (hc : checkHandle s.cur.sup (s.h m) (s.mOffset a i (widthBytes w)).toNat (widthBytes w) (widthBytes w) .load true = none) :
    s.Awaits m (.rld d m a w o i) (s.mOffset a i (widthBytes w)) .load (canon (hBase (s.h m) + (s.mOffset a i (widthBytes w)).toNat)) (widthBytes w) []
      (.x d w) (acquires o && s.wideScope s.focus) := by
  refine State.awaits_of_awaitRequest hf hb (acq := acquires o) hpa ?_
  show execRld d m a w o i s = _
  simp only [execRld, hc]

theorem rst_posts {d a : BitVec 5} {m w : BitVec 3} {o : BitVec 2} {i : BitVec 6} (ho : releases o = false)
    (hpa : s.LineThere c (canon (hBase (s.h m) + (s.mOffset a i (widthBytes w)).toNat))) (hfree : journalFull s.cur = false)
    (hc : checkHandle s.cur.sup (s.h m) (s.mOffset a i (widthBytes w)).toNat (widthBytes w) (widthBytes w) .store true = none) :
    s.Posts m (.rst d m a w o i) 0x2D (s.mOffset a i (widthBytes w)) (widthBytes w) fun v j => .homeRequest
      (v.requestOf .store (canon (hBase (s.h m) + (s.mOffset a i (widthBytes w)).toNat)) (widthBytes w)
        (natToBytes (widthBytes w) (s.x d).toNat) .none (some j) false) := by
  have hpa' := hpa
  obtain ⟨hm, -, -, -⟩ := hpa'
  refine State.posts_of_lineThere hf hb hpa hfree (r := fun v j => v.requestOf .store (canon (hBase (s.h m) + (s.mOffset a i (widthBytes w)).toNat))
    (widthBytes w) (natToBytes (widthBytes w) (v.x d).toNat) .none (some j) false) (fun _ _ => rfl) (fun j => ?_) ?_
  · rw [State.requestOf_entered]
    simp [State.entered, State.operand, State.x, Ctx.readX]
  · show execRst d m a w o i s = _
    simp only [execRst, hc, ho, State.afterRelease_none]
    exact congrArg _ (State.afterLines_operand hm _)

theorem mspost_posts {a b : BitVec 5} {m : BitVec 3} (hfree : journalFull s.cur = false) (hw : s.wideScope s.focus = false)
    (hc : checkHandle s.cur.sup (s.h m) (s.x a).toNat 16 16 .store true = none) (h3 : spaceOf (hBase (s.h m) + (s.x a).toNat) = 3)
    (hm : moduleOf (hBase (s.h m) + (s.x a).toNat) = s.module) :
    s.Posts m (.mspost a b m) 0x32 (s.x a) 16 fun w j => .homeRequest
      (w.requestOf (.contribute (min (s.x b).toNat 0xFFFFFFFFFF)) (hBase (s.h m) + (s.x a).toNat) 16 [] .none (some j) false) := by
  have inVault : s.siteOf (agentCore s.focus) (hBase (s.h m) + (s.x a).toNat) = .vault := by simp [State.siteOf, h3]
  have released := State.releaseFor_narrow hf hb false
  refine State.posts_of_postVia hf hfree (k := fun j x => x.sendRequest
    (x.requestOf (.contribute (min (s.x b).toNat 0xFFFFFFFFFF)) (hBase (s.h m) + (s.x a).toNat) 16 [] .none (some j) false)) ?_ fun j => ?_
  · show execMspost a b m s = _
    simp only [execMspost, State.milestoneVia, hc, milestoneSpace, h3, State.pieceBad, inVault, State.afterRelease, hw, released]
    rfl
  · refine ⟨_, ?_, rfl, rfl, rfl, rfl⟩
    rw [State.requestOf_entered, State.sendRequest_here (by exact hm), siteStep, if_neg (by simp [State.requestOf, h3])]

/-! RADD of one lane. -/

omit hf hb in
/-- An element that is aligned to its own size lies within one piece of an access (R263). -/
theorem pieces_of_aligned {base x : Nat} {ty : BitVec 2} (hx : x % raddBytes ty = 0) :
    pieces base x (raddBytes ty) = [(canon (base + x), raddBytes ty, 0)] := by
  have size : raddBytes ty = 2 ∨ raddBytes ty = 4 := by unfold raddBytes; split <;> simp
  have one : (x + raddBytes ty + 63) / 64 - x / 64 = 1 := by rcases size with h | h <;> rw [h] at hx ⊢ <;> omega
  have lo : max x ((x / 64 + 0) * 64) = x := by omega
  have hi : min (x + raddBytes ty) ((x / 64 + 0 + 1) * 64) = x + raddBytes ty := by rcases size with h | h <;> rw [h] at hx ⊢ <;> omega
  simp only [pieces, one, List.range_one, List.map_cons, List.map_nil, lo, hi, Nat.add_sub_cancel_left, Nat.sub_self]

omit hf hb in
/-- The bytes of one lane are those of its element, and all of them take part (R270). -/
theorem pieceLanes_one (x : Nat) (ty : BitVec 2) (i v : Nat) :
    pieceLanes (raddBytes ty) x (raddBytes ty) [(i, x, v)] = (natToBytes (raddBytes ty) v, List.replicate (raddBytes ty) true) := by
  have size : raddBytes ty = 2 ∨ raddBytes ty = 4 := by unfold raddBytes; split <;> simp
  rcases size with h | h <;> rw [h] <;> simp [pieceLanes, List.range_succ, natToBytes, Nat.div_div_eq_div_mul]

theorem radd_posts {d a : BitVec 5} {m : BitVec 3} {ty : BitVec 2} {q : BitVec 3} (hfree : journalFull s.cur = false)
    (hlanes : s.activeLanes q (8 * raddBytes ty) = [0])
    (hc : checkHandle s.cur.sup (s.h m) (s.x a).toNat (raddBytes ty) (raddBytes ty) .acc true = none) (halign : (s.x a).toNat % raddBytes ty = 0)
    (h6 : spaceOf (hBase (s.h m)) ≠ 6) (hpa : s.LineThere c (canon (hBase (s.h m) + (s.x a).toNat))) :
    s.Posts m (.radd d a m ty q) 0x2C (s.x a) (raddBytes ty) fun w j => .homeRequest
      { w.requestOf (.radd ty) (canon (hBase (s.h m) + (s.x a).toNat)) (raddBytes ty) (natToBytes (raddBytes ty) (laneAt s d (8 * raddBytes ty) 0))
          .none (some j) false with mask := List.replicate (raddBytes ty) true } := by
  have hpa' := hpa
  obtain ⟨hm, -, -, -⟩ := hpa'
  refine State.posts_of_lineThere hf hb hpa hfree (r := fun w j =>
      { w.requestOf (.radd ty) (canon (hBase (s.h m) + (s.x a).toNat)) (raddBytes ty) (natToBytes (raddBytes ty) (laneAt s d (8 * raddBytes ty) 0))
          .none (some j) false with mask := List.replicate (raddBytes ty) true }) (fun _ _ => rfl) (fun j => ?_) ?_
  · dsimp only
    rw [State.requestOf_entered]
  · show execRadd d a m ty q s = _
    have takesPart : ((List.replicate (raddBytes ty) true).any id) = true := by unfold raddBytes; split <;> rfl
    simp only [execRadd, hlanes, List.min?_singleton, List.max?_singleton, Nat.zero_mul, Nat.add_zero, Nat.sub_self, Nat.zero_add, Nat.one_mul, hc,
      pieces_of_aligned halign, List.map_cons, List.map_nil, List.filter_cons, List.filter_nil, pieceLanes_one, takesPart, h6, if_true, if_false,
      List.length_singleton, List.foldl_cons, List.foldl_nil]
    refine congrArg _ ((State.afterLines_operand hm _).trans ?_)
    rw [State.x_operand]
    rfl

end

/-- Settles O30: each operation passes its checks to one of two shapes, a request whose reply is awaited and a request under a journal entry. -/
theorem sentOperations : Obligations.SentOperations := by
  intro s c t d a b m o hf hb ho
  refine ⟨fun z f hpa => ⟨fun hd hc => ?_, fun hc => ?_, fun hd hfree hc => ?_⟩, fun w i hpa => ⟨rld_awaits hf hb hpa, rst_posts hf hb ho hpa⟩,
    fun hfree hw hc h3 hm => mspost_posts hf hb hfree hw hc h3 hm,
    fun ty q hfree hlanes hc halign _ h6 hpa => radd_posts hf hb hfree hlanes hc halign h6 hpa⟩
  · refine State.awaits_of_atomic hf hb ho hpa hc (top := 0x2A) ?_
    show execAmo d a b m o z f s = _
    simp [execAmo, hd]
  · exact State.awaits_of_atomic hf hb ho hpa hc (top := 0x2B) rfl
  · refine State.posts_of_atomic hf hb ho hfree hpa hc ?_
    show execAmo d a b m o z f s = _
    simp [execAmo, hd]

end Sys2Proof.Machine
end

section
/-! SUPPORT. What starting a revocation changes and what DROP writes (R25, R28, R157), and FENCE, HINV and DROP of a lookup thread (R98, R268, R272). -/

namespace Sys2Proof.Machine

/-! ### Numbers as bytes -/

theorem length_natToBytes (n v : Nat) : (natToBytes n v).length = n := by
  induction n generalizing v with
  | zero => rfl
  | succ n ih => simp [natToBytes, ih]

/-- The bytes of a number stand for it, as far as they reach. -/
theorem bytesToNat_natToBytes (n v : Nat) : bytesToNat (natToBytes n v) = v % 256 ^ n := by
  induction n generalizing v with
  | zero => simp [natToBytes, bytesToNat, Nat.mod_one]
  | succ n ih => rw [natToBytes, bytesToNat, ih, BitVec.toNat_ofNat, Nat.pow_succ' (m := 256), Nat.mod_mul]

/-- The bytes written read back, all of them. -/
theorem memRead_memWrite (m : Mem) (a : Nat) (bs : List Byte) (h : Memory.wf m = true) : memRead (memWrite m a bs) a bs.length = bs := by
  refine List.ext_getElem (by simp [memRead]) fun i _ hi => ?_
  simpa [memRead] using memGet_memWrite m a i bs h hi

/-- A number written reads back, as far as its bytes reach. -/
theorem State.readNat_writeNat (s : State) (a n v : Nat) (h : Memory.wf s.mem = true) : (s.writeNat a n v).readNat a n = v % 256 ^ n := by
  have back := memRead_memWrite s.mem a (natToBytes n v) h
  rw [length_natToBytes] at back
  exact (congrArg bytesToNat back).trans (bytesToNat_natToBytes n v)

/-! ### Traps of a lookup thread -/

theorem State.trap_thread {s : State} {c t : Nat} (hf : s.focus = .thread c t) (cause : Nat) (tval : BitVec 64) (tinfo : Nat) :
    s.trap cause tval tinfo = s.takeTrap s.focus { cause := cause, tval := tval, tinfo := BitVec.ofNat 64 tinfo } s.cur.pc := by
  simp only [State.trap, State.raise, hf]

theorem State.awaitStep_thread {s : State} {c t : Nat} (hf : s.focus = .thread c t) (top : Nat) :
    s.awaitStep top = s.setCur { s.cur with wait := .completion top } := by
  simp only [State.awaitStep, hf]

/-! ### Revocations -/

/-- A revocation with the number that the module gives the next one that starts here. -/
def State.numbered (s : State) (q : Revocation) : Revocation := { q with id := s.module * 2 ^ 32 + s.nextRev % 2 ^ 32 }

/-- Two states that differ in the revocations under way, the log of them and the agenda only. -/
def State.RevokesOnly (s u : State) : Prop :=
  u = { s with revs := u.revs, nextRev := u.nextRev, agenda := u.agenda, revLog := u.revLog }

theorem State.RevokesOnly.trans {s u v : State} (h : s.RevokesOnly u) (k : u.RevokesOnly v) : s.RevokesOnly v := by
  unfold State.RevokesOnly at *
  rw [k, h]

section
variable {s u : State} (h : s.RevokesOnly u)
include h
theorem State.RevokesOnly.focus : u.focus = s.focus := by rw [h]
theorem State.RevokesOnly.mem : u.mem = s.mem := by rw [h]
theorem State.RevokesOnly.cur : u.cur = s.cur := by rw [h]; rfl
theorem State.RevokesOnly.key (a : Agent) : u.key a = s.key a := by rw [h]; rfl
end

/-- The log's entry of a revocation leaves its run's revocation as it is. -/
theorem State.logRevocation_revs (s : State) (r : Revocation) : (s.logRevocation r).revs.map (·.rev) = s.revs.map (·.rev) := by
  simp only [State.logRevocation, List.map_map]
  refine List.map_congr_left fun v _ => ?_
  simp only [Function.comp]
  split <;> rfl

/-- A revocation that starts here and reaches no other module: its run is the last, and every core of its scope is to apply it (R25). -/
theorem State.startRevocation_here (s : State) (q : Revocation) (core : CoreRef) (hmods : q.scope = 5 → s.otherModules = []) :
    s.RevokesOnly (s.startRevocation q core none) ∧
    (s.startRevocation q core none).revs.map (·.rev) = s.revs.map (·.rev) ++ [s.numbered q] ∧
    ∀ v ∈ s.scopeCores q.scope core, Instr.revocationApply v (s.numbered q) ∈ (s.startRevocation q core none).agenda := by
  have noMods : (if q.scope = 5 then s.otherModules else []) = [] := by
    split
    · exact hmods ‹_›
    · rfl
  simp only [State.startRevocation, if_true, and_true, noMods, List.foldl_nil]
  by_cases noCores : s.scopeCores q.scope core = []
  · simp only [noCores, List.map_nil, if_true, State.push_revs, State.logRevocation_revs]
    exact ⟨rfl, by simp [State.pushAll, State.numbered], by simp⟩
  · simp only [noCores, if_false]
    refine ⟨rfl, by simp [State.pushAll, State.numbered], fun v hv => ?_⟩
    simp only [State.pushAll]
    exact List.mem_append_right _ (List.mem_map_of_mem hv)

/-- What is asked of a run of pages that DROP has dropped (R157). -/
def dropRevocation (key : Nat) (who : Agent) (r : Nat × Nat) : Revocation := { key := key, lo := r.1, hi := r.2, scope := 4, who := .agent who }

/-- The revocations of several runs, one after the other: each run has its own, and no earlier one is forgotten. -/
theorem State.revokeRuns (s : State) (a : Agent) (core : CoreRef) (runs : List (Nat × Nat)) :
    let u := runs.foldl (fun x r => x.startRevocation (dropRevocation (x.key a) a r) core none) s
    s.RevokesOnly u ∧ (∀ v ∈ s.revs.map (·.rev), v ∈ u.revs.map (·.rev)) ∧
    ∀ r ∈ runs, ∃ w ∈ u.revs, w.rev.key = s.key a ∧ w.rev.lo = r.1 ∧ w.rev.hi = r.2 ∧ w.rev.scope = 4 ∧ w.rev.who = .agent a := by
  induction runs generalizing s with
  | nil => exact ⟨rfl, fun _ h => h, by simp⟩
  | cons r rest ih =>
    obtain ⟨only, revs, -⟩ := s.startRevocation_here (dropRevocation (s.key a) a r) core (by simp [dropRevocation])
    obtain ⟨only', kept, each⟩ := ih (s.startRevocation (dropRevocation (s.key a) a r) core none)
    simp only [List.foldl_cons]
    refine ⟨only.trans only', fun v hv => kept v (by rw [revs]; exact List.mem_append_left _ hv), fun x hx => ?_⟩
    rcases List.mem_cons.mp hx with rfl | hx
    · have mine := kept (s.numbered (dropRevocation (s.key a) a x)) (by simp [revs])
      obtain ⟨w, hw, hr⟩ := List.mem_map.mp mine
      exact ⟨w, hw, by simp [hr, State.numbered, dropRevocation]⟩
    · obtain ⟨w, hw, hk, rest⟩ := each x hx
      exact ⟨w, hw, hk.trans (only.key a), rest⟩

/-! ### The granules that DROP drops (R157) -/

/-- Dropping granules writes their leaves and nothing else. -/
theorem State.dropGranules_onlyMem (s : State) (key va n : Nat) :
    (s.dropGranules key va n).1 = { s with mem := (s.dropGranules key va n).1.mem, poison := (s.dropGranules key va n).1.poison } := by
  induction n generalizing s va with
  | zero => rfl
  | succ n ih =>
    simp only [State.dropGranules]
    split
    · split
      · exact ih _ _
      · rfl
    · rfl

/-- What a thread that waits in DROP keeps of where its drop has stopped: the address, and 1 where it has stopped (R157). -/
def dropOperand (stop : Option Nat) : BitVec 64 × BitVec 3 :=
  match stop with
  | some v => (BitVec.ofNat 64 v, 1#3)
  | none => (0#64, 0#3)

/-- The runs of pages `p :: rest`, by the first run of the rest: joined to it, or a run of its own before it. -/
theorem pageRuns_cons (p : Nat) (rest : List Nat) :
    (∃ hi more, pageRuns rest = (p + 65536, hi) :: more ∧ pageRuns (p :: rest) = (p, hi) :: more) ∨
    pageRuns (p :: rest) = (p, p + 65535) :: pageRuns rest := by
  simp only [pageRuns]
  rcases pageRuns rest with _ | ⟨⟨lo, hi⟩, more⟩
  · exact .inr rfl
  · by_cases h : lo = p + 65536
    · exact .inl ⟨hi, more, by rw [h], by simp [h]⟩
    · exact .inr (by simp [h])

/-- A run holds a whole page at least. -/
theorem pageRuns_whole (ps : List Nat) : ∀ r ∈ pageRuns ps, r.1 + 65535 ≤ r.2 := by
  induction ps with
  | nil => simp [pageRuns]
  | cons p rest ih =>
    rcases pageRuns_cons p rest with ⟨hi, more, hrest, hrun⟩ | hrun
    · rw [hrest, List.forall_mem_cons] at ih
      rw [hrun, List.forall_mem_cons]
      exact ⟨by have := ih.1; dsimp only at *; omega, ih.2⟩
    · rw [hrun, List.forall_mem_cons]
      exact ⟨Nat.le_refl _, ih⟩

/-- The runs of pages cover every page. -/
theorem pageRuns_cover (ps : List Nat) : ∀ p ∈ ps, ∃ r ∈ pageRuns ps, r.1 ≤ p ∧ p + 65535 ≤ r.2 := by
  induction ps with
  | nil => simp
  | cons q rest ih =>
    have first : ∃ r more, pageRuns (q :: rest) = r :: more ∧ r.1 = q := by
      rcases pageRuns_cons q rest with ⟨hi, more, -, hrun⟩ | hrun
      · exact ⟨_, _, hrun, rfl⟩
      · exact ⟨_, _, hrun, rfl⟩
    refine List.forall_mem_cons.mpr ⟨?_, fun p hp => ?_⟩
    · obtain ⟨r, more, hrun, hr⟩ := first
      have whole := pageRuns_whole (q :: rest) r (by simp [hrun])
      exact ⟨r, by simp [hrun], by omega, by omega⟩
    · obtain ⟨r, hr, hlo, hhi⟩ := ih p hp
      rcases pageRuns_cons q rest with ⟨hi, more, hrest, hrun⟩ | hrun
      · rw [hrest] at hr
        rcases List.mem_cons.mp hr with rfl | hr
        · exact ⟨(q, hi), by simp [hrun], by dsimp only at *; omega, hhi⟩
        · exact ⟨r, by simp [hrun, hr], hlo, hhi⟩
      · exact ⟨r, by simp [hrun, hr], hlo, hhi⟩

/-! ### FENCE, HINV and DROP -/

section
variable {s : State} {c t : Nat} {z : BitVec 4} {sc : Nat} (hf : s.focus = .thread c t) (hsc : s.resolveScope s.focus z.toNat = some sc)
include hf hsc

theorem fence_none {k : BitVec 8} (hk : k.getLsbD 0 = false ∧ k.getLsbD 1 = false ∨ k.getLsbD 2 = false ∧ k.getLsbD 3 = false) :
    exec (.fence k z) s = .next (s.setCur (s.cur.advance 4#48)) := by
  show execFence k z s = _
  have nothing : ((k.getLsbD 0 || k.getLsbD 1) && (k.getLsbD 2 || k.getLsbD 3)) = false := by
    rcases hk with ⟨h, h'⟩ | ⟨h, h'⟩ <;> simp only [h, h', Bool.or_self, Bool.false_and, Bool.and_false]
  simp only [execFence, hsc, nothing, if_true, State.complete_thread hf]

omit hf in
/-- A fence that orders something: the release of what its kinds before name, then the acquire (R98). -/
theorem fence_some {k : BitVec 8} (hb : k.getLsbD 0 = true ∨ k.getLsbD 1 = true) (ha : k.getLsbD 2 = true ∨ k.getLsbD 3 = true) :
    let rel := s.releaseFor s.focus (k.getLsbD 1 && decide (1 < sc)) (k.getLsbD 1 && k.getLsbD 4)
    exec (.fence k z) s = .next (if rel.1 = false then rel.2.again
      else (rel.2.acquireFor rel.2.focus (decide (1 < sc) && k.getLsbD 2)).complete) := by
  show execFence k z s = _
  have something : ((k.getLsbD 0 || k.getLsbD 1) && (k.getLsbD 2 || k.getLsbD 3)) = true := by
    rcases hb with h | h <;> rcases ha with h' | h' <;>
      simp only [h, h', Bool.true_or, Bool.or_true, Bool.and_self]
  simp only [execFence, hsc, something]
  cases k.getLsbD 1 <;> rfl

theorem hinv_empty {a b : BitVec 5} (h1 : 1 ≤ sc) (h5 : sc ≤ 5) (hx : s.x b = 0#64) :
    exec (.hinv a b z) s = .next (s.setCur (s.cur.advance 4#48)) := by
  show execHinv a b z s = _
  have valid : ¬(sc = 0 ∨ 6 ≤ sc) := by omega
  simp only [execHinv, hsc, valid, hx, if_true, if_false, State.complete_thread hf]

theorem hinv_starts {a b : BitVec 5} (h1 : 1 ≤ sc) (h5 : sc ≤ 5) (hmods : sc = 5 → s.otherModules = []) (hx : s.x b ≠ 0#64) :
    ∃ u r, exec (.hinv a b z) s = .next u ∧ u.cur = { s.cur with wait := .completion 0x27 } ∧
      u.revs.getLast?.map (·.rev) = some r ∧ r.key = s.curKey ∧ r.lo = (s.x a).toNat ∧ r.scope = sc ∧ r.who = .agent s.focus ∧
      (r.lo + (s.x b).toNat ≤ 2 ^ 64 → r.hi + 1 = r.lo + (s.x b).toNat) ∧ u.mem = s.mem ∧
      ∀ v ∈ s.scopeCores sc (.lc c), Instr.revocationApply v r ∈ u.agenda := by
  have valid : ¬(sc = 0 ∨ 6 ≤ sc) := by omega
  have core : agentCore s.focus = .lc c := by rw [hf]; rfl
  obtain ⟨q, hq⟩ : ∃ q : Revocation, q = {
    key := s.curKey
    lo := (s.x a).toNat
    hi := min ((s.x a).toNat + (s.x b).toNat - 1) (2 ^ 64 - 1)
    scope := sc
    who := .agent s.focus } := ⟨_, rfl⟩
  have run : exec (.hinv a b z) s = .next ((s.awaitStep 0x27).startRevocation q (.lc c) none) := by
    show execHinv a b z s = _
    simp only [execHinv, hsc, valid, hx, if_false, core, hq]
  have waiting := State.awaitStep_thread hf 0x27
  obtain ⟨only, revs, told⟩ := (s.awaitStep 0x27).startRevocation_here q (.lc c) (by rw [waiting, hq]; exact hmods)
  refine ⟨_, (s.awaitStep 0x27).numbered q, run, ?_, ?_, by rw [hq]; rfl, by rw [hq]; rfl, by rw [hq]; rfl, by rw [hq]; rfl, fun hle => ?_, ?_, ?_⟩
  · rw [only.cur, waiting, State.cur_setCur]
  · rw [← List.getLast?_map, revs, List.getLast?_append]; rfl
  · have pos : 0 < (s.x b).toNat := Nat.pos_of_ne_zero fun h => hx (BitVec.eq_of_toNat_eq h)
    simp only [hq, State.numbered] at hle ⊢
    omega
  · rw [only.mem, waiting]; rfl
  · rw [hq, waiting] at told
    rw [hq, waiting]
    exact told

end

section
variable {s : State} {c t : Nat} {a b : BitVec 5} (hf : s.focus = .thread c t)
include hf

theorem drop_empty (ha : (s.x a).toNat % 65536 = 0) (hn : (s.x b).toNat = 0) :
    exec (.drop a b) s = .next (s.setCur (s.cur.advance 4#48)) := by
  show execDrop a b s = _
  simp [execDrop, ha, hn, State.complete_thread hf]

theorem drop_misaligned (ha : (s.x a).toNat % 65536 ≠ 0) :
    exec (.drop a b) s = .next (s.takeTrap s.focus { cause := 0x07, tval := 0#64, tinfo := 0#64 } s.cur.pc) := by
  show execDrop a b s = _
  simp only [execDrop, ha, if_true, State.trap_thread hf, ne_eq, not_false_eq_true]

theorem drop_tooMany (ha : (s.x a).toNat % 65536 = 0) (hn : 65536 < (s.x b).toNat) :
    exec (.drop a b) s = .next (s.takeTrap s.focus { cause := 0x0A, tval := 0#64, tinfo := 3#64 } s.cur.pc) := by
  show execDrop a b s = _
  simp only [execDrop, ha, hn, if_true, if_false, State.trap_thread hf, ne_eq, not_true_eq_false]

theorem drop_none {va : Nat} (ha : (s.x a).toNat % 65536 = 0) (hn : 0 < (s.x b).toNat)
    (hle : (s.x b).toNat ≤ 65536) (hd : s.dropGranules s.curKey (s.x a).toNat (s.x b).toNat = (s, [], some va)) :
    exec (.drop a b) s = .next (s.takeTrap s.focus { cause := 0x0A, tval := BitVec.ofNat 64 va, tinfo := 5#64 } s.cur.pc) := by
  show execDrop a b s = _
  have some' : ¬ 65536 < (s.x b).toNat := by omega
  have notNone : (s.x b).toNat ≠ 0 := by omega
  simp only [execDrop, ha, some', notNone, hd, if_false, State.trap_thread hf, ne_eq, not_true_eq_false]

/-- DROP of granules of which the first is dropped: the leaves are written, the runs of pages revoked one after the other, and the thread waits (R157). -/
theorem drop_some {s1 : State} {p : Nat} {ps : List Nat} {stop : Option Nat} (ha : (s.x a).toNat % 65536 = 0) (hn : 0 < (s.x b).toNat)
    (hle : (s.x b).toNat ≤ 65536) (hd : s.dropGranules s.curKey (s.x a).toNat (s.x b).toNat = (s1, p :: ps, stop)) :
    exec (.drop a b) s = .next ((pageRuns (p :: ps)).foldl
      (fun x r => x.startRevocation (dropRevocation (x.key s.focus) s.focus r) (agentCore s.focus) none)
      (s1.setCur { s.cur with opnd := dropOperand stop, wait := .completion 0x29 })) := by
  have some' : ¬ 65536 < (s.x b).toNat := by omega
  have notNone : (s.x b).toNat ≠ 0 := by omega
  have only : s1 = { s with mem := s1.mem, poison := s1.poison } := by
    have := s.dropGranules_onlyMem s.curKey (s.x a).toNat (s.x b).toNat
    rwa [hd] at this
  have focus : s1.focus = s.focus := by rw [only]
  have cur : s1.cur = s.cur := by rw [only]; rfl
  show execDrop a b s = _
  simp only [execDrop, ha, some', notNone, hd, if_false, ne_eq, not_true_eq_false]
  rw [State.awaitStep_thread (s := s1.setCur _) (focus.trans hf), State.setCur_setCur, State.cur_setCur, cur]
  rfl

/-- What DROP of granules of which the first is dropped leaves. -/
theorem drop_some_leaves {s1 : State} {p : Nat} {ps : List Nat} {stop : Option Nat} (ha : (s.x a).toNat % 65536 = 0) (hn : 0 < (s.x b).toNat)
    (hle : (s.x b).toNat ≤ 65536) (hd : s.dropGranules s.curKey (s.x a).toNat (s.x b).toNat = (s1, p :: ps, stop)) :
    ∃ u, exec (.drop a b) s = .next u ∧ u.mem = s1.mem ∧ u.cur = { s.cur with opnd := dropOperand stop, wait := .completion 0x29 } ∧
      ∀ q ∈ p :: ps, ∃ w ∈ u.revs, w.rev.key = s.curKey ∧ w.rev.lo ≤ q ∧ q + 65535 ≤ w.rev.hi ∧ w.rev.scope = 4 ∧
        w.rev.who = .agent s.focus := by
  have only : s1 = { s with mem := s1.mem, poison := s1.poison } := by
    have := s.dropGranules_onlyMem s.curKey (s.x a).toNat (s.x b).toNat
    rwa [hd] at this
  obtain ⟨k, hk⟩ : ∃ k : Ctx, k = { s.cur with opnd := dropOperand stop, wait := .completion 0x29 } := ⟨_, rfl⟩
  have run := drop_some hf ha hn hle hd
  rw [← hk] at run
  obtain ⟨revokes, -, each⟩ := (s1.setCur k).revokeRuns s.focus (agentCore s.focus) (pageRuns (p :: ps))
  have key : (s1.setCur k).key s.focus = s.curKey := by
    rw [only]
    rfl
  refine ⟨_, run, revokes.mem, ?_, fun q hq => ?_⟩
  · rw [revokes.cur, State.cur_setCur, hk]
  · obtain ⟨r, hr, hlo, hhi⟩ := pageRuns_cover (p :: ps) q hq
    obtain ⟨w, hw, wkey, wlo, whi, wscope, wwho⟩ := each r hr
    exact ⟨w, hw, wkey.trans key, by omega, by omega, wscope, wwho⟩

/-- DROP of one granule, a 64 KiB leaf with O = 1: D is set in its leaf, and its page is revoked (R157). -/
theorem drop_leaf {e : BitVec 64} {pa dep : Nat} (ha : (s.x a).toNat % 65536 = 0) (hn : (s.x b).toNat = 1) (hva : (s.x a).toNat < 2 ^ 48)
    (hwf : Memory.wf s.mem = true) (hwalk : s.walk s.curKey (s.x a).toNat = .leaf e 16 pa dep) (ho : pteO e = true) :
    ∃ u r, exec (.drop a b) s = .next u ∧ s.bytesKept u (canon pa) 8 ∧ u.readNat (canon pa) 8 = (e ||| (1#64 <<< 57)).toNat ∧
      u.cur = { s.cur with opnd := (0#64, 0#3), wait := .completion 0x29 } ∧ u.revs.getLast?.map (·.rev) = some r ∧ r.key = s.curKey ∧
      r.lo = leafPage e ∧ r.hi = leafPage e + 65535 ∧ r.scope = 4 ∧ r.who = .agent s.focus := by
  have dropped : s.dropGranules s.curKey (s.x a).toNat (s.x b).toNat =
      (s.writeNat (canon pa) 8 (e ||| (1#64 <<< 57)).toNat, [leafPage e], none) := by
    simp only [hn, State.dropGranules, hva, hwalk, ho, if_true]
  obtain ⟨w, hw⟩ : ∃ w, w = s.writeNat (canon pa) 8 (e ||| (1#64 <<< 57)).toNat := ⟨_, rfl⟩
  obtain ⟨k, hk⟩ : ∃ k : Ctx, k = { s.cur with opnd := (0#64, 0#3), wait := .completion 0x29 } := ⟨_, rfl⟩
  rw [← hw] at dropped
  have run := drop_some hf ha (by omega) (by omega) dropped
  have operand : dropOperand none = (0#64, 0#3) := rfl
  have oneRun : pageRuns [leafPage e] = [(leafPage e, leafPage e + 65535)] := rfl
  rw [operand, ← hk, oneRun, List.foldl_cons, List.foldl_nil] at run
  obtain ⟨revokes, revs, -⟩ := (w.setCur k).startRevocation_here (dropRevocation ((w.setCur k).key s.focus) s.focus (leafPage e, leafPage e + 65535))
    (agentCore s.focus) (by simp [dropRevocation])
  refine ⟨_, (w.setCur k).numbered (dropRevocation ((w.setCur k).key s.focus) s.focus (leafPage e, leafPage e + 65535)), run, fun x hx => ?_, ?_,
    ?_, ?_, by rw [hw]; rfl, rfl, rfl, rfl, rfl⟩
  · rw [revokes.mem, State.setCur_mem, hw]
    exact memGet_memWrite_ne _ _ _ _ (by rwa [length_natToBytes])
  · have back := s.readNat_writeNat (canon pa) 8 (e ||| (1#64 <<< 57)).toNat hwf
    rw [Nat.mod_eq_of_lt (by exact BitVec.isLt (e ||| (1#64 <<< 57))), ← hw] at back
    simpa only [State.readNat, revokes.mem, State.setCur_mem] using back
  · rw [revokes.cur, State.cur_setCur, hk]
  · rw [← List.getLast?_map, revs, List.getLast?_append]
    rfl

/-- DROP of one granule that is no 64 KiB leaf with O = 1 (R157). -/
theorem drop_noLeaf (ha : (s.x a).toNat % 65536 = 0) (hn : (s.x b).toNat = 1) (hva : (s.x a).toNat < 2 ^ 48)
    (hno : ∀ e pa dep, s.walk s.curKey (s.x a).toNat = .leaf e 16 pa dep → pteO e = false) :
    exec (.drop a b) s = .next (s.takeTrap s.focus { cause := 0x0A, tval := s.x a, tinfo := 5#64 } s.cur.pc) := by
  have stopped : s.dropGranules s.curKey (s.x a).toNat (s.x b).toNat = (s, [], some (s.x a).toNat) := by
    simp only [hn, State.dropGranules, hva, if_true]
    split
    · next e pa dep hwalk => simp [hno e pa dep hwalk]
    · rfl
  have run := drop_none hf ha (by omega) (by omega) stopped
  rwa [BitVec.ofNat_toNat, BitVec.setWidth_eq] at run

end

/-- Settles O31: each instruction by its cases, DROP by the granules that it drops and the runs of their pages. -/
theorem fencesAndRevocations : Obligations.FencesAndRevocations := by
  intro s c t a b k z sc hf hsc
  refine ⟨fence_none hf hsc, fun hbefore hafter => ⟨fun done => ?_, fun notDone => ?_, fun narrow hb => ?_⟩, hinv_empty hf hsc, hinv_starts hf hsc,
    drop_empty hf, drop_misaligned hf, drop_tooMany hf, fun ha hn hva hwf => ⟨fun e pa dep hwalk ho => ?_, drop_noLeaf hf ha hn hva⟩,
    fun ha hn hle s1 p ps stop hd => ?_⟩
  · rw [fence_some hsc hbefore hafter, if_neg (ne_false_of_eq_true done)]
  · rw [fence_some hsc hbefore hafter, if_pos notDone]
  · rw [fence_some hsc hbefore hafter, narrow, Bool.and_false, State.releaseFor_narrow hf hb]
    simp only [Bool.false_and, State.acquireFor, hf, Bool.true_eq_false, if_false]
    exact congrArg _ (State.complete_thread hf)
  · obtain ⟨u, r, run, kept, read, cur, rev⟩ := drop_leaf hf ha hn hva hwf hwalk ho
    exact ⟨u, r, run, kept, read, by rw [cur], by rw [cur], by rw [cur], rev⟩
  · obtain ⟨u, run, mem, cur, revs⟩ := drop_some_leaves hf ha hn hle hd
    exact ⟨u, run, mem, by rw [cur], by rw [cur], revs⟩

end Sys2Proof.Machine
end

section
/-! SUPPORT. What a packet sent, replies left and a rollback change (R362, R378), and WPB, WPC, rollback and the commit of a waypoint (R103, R275, R361). -/

namespace Sys2Proof.Machine

/-! ### Packets and what a thread leaves behind -/

/-- What each step of a fold leaves as it is, the fold does. -/
theorem foldl_keeps {α β γ : Type} {f : α → β → α} (g : α → γ) (h : ∀ x b, g (f x b) = g x) (l : List β) (x : α) :
    g (l.foldl f x) = g x := by
  induction l generalizing x with
  | nil => rfl
  | cons b l ih => rw [List.foldl_cons, ih, h]

theorem foldl_of_nil {α β : Type} {f : α → β → α} {l : List β} {x : α} (h : l = []) : l.foldl f x = x := by rw [h, List.foldl_nil]

/-- A packet sent changes nothing but the fabric's side of the router. -/
theorem State.sendPacket_onlyFabric (s : State) (dst src key kind tag jent addr nd : Nat) (b : Payload) :
    ∃ f, s.sendPacket dst src key kind tag jent addr nd b = { s with fabric := f } := by
  simp only [State.sendPacket, State.route1]
  split <;> exact ⟨_, rfl⟩

section
variable (s : State) (dst src key kind tag jent addr nd : Nat) (b : Payload)
@[simp] theorem State.sendPacket_focus : (s.sendPacket dst src key kind tag jent addr nd b).focus = s.focus := by
  obtain ⟨f, h⟩ := s.sendPacket_onlyFabric dst src key kind tag jent addr nd b
  rw [h]
@[simp] theorem State.sendPacket_mem : (s.sendPacket dst src key kind tag jent addr nd b).mem = s.mem := by
  obtain ⟨f, h⟩ := s.sendPacket_onlyFabric dst src key kind tag jent addr nd b
  rw [h]
@[simp] theorem State.sendPacket_lcs : (s.sendPacket dst src key kind tag jent addr nd b).lcs = s.lcs := by
  obtain ⟨f, h⟩ := s.sendPacket_onlyFabric dst src key kind tag jent addr nd b
  rw [h]
end

/-- Calling off what an agent awaits changes no memory and no turn. -/
theorem State.callOff_memFocus (s : State) (a : Agent) : (s.callOff a).2.mem = s.mem ∧ (s.callOff a).2.focus = s.focus := by
  cases a <;> exact ⟨rfl, rfl⟩

theorem State.leaveReplies_memFocus (s : State) (a : Agent) : (s.leaveReplies a).mem = s.mem ∧ (s.leaveReplies a).focus = s.focus := by
  unfold State.leaveReplies
  split
  · dsimp only
    split
    · exact s.callOff_memFocus _
    · exact s.callOff_memFocus _
  · exact ⟨rfl, rfl⟩

theorem State.discardPending_memFocus (s : State) (a : Agent) :
    (s.discardPending a).mem = s.mem ∧ (s.discardPending a).focus = s.focus := by
  simp only [State.discardPending]
  split
  · exact ⟨foldl_keeps State.mem (fun x m => by simp) _ _, foldl_keeps State.focus (fun x m => by simp) _ _⟩
  · exact ⟨rfl, rfl⟩

/-! ### Rollback (R362) -/

/-- What a rollback brings back: the checkpoint's registers and control, no waypoint, no pending entry, and the cause in WPB's destination. -/
def Ctx.RolledBack (c : Ctx) (k : Checkpoint) (cause : Nat) (r : Ctx) : Prop :=
  r.pc = k.pc ∧ r.sup = k.sup ∧ r.v = k.v ∧ r.k = k.k ∧ r.h = k.h ∧ r.loops = k.loops ∧ r.mflags = k.mflags ∧ r.wayOpen = false ∧
    r.checkpoint = none ∧ (∀ e ∈ r.journal, e.2.held = false) ∧ (c.wayDest ≠ 0#5 → r.readX c.wayDest = BitVec.ofNat 64 cause)

theorem Ctx.writeX_waypoint (c : Ctx) (d : BitVec 5) (v : BitVec 64) :
    (c.writeX d v).wayOpen = c.wayOpen ∧ (c.writeX d v).checkpoint = c.checkpoint := by
  unfold Ctx.writeX
  split <;> exact ⟨rfl, rfl⟩

theorem Ctx.restore_rolledBack (c : Ctx) (k : Checkpoint) (cause : Nat) : c.RolledBack k cause (c.restore k cause) := by
  unfold Ctx.RolledBack Ctx.restore
  simp only [Ctx.writeX_pc, Ctx.writeX_sup, Ctx.writeX_v, Ctx.writeX_k, Ctx.writeX_h, Ctx.writeX_loops, Ctx.writeX_mflags, Ctx.writeX_waypoint,
    Ctx.writeX_journal, true_and]
  refine ⟨fun e he => ?_, fun hd => ?_⟩
  · simpa using (List.mem_filter.mp he).2
  · rw [Ctx.readX_writeX, if_neg hd, if_pos rfl]

/-- A rollback to a checkpoint: no byte of memory changes, the turn stays, and the context is the checkpoint's, but for a wait for stray replies. -/
theorem State.rollbackTo_context (s : State) (a : Agent) (k : Checkpoint) (cause : Nat) :
    (s.rollbackTo a k cause).mem = s.mem ∧ (s.rollbackTo a k cause).focus = s.focus ∧
      (s.ctx a).RolledBack k cause ((s.rollbackTo a k cause).ctx a) := by
  obtain ⟨leftMem, leftFocus⟩ := s.leaveReplies_memFocus a
  obtain ⟨s1, hs1⟩ : ∃ s1, s1 = { s.leaveReplies a with
      agenda := (s.leaveReplies a).agenda.filter fun i => !rolledBack (s.coreNo a) a i } := ⟨_, rfl⟩
  obtain ⟨discMem, discFocus⟩ := s1.discardPending_memFocus a
  have back := (s.ctx a).restore_rolledBack k cause
  simp only [State.rollbackTo, ← hs1]
  refine ⟨?_, ?_, ?_⟩
  · rw [State.setCtx_mem, discMem, hs1, leftMem]
  · rw [State.setCtx_focus, discFocus, hs1, leftFocus]
  · rw [State.ctx_setCtx]
    cases a with
    | bank j b => exact back
    | thread i t =>
      dsimp only
      split
      · exact back
      · exact back

/-- A rollback of a lookup thread of its own, with a checkpoint (R362). -/
theorem State.rollbackAt_open {s : State} {c t : Nat} {k : Checkpoint} (hf : s.focus = .thread c t) (ht : t < 16) (hp : s.partner s.focus = none)
    (ho : s.cur.wayOpen = true) (hk : s.cur.checkpoint = some k) (cause : Nat) : s.rollbackAt s.focus cause = s.rollbackTo s.focus k cause := by
  have ho' : (s.ctx s.focus).wayOpen = true := ho
  have hk' : (s.ctx s.focus).checkpoint = some k := hk
  rw [hf] at hp ho' hk' ⊢
  simp only [State.rollbackAt, ht, ho', State.rollback, hp, State.rollbackOne, hk', if_true]

theorem State.rollbackAt_closed {s : State} {c t : Nat} (hf : s.focus = .thread c t) (ht : t < 16) (ho : s.cur.wayOpen = false) (cause : Nat) :
    s.rollbackAt s.focus cause = s := by
  have ho' : (s.ctx s.focus).wayOpen = false := ho
  rw [hf] at ho' ⊢
  simp only [State.rollbackAt, ht, ho', if_true, Bool.false_eq_true, if_false]

/-! ### WPB and WPC (R275) -/

theorem State.coreKey_setCur (s : State) (k : Ctx) (a : Agent) : (s.setCur k).coreKey a = s.coreKey a := by cases a <;> rfl

/-- An illegal instruction of a lookup thread: 0x01 with the word (R230). -/
theorem State.illegal_thread {s : State} {c t : Nat} (hf : s.focus = .thread c t) (w : Word) (detail : Nat) :
    s.illegal w detail = s.takeTrap s.focus { cause := 0x01, tval := w.setWidth 64, tinfo := BitVec.ofNat 64 detail } s.cur.pc := by
  have lookup : isDense s.focus = false := by rw [hf]; rfl
  simp only [State.illegal, lookup, Bool.false_eq_true, if_false, Nat.add_zero, State.trap_thread hf]

/-- What WPB keeps of a context: its registers, and control after the WPB (R275, R362). -/
def Ctx.checkpointHere (c : Ctx) : Checkpoint where
  pc := c.pc + 4#48
  sup := c.sup
  x := c.x
  v := c.v
  k := c.k
  h := c.h
  loops := c.loops
  mflags := c.mflags
  ascope := c.ascope
  cbko := c.cbko
  src := c.src

/-- A context under a waypoint that WPB has just opened. -/
def Ctx.openWay (c : Ctx) (d : BitVec 5) : Ctx :=
  { c with checkpoint := some c.checkpointHere, wayOpen := true, committing := false, wayDest := d }

/-- A change of one agent's context alone. -/
theorem State.onlyCtx_setCur (s : State) (k : Ctx) : s.onlyCtx (s.setCur k) s.focus := ⟨rfl, fun _ h => s.ctx_setCtx_ne _ _ k h⟩

theorem Ctx.writeX_wayDest (c : Ctx) (d : BitVec 5) (v : BitVec 64) : (c.writeX d v).wayDest = c.wayDest := by
  unfold Ctx.writeX
  split <;> rfl

section
variable {s : State} {c t : Nat} (hf : s.focus = .thread c t)
include hf

theorem wpb_opens {d : BitVec 5} (ho : s.cur.wayOpen = false) :
    exec (.wpb d) s = .next (s.setCur (((s.cur.openWay d).writeX d 0#64).advance 4#48)) := by
  show execWpb d s = _
  have opened : (s.setCur (s.cur.openWay d)).setX 1 d 0#64 = s.setCur ((s.cur.openWay d).writeX d 0#64) := by
    simp only [State.setX, State.setCur_focus, hf, State.cur_setCur, State.setCur_setCur]
  simp only [execWpb, ho, Bool.false_eq_true, if_false]
  refine congrArg _ (Eq.trans (congrArg State.complete opened) ?_)
  rw [State.complete_thread (by exact hf), State.cur_setCur, State.setCur_setCur]

theorem wpb_open {d : BitVec 5} (ho : s.cur.wayOpen = true) :
    ∃ n, exec (.wpb d) s = .next (s.takeTrap s.focus { cause := 0x01, tval := n, tinfo := 0x0A#64 } s.cur.pc) := by
  refine ⟨(wordOf (.wpb d)).setWidth 64, ?_⟩
  show execWpb d s = _
  simp only [execWpb, ho, if_true, State.illegal_thread hf]

theorem wpc_closed (ho : s.cur.wayOpen = false) :
    ∃ n, exec .wpc s = .next (s.takeTrap s.focus { cause := 0x01, tval := n, tinfo := 0x0A#64 } s.cur.pc) := by
  refine ⟨(wordOf .wpc).setWidth 64, ?_⟩
  show execWpc s = _
  simp only [execWpc, ho, if_true, State.illegal_thread hf]

omit hf in
/-- WPC with nothing pending: once the release is done the waypoint is closed. -/
theorem wpc_closes {s1 : State} (ho : s.cur.wayOpen = true) (hj : s.cur.journal.any (fun e => e.2.held) = false)
    (hr : s.releaseFor s.focus (s.wideScope s.focus) false = (true, s1)) :
    exec .wpc s = .next (s1.setCur { s1.cur with wayOpen := false, committing := false, checkpoint := none }).complete := by
  show execWpc s = _
  simp only [execWpc, ho, hj, State.afterRelease, hr, Bool.true_eq_false, Bool.false_eq_true, if_false]

omit hf in
/-- WPC with something pending that every site has acknowledged: the commit starts, and the thread waits for it. -/
theorem wpc_commits (ho : s.cur.wayOpen = true) (hj : s.cur.journal.any (fun e => e.2.held) = true) (hway : s.onTheWay s.focus = false)
    (hmods : s.otherModules = []) :
    ∃ u, exec .wpc s = .next u ∧ u.cur = { s.cur with committing := true, wait := .completion 0x3A } ∧
      Instr.waypointCommitApply s.focus ∈ u.agenda ∧ u.mem = s.mem ∧ (s.focus, s.coreNo s.focus, s.coreKey s.focus) ∈ u.homes.commits := by
  obtain ⟨k, hk⟩ : ∃ k : Ctx, k = { s.cur with committing := true, wait := .completion 0x3A } := ⟨_, rfl⟩
  obtain ⟨w, hw⟩ : ∃ w, w = s.setCur k := ⟨_, rfl⟩
  have run : exec .wpc s = .next (({ w with homes := { w.homes with
      commits := w.homes.commits ++ [(w.focus, w.coreNo w.focus, w.coreKey w.focus)] } }).push (.waypointCommitApply s.focus)) := by
    show execWpc s = _
    dsimp only [execWpc]
    rw [if_neg (by rw [ho]; decide), if_pos hj, if_neg (by rw [hway]; decide)]
    exact congrArg _ (Eq.trans (foldl_of_nil (by exact hmods)) (by subst hw hk; rfl))
  refine ⟨_, run, ?_, ?_, by rw [hw]; rfl, ?_⟩
  · rw [hw]
    exact (s.cur_setCur k).trans hk
  · simp [State.push]
  · have same : (w.focus, w.coreNo w.focus, w.coreKey w.focus) = (s.focus, s.coreNo s.focus, s.coreKey s.focus) := by
      rw [hw, State.coreKey_setCur]
      rfl
    rw [← same]
    simp

/-! ### The commit at this module (R103) -/

omit hf in
/-- What the commit of a thread answers for: the commit noted first for it, or the thread itself. -/
theorem waypointCommitApply_one {p : Pending} (hp : s.homes.pending = [p]) (hc : s.homes.commits.find? (fun r => r.1 = s.focus) = none)
    (hmine : p.of (s.coreNo s.focus) (s.coreKey s.focus) s.focus = true) :
    let u := State.applyPending { s with homes := { s.homes with pending := [] } } p
    exec (.waypointCommitApply s.focus) s =
      .next { u with homes := { u.homes with commits := u.homes.commits.erase (s.focus, s.coreNo s.focus, s.coreKey s.focus) } } := by
  show execWaypointCommitApply s.focus s = _
  simp [execWaypointCommitApply, hc, State.commitSite, hp, hmine]

end

/-- Settles O33: WPB and WPC by their cases, a rollback by the context that it brings back, and the commit of a site by its pending operations. -/
theorem waypoints : Obligations.Waypoints := by
  intro s c t d hf
  refine ⟨fun ho => ?_, wpb_open hf, wpc_closed hf, fun ho hj hb hw => ?_,
    fun ho hj s1 hr => wpc_closes ho hj hr, fun ho hj hway hmods => wpc_commits ho hj hway hmods,
    fun k e ht hp ho hk => ?_, fun k ht hp ho hk hc hway => ?_,
    fun ho ht e => congrArg Host.Outcome.next (State.rollbackAt_closed hf ht ho e), fun h => ?_,
    fun r hr => ?_, fun p hp hc hmine => waypointCommitApply_one hp hc hmine⟩
  · obtain ⟨wayOpen, checkpoint⟩ := (s.cur.openWay d).writeX_waypoint d 0#64
    refine ⟨_, s.cur.checkpointHere, wpb_opens hf ho, s.onlyCtx_setCur _, ?_⟩
    simp only [State.x, State.cur_setCur, Ctx.readX_advance]
    refine ⟨wayOpen, (s.cur.openWay d).writeX_wayDest d 0#64, checkpoint, ?_, fun r hr => ?_, ?_, rfl, rfl, rfl, rfl, rfl, rfl, rfl, rfl⟩
    · rw [Ctx.readX_writeX]
      simp
    · rw [Ctx.readX_advance, Ctx.readX_writeX, if_neg hr]
      split
      · next h => rw [h, Ctx.readX_zero]
      · rfl
    · rw [Ctx.advance_pc, Ctx.advance_pc, Ctx.writeX_pc, Ctx.writeX_loops]
      rfl
  · have closes := wpc_closes ho (by rw [hj]; rfl) (by rw [hw]; exact State.releaseFor_narrow hf hb false)
    rw [State.complete_thread (by exact hf), State.setCur_setCur, State.cur_setCur] at closes
    exact ⟨_, closes, s.onlyCtx_setCur _, s.cur_setCur _⟩
  · obtain ⟨mem, focus, back⟩ := s.rollbackTo_context s.focus k e
    have cur : (s.rollbackTo s.focus k e).cur = (s.rollbackTo s.focus k e).ctx s.focus := by rw [State.cur, focus]
    refine ⟨_, congrArg Host.Outcome.next (State.rollbackAt_open hf ht hp ho hk e), mem, ?_⟩
    rw [State.x, cur]
    exact back
  · show execWaypointHoldTimeout s.focus s = execWaypointRollback s.focus 0x16 s
    have hc' : (s.ctx s.focus).committing = false := hc
    simp [execWaypointHoldTimeout, State.holdTimedOut, hway, hc', execWaypointRollback]
  · show execWaypointHoldTimeout s.focus s = _
    have notDue : (s.onTheWay s.focus && !(s.ctx s.focus).committing) = false := by
      rcases h with h | h
      · rw [h, Bool.false_and]
      · rw [show (s.ctx s.focus).committing = true from h, Bool.not_true, Bool.and_false]
    simp [execWaypointHoldTimeout, State.holdTimedOut, notDue]
  · rw [hr]
    rfl

end Sys2Proof.Machine
end

section
/-! SUPPORT. What a thread that leaves its slot, or starts another, changes in the cores, and what it leaves as it is (R170 to R174). -/

namespace Sys2Proof.Machine

/-! ### Tables under a map and a removal -/

/-- A map of a table's entries that keeps their numbers. -/
theorem findAt_map {α β : Type} (g : Nat × α → Nat × β) (hg : ∀ e, (g e).1 = e.1) (m : SMap α) (k : Nat) :
    findAt (m.map g) k = (findAt m k).map fun v => (g (k, v)).2 := by
  induction m with
  | nil => rfl
  | cons e m ih =>
    obtain ⟨j, v⟩ := e
    have number : (g (j, v)).1 = j := hg (j, v)
    simp only [List.map_cons, findAt, number]
    by_cases hj : j = k
    · simp [hj]
    · simpa [hj] using ih

theorem findAt_dropAt {α : Type} (m : SMap α) (k n : Nat) : findAt (dropAt m k) n = if n = k then none else findAt m n := by
  induction m with
  | nil => simp [dropAt, findAt]
  | cons e m ih =>
    obtain ⟨j, v⟩ := e
    simp only [dropAt] at ih
    by_cases hj : j = k
    · by_cases hn : n = k
      · simpa [dropAt, hj, hn] using ih
      · simpa [dropAt, findAt, hj, hn, Ne.symm hn] using ih
    · by_cases hjn : j = n
      · have hn : n ≠ k := hjn ▸ hj
        simp [dropAt, findAt, hjn, hn]
      · simpa [dropAt, findAt, hj, hjn] using ih

/-! ### What leaves every lookup core as it is -/

theorem State.setLaunch_onlyDisp (s : State) (tag : Nat) (f : Launch → Launch) : ∃ d, s.setLaunch tag f = { s with disp := d } := by
  unfold State.setLaunch
  split <;> exact ⟨_, rfl⟩

theorem State.raisePort_lcs (s : State) (n : Nat) : (s.raisePort n).lcs = s.lcs := by
  unfold State.raisePort
  split <;> rfl

theorem State.raiseVector_lcs (s : State) (v : Nat) : (s.raiseVector v).lcs = s.lcs := by
  unfold State.raiseVector
  split <;> rfl

theorem State.postFault_lcs (s : State) (r : FaultRec) : (s.postFault r).lcs = s.lcs := by
  unfold State.postFault
  dsimp only
  split
  · rfl
  · split
    · rfl
    · simp only [State.raiseVector_lcs, State.writeNat, State.write_lcs]

/-- A completion record goes to its site, or is written here (R190). -/
theorem State.writeCompletion_lcs (s : State) (record : BitVec 512) (port : Option Nat) (status detail tasks killed tstart tend : Nat) :
    (s.writeCompletion record port status detail tasks killed tstart tend).lcs = s.lcs := by
  unfold State.writeCompletion
  dsimp only
  split
  · cases port with
    | none => exact State.write_lcs _ _ _
    | some p => simp only [State.raisePort_lcs, State.write_lcs]
  · split
    · exact State.push_lcs _ _
    · rw [State.sendPacket_lcs]

theorem State.dropCompanion_lcs (s : State) (a : Agent) : (s.dropCompanion a).lcs = s.lcs := by
  unfold State.dropCompanion
  split
  · rfl
  · unfold State.rejectLaunch
    split
    · rw [State.writeCompletion_lcs]
      rfl
    · rfl

/-! ### Slots freed (R170, R174) -/

theorem State.slot_congr {s u : State} (h : u.lcs = s.lcs) (c t : Nat) : u.slot c t = s.slot c t := by
  simp only [State.slot, State.lp, State.lc, h]

theorem State.slot_setLp (s : State) (c t : Nat) (p : LPlane) : (s.setLp c p).slot c t = findAt p.slots t := by
  rw [State.slot, State.lp_setLp]

/-- A slot freed is empty, and the core's others are as they were. -/
theorem State.slot_freeSlot (s : State) (c u t : Nat) : (s.freeSlot c u).slot c t = if t = u then none else s.slot c t := by
  unfold State.freeSlot
  split
  · next empty =>
    split
    · next h => rw [h, empty]
    · rfl
  · exact (State.slot_setLp s c t _).trans (findAt_dropAt _ _ _)

/-- A thread leaves a slot: its locks, its held launch and the slot. -/
def State.leaveSlot (s : State) (c u : Nat) : State := ((s.releaseLocks (.thread c u)).dropCompanion (.thread c u)).freeSlot c u

theorem State.slot_leaveSlot (s : State) (c u t : Nat) : (s.leaveSlot c u).slot c t = if t = u then none else s.slot c t := by
  rw [State.leaveSlot, State.slot_freeSlot, State.slot_congr (State.dropCompanion_lcs _ _)]
  congr 1
  exact State.slot_setLp s c t _

theorem State.slot_leaveSlots (s : State) (c t : Nat) (us : List Nat) :
    (us.foldl (fun x u => x.leaveSlot c u) s).slot c t = if t ∈ us then none else s.slot c t := by
  induction us generalizing s with
  | nil => rfl
  | cons u us ih =>
    rw [List.foldl_cons, ih, State.slot_leaveSlot]
    by_cases hu : t = u <;> by_cases hus : t ∈ us <;> simp [hu, hus]

theorem mem_pairSlots {t : Nat} (ht : t < 16) (ds : Bool) : t ∈ pairSlots ds t := by
  cases ds with
  | false => simp [pairSlots]
  | true => simp only [pairSlots, if_true, List.mem_cons, List.not_mem_nil, or_false]; omega

theorem State.slot_vacate (s : State) (c t : Nat) (ht : t < 16) : (s.vacate c t).slot c t = none := by
  unfold State.vacate
  split
  · next empty => exact empty
  · next sl _ =>
    refine (State.slot_setLp _ c t _).trans ?_
    have left := State.slot_leaveSlots s c t (pairSlots (s.taskAt c sl.task).ds t)
    rw [if_pos (mem_pairSlots ht _)] at left
    exact left

/-- A thread that departs has left its slot. -/
theorem State.slot_depart {s : State} {c t : Nat} (hf : s.focus = .thread c t) (ht : t < 16) (x : Travel) : (s.depart x id).slot c t = none := by
  simp only [State.depart, hf]
  exact State.slot_vacate _ c t ht

end Sys2Proof.Machine
end

section
/-! SUPPORT. Migration and spawning, and the arrival and return of contexts (R113, R169 to R173, R271, R341). -/

namespace Sys2Proof.Machine

/-! ### MIGR, SPAWN and RLD in migrate mode -/

/-- What a context of the agent in issue carries: its place to go on, the core it goes to, its sender, key and tag, and who has spawned it (R169). -/
def State.Carries (s : State) (n : Nat) (pc : BitVec 48) (who : Option Agent) (x : Travel) : Prop :=
  x.pc = pc ∧ x.dst = n ∧ x.src = s.coreNo s.focus ∧ x.key = s.curKey ∧ x.tag = (s.task s.focus).tag ∧ x.spawner = who ∧ x.back = none

/-- An instruction by which the thread leaves for core `n`. -/
def State.Leaves (s : State) (n : Nat) (i : Instr) : Prop :=
  ∃ x, exec i s = .next (s.depart x fun y => y.sendTravel x) ∧ s.Carries n (s.cur.pc + 4#48) none x ∧ x.regs = s.travelRegs

/-- An instruction by which the thread starts another on core `n`, at the address in a register, and goes on. -/
def State.Spawns (s : State) (c n : Nat) (b : BitVec 5) (i : Instr) : Prop :=
  ∃ (x : Travel) (u : State), exec i s = .next (u.sendTravel x).complete ∧ s.Carries n ((s.x b).setWidth 48) (some s.focus) x ∧
    x.regs = s.travelRegs ∧ x.number = u.cur.holder ∧ u.mem = s.mem ∧ u.agenda = s.agenda ∧ (u.lp c).outbound = (s.lp c).outbound + 1 ∧
    u.cur = { s.cur with spawned := s.cur.spawned + 1, holder := u.cur.holder }

theorem State.afterRelease_released {s : State} {wide : Bool} (hr : s.releaseFor s.focus wide false = (true, s)) (k : State → State) :
    s.afterRelease true wide k = k s := by
  simp only [State.afterRelease, hr, Bool.true_eq_false, if_false]

/-- A thread's number of its own changes its context and the module's count of numbers only (R149). -/
theorem State.giveHolder_only (s : State) : ∃ h k, s.giveHolder s.focus = { s with nextCmd := k, ctxs := (s.giveHolder s.focus).ctxs } ∧
    (s.giveHolder s.focus).cur = { s.cur with holder := h } := by
  unfold State.giveHolder
  dsimp only
  split
  · refine ⟨s.nextCmd * 16384 + agentId s.focus + 1, s.nextCmd + 1, rfl, ?_⟩
    exact s.cur_setCur _
  · exact ⟨s.cur.holder, s.nextCmd, rfl, rfl⟩

section
variable {s : State} {c t n : Nat} (hf : s.focus = .thread c t) (hr : s.releaseFor s.focus (decide (n ≠ s.coreNo s.focus)) false = (true, s))
  (hfull : s.outboundFull = false)
include hr hfull

theorem State.migrateTo_departs (hu : s.unanswered = false) : s.migrateTo n =
    s.depart (s.travelOf (s.cur.pc + 4#48) n none 0) fun y => y.sendTravel (s.travelOf (s.cur.pc + 4#48) n none 0) := by
  rw [State.migrateTo, State.afterRelease_released hr, hu, hfull]
  rfl

theorem State.leaves_of_migrateTo (hu : s.unanswered = false) {i : Instr} (hx : exec i s = .next (s.migrateTo n)) : s.Leaves n i :=
  ⟨_, hx.trans (congrArg _ (State.migrateTo_departs hr hfull hu)), ⟨rfl, rfl, rfl, rfl, rfl, rfl, rfl⟩, rfl⟩

include hf in
theorem State.spawns_of_spawnTo {b : BitVec 5} (hsp : s.cur.spawned < 8) {i : Instr} (hx : exec i s = .next (s.spawnTo n (s.x b))) :
    s.Spawns c n b i := by
  obtain ⟨h, k, only, cur⟩ := s.giveHolder_only
  obtain ⟨x0, hx0⟩ : ∃ x0, x0 = s.giveHolder s.focus := ⟨_, rfl⟩
  rw [← hx0] at only cur
  have focus : x0.focus = s.focus := by rw [only]
  obtain ⟨w, hw⟩ : ∃ w, w = x0.setCur { x0.cur with spawned := x0.cur.spawned + 1 } := ⟨_, rfl⟩
  obtain ⟨d, launch⟩ := w.setLaunch_onlyDisp (x0.task x0.focus).tag fun l => { l with travel := l.travel + 1 }
  obtain ⟨x1, hx1⟩ : ∃ x1, x1 = w.raiseTravel (x0.task x0.focus).tag := ⟨_, rfl⟩
  have raised : x1 = { w with disp := d } := hx1.trans launch
  have onCore : x1.focus = .thread c t := by rw [raised, hw]; exact focus.trans hf
  have cur1 : x1.cur = { s.cur with spawned := s.cur.spawned + 1, holder := h } := by
    have : x1.cur = w.cur := by rw [raised]; rfl
    rw [this, hw, State.cur_setCur, cur]
  have room : (decide (8 ≤ s.cur.spawned) || s.outboundFull) = false := by simp [hfull, hsp]
  have spawned : s.spawnTo n (s.x b) =
      ((x1.moreOutbound c).sendTravel (x0.travelOf ((s.x b).setWidth 48) n (some x0.focus) x0.cur.holder)).complete := by
    rw [State.spawnTo, State.afterRelease_released hr, room]
    simp only [Bool.false_eq_true, if_false, ← hx0]
    rw [show (x0.travelOf ((s.x b).setWidth 48) n (some x0.focus) x0.cur.holder).tag = (x0.task x0.focus).tag from rfl, ← hw, ← hx1, onCore]
  have lp : x1.lp c = s.lp c := by rw [raised, hw, only]; rfl
  refine ⟨_, _, hx.trans (congrArg _ spawned), ⟨rfl, rfl, ?_, ?_, ?_, ?_, rfl⟩, ?_, ?_, ?_, ?_, ?_, ?_⟩
  · show x0.coreNo x0.focus = _
    rw [only]; rfl
  · show x0.key x0.focus = _
    rw [only]; rfl
  · show (x0.task x0.focus).tag = _
    rw [only]; rfl
  · show some x0.focus = _
    rw [focus]
  · show x0.travelRegs = _
    simp only [State.travelRegs, State.x, cur, Ctx.readX]
  · show x0.cur.holder = x1.cur.holder
    rw [cur, cur1]
  · show x1.mem = _
    rw [raised, hw, only]; rfl
  · show x1.agenda = _
    rw [raised, hw, only]; rfl
  · rw [State.moreOutbound, State.lp_setLp, lp]
  · show x1.cur = { s.cur with spawned := s.cur.spawned + 1, holder := x1.cur.holder }
    rw [cur1]

end

/-- The core that an offset of a handle chooses (R341). -/
theorem State.coreVia_some {s : State} {m : BitVec 3} {o : BitVec 64} {n : Nat} (hc : checkHandle s.cur.sup (s.h m) o.toNat 1 1 .load true = none)
    (h6 : spaceOf (canon (hBase (s.h m) + o.toNat)) ≠ 6) (hn : homeNumber (canon (hBase (s.h m) + o.toNat)) = n) (k : Nat → State) :
    s.coreVia m o k = k n := by
  simp only [State.coreVia, hc, h6, if_false, hn]

section
variable {s : State} {c t n : Nat} {m w : BitVec 3} {a b : BitVec 5} {i : BitVec 6} (hf : s.focus = .thread c t) (ho : s.cur.wayOpen = false)
include ho

theorem exec_migr (hn : lookupNumber (s.x a) = some n) : exec (.migr a) s = .next (s.migrateTo n) := by
  show execMigr a s = _
  simp only [execMigr, ho, hn, Bool.false_eq_true, if_false]

theorem exec_migr_noCore (hf : s.focus = .thread c t) (hn : lookupNumber (s.x a) = none) :
    exec (.migr a) s = .next (s.takeTrap s.focus { cause := 0x05, tval := s.x a } s.cur.pc) := by
  show execMigr a s = _
  simp only [execMigr, ho, hn, Bool.false_eq_true, if_false, State.trap_thread hf]

theorem exec_spawn (hn : lookupNumber (s.x a) = some n) (hb : (s.x b).toNat % 4 = 0) : exec (.spawn a b) s = .next (s.spawnTo n (s.x b)) := by
  show execSpawn a b s = _
  simp only [execSpawn, ho, hn, hb, Bool.false_eq_true, if_false, ne_eq, not_true_eq_false]

theorem exec_migrHandle (hc : checkHandle s.cur.sup (s.h m) (s.x a).toNat 1 1 .load true = none)
    (h6 : spaceOf (canon (hBase (s.h m) + (s.x a).toNat)) ≠ 6) (hn : homeNumber (canon (hBase (s.h m) + (s.x a).toNat)) = n) :
    exec (.migrHandle a m) s = .next (s.migrateTo n) := by
  show execMigrHandle a m s = _
  simp only [execMigrHandle, ho, Bool.false_eq_true, if_false, State.coreVia_some hc h6 hn]

theorem exec_spawnHandle (hc : checkHandle s.cur.sup (s.h m) (s.x a).toNat 1 1 .load true = none)
    (h6 : spaceOf (canon (hBase (s.h m) + (s.x a).toNat)) ≠ 6) (hn : homeNumber (canon (hBase (s.h m) + (s.x a).toNat)) = n)
    (hb : (s.x b).toNat % 4 = 0) : exec (.spawnHandle a b m) s = .next (s.spawnTo n (s.x b)) := by
  show execSpawnHandle a b m s = _
  simp only [execSpawnHandle, ho, Bool.false_eq_true, if_false, State.coreVia_some hc h6 hn, hb, ne_eq, not_true_eq_false]

include hf

/-- RLD in migrate mode makes its read first (R271). -/
theorem rldMigrate_reads (hin : s.cur.inbox = none) (hu : s.unanswered = false) (hfull : s.outboundFull = false)
    (hr : s.releaseFor s.focus (decide (n ≠ s.coreNo s.focus)) false = (true, s))
    (hc : checkHandle s.cur.sup (s.h m) (s.mOffset a i (widthBytes w)).toNat (widthBytes w) (widthBytes w) .load true = none)
    (h6 : spaceOf (canon (hBase (s.h m) + (s.mOffset a i (widthBytes w)).toNat)) ≠ 6)
    (hn : homeNumber (canon (hBase (s.h m) + (s.mOffset a i (widthBytes w)).toNat)) = n) :
    exec (.rldMigrate m a w i) s = .next (s.awaitRequest m (s.mOffset a i (widthBytes w)) .load
      (canon (hBase (s.h m) + (s.mOffset a i (widthBytes w)).toNat)) (widthBytes w) [] (.inbox migrateMark) false false) := by
  show execRldMigrate m a w i s = _
  have lookup : isDense s.focus = false := by rw [hf]; rfl
  simp only [execRldMigrate, lookup, ho, hin, hc, h6, hn, Bool.false_eq_true, if_false, State.afterRelease_released hr, hu, hfull, Bool.or_self]

/-- The value that a migrating RLD has read goes with the context (R271). -/
theorem rldMigrate_leaves {bs : List Byte} (hin : s.cur.inbox = some [(migrateMark, bs)]) (hfail : s.cur.failed = none) (hfull : s.outboundFull = false)
    (hn : homeNumber (canon (hBase (s.h m) + (s.mOffset a i (widthBytes w)).toNat)) = n) :
    ∃ x, exec (.rldMigrate m a w i) s =
        .next ((s.setCur { s.cur with inbox := none, failed := none }).depart x fun y => y.sendTravel x) ∧
      s.Carries n (s.cur.pc + 4#48) none x ∧ x.regs = s.travelRegs.take 6 ++ [extendBy w (bytesToNat bs)] := by
  obtain ⟨u, hu⟩ : ∃ u, u = s.setCur { s.cur with inbox := none, failed := none } := ⟨_, rfl⟩
  have regs : u.travelRegs = s.travelRegs := by simp only [State.travelRegs, State.x, hu, State.cur_setCur, Ctx.readX]
  refine ⟨{ u.travelOf (s.cur.pc + 4#48) n none 0 with regs := u.travelRegs.take 6 ++ [extendBy w (bytesToNat bs)] }, ?_,
    ⟨rfl, rfl, by rw [hu]; rfl, by rw [hu]; rfl, by rw [hu]; rfl, rfl, rfl⟩, congrArg (fun l => l.take 6 ++ _) regs⟩
  show execRldMigrate m a w i s = _
  have lookup : isDense s.focus = false := by rw [hf]; rfl
  dsimp only [execRldMigrate]
  rw [if_neg (by rw [lookup]; decide), if_neg (by rw [ho]; decide)]
  simp only [hin, hfail, hfull, hn, Bool.false_eq_true, if_false, List.flatMap_cons, List.flatMap_nil, List.append_nil]
  subst hu
  rfl

end

/-! ### Arrival and return (R171 to R173) -/

theorem State.count_spill (s : State) (k src n : Nat) : ((s.count (.lc k) src n).lc k).spill = (s.lc k).spill := by
  simp only [State.count]
  split
  · rfl
  · rw [State.lc_setLc]

/-- A context that the core's spill area takes is its last entry. -/
theorem State.spillTo_spill (s : State) (k : Nat) (x : Travel) : ((s.spillTo k x).lc k).spill = (s.lc k).spill ++ [x] := by
  rw [State.spillTo, State.lc_write, State.count_spill, State.lc_setLc]

section
variable {s : State} {k : Nat} {x : Travel}

theorem State.enqueue_arrivals (hs : (s.lc k).spill = []) (hroom : (s.lp k).arrivals.length < maxArrivals) :
    s.enqueue k x = (true, (s.setLp k { s.lp k with arrivals := (s.lp k).arrivals ++ [x] }).push (.slotGrant k)) :=
  if_pos ⟨hs, hroom⟩

theorem State.enqueue_spill (hstalled : (s.lc k).stalled = []) (hroom : (s.lc k).spill.length < maxSpill)
    (hfull : (s.lc k).spill ≠ [] ∨ maxArrivals ≤ (s.lp k).arrivals.length) : s.enqueue k x = (true, s.spillTo k x) := by
  have noArrival : ¬((s.lc k).spill = [] ∧ (s.lc k).plane.arrivals.length < maxArrivals) := fun ⟨h, h'⟩ =>
    hfull.elim (fun f => f h) fun f => Nat.not_lt.mpr f h'
  exact (if_neg noArrival).trans (if_pos ⟨hstalled, hroom⟩)

theorem arrival_queued (hk : k = coreIndex x.dst) (hl : s.holdsLaunch k x = true) (hs : (s.lc k).spill = [])
    (hroom : (s.lp k).arrivals.length < maxArrivals) (hm : moduleOfNumber x.src = s.module) (hne : coreIndex x.src ≠ k) :
    ∃ u, exec (.travelContextArrival x) s = .next u ∧ (u.lp k).arrivals = (s.lp k).arrivals ++ [x] ∧
      (u.lp (coreIndex x.src)).outbound = (s.lp (coreIndex x.src)).outbound - 1 ∧ u.agenda.getLast? = some (.slotGrant k) ∧ u.mem = s.mem := by
  obtain ⟨v, hv⟩ : ∃ v, v = (s.setLp k { s.lp k with arrivals := (s.lp k).arrivals ++ [x] }).push (.slotGrant k) := ⟨_, rfl⟩
  have sender : v.lp (coreIndex x.src) = s.lp (coreIndex x.src) := by rw [hv, State.lp_push, State.lp_setLp_ne _ _ _ _ hne]
  have accepted : v.travelAccepted x.src x.key =
      v.setLp (coreIndex x.src) { v.lp (coreIndex x.src) with outbound := (v.lp (coreIndex x.src)).outbound - 1 } :=
    if_pos (by rw [hm, hv]; rfl)
  have run : exec (.travelContextArrival x) s = .next (v.travelAccepted x.src x.key) := by
    show execTravelContextArrival x s = _
    simp only [execTravelContextArrival, ← hk, hl, Bool.true_eq_false, if_false, State.enqueue_arrivals hs hroom, ← hv]
  refine ⟨_, run.trans (congrArg _ accepted), ?_, ?_, ?_, ?_⟩
  · rw [State.lp_setLp_ne _ _ _ _ hne.symm, hv, State.lp_push, State.lp_setLp]
  · rw [State.lp_setLp, sender]
  · rw [State.setLp_agenda, hv]
    simp [State.push]
  · rw [State.setLp_mem, hv]
    rfl

theorem arrival_spills (hk : k = coreIndex x.dst) (hl : s.holdsLaunch k x = true) (hstalled : (s.lc k).stalled = [])
    (hroom : (s.lc k).spill.length < maxSpill) (hfull : (s.lc k).spill ≠ [] ∨ maxArrivals ≤ (s.lp k).arrivals.length) :
    exec (.travelContextArrival x) s = .next ((s.spillTo k x).travelAccepted x.src x.key) := by
  show execTravelContextArrival x s = _
  simp only [execTravelContextArrival, ← hk, hl, Bool.true_eq_false, if_false, State.enqueue_spill hstalled hroom hfull]

theorem arrival_returned (hk : k = coreIndex x.dst) (hl : s.holdsLaunch k x = false) :
    ∃ r : Refused, r.cause = 0x13 ∧ r.tval = x.dst ∧ exec (.travelContextArrival x) s = .next (s.returnTravel x r) :=
  ⟨⟨0x13, _, x.dst⟩, rfl, rfl, congrArg Host.Outcome.next (if_pos (by rw [← hk]; exact hl))⟩

theorem spillReturn_first {rest : List Travel} (hs : (s.lc k).spill = x :: rest) (hl : s.holdsLaunch k x = true)
    (hroom : (s.lp k).arrivals.length < maxArrivals) (hstalled : (s.lc k).stalled = []) :
    ∃ u, exec (.spillReturn k) s = .next u ∧ (u.lc k).spill = rest ∧ (u.lp k).arrivals = (s.lp k).arrivals ++ [x] ∧ u.mem = s.mem := by
  have first : (s.lc k).spill.find? (s.holdsLaunch k) = some x := by rw [hs, List.find?_cons, hl]
  have removed : (s.lc k).spill.erase x = rest := by rw [hs, List.erase_cons_head]
  obtain ⟨v, hv⟩ : ∃ v, v = s.setLc k { s.lc k with spill := rest, plane := { s.lp k with arrivals := (s.lp k).arrivals ++ [x] } } := ⟨_, rfl⟩
  have core : v.lc k = { s.lc k with spill := rest, plane := { s.lp k with arrivals := (s.lp k).arrivals ++ [x] } } := by rw [hv, State.lc_setLc]
  have unstalled : v.unstall k = v := by simp only [State.unstall, core, hstalled]
  have run : exec (.spillReturn k) s = .next ((if ((v.unstall k).lc k).spill.any ((v.unstall k).holdsLaunch k) then
      (v.unstall k).push (.spillReturn k) else v.unstall k).push (.slotGrant k)) := by
    show execSpillReturn k s = _
    simp only [execSpillReturn, first, removed]
    exact congrArg Host.Outcome.next ((if_neg (Nat.not_le.mpr hroom)).trans (by subst hv; rfl))
  rw [unstalled] at run
  refine ⟨_, run, ?_, ?_, ?_⟩
  · rw [State.lc_push]
    split <;> simp only [State.lc_push, core]
  · rw [State.lp_push]
    split <;> simp only [State.lp, State.lc_push, core]
  · rw [State.push_mem]
    split <;> simp only [State.push_mem, hv, State.setLc_mem]

theorem spillReturn_none (h : (∀ y ∈ (s.lc k).spill, s.holdsLaunch k y = false) ∨ maxArrivals ≤ (s.lp k).arrivals.length) :
    exec (.spillReturn k) s = .next s := by
  show execSpillReturn k s = _
  dsimp only [execSpillReturn]
  split
  · rfl
  · next y found =>
    rcases h with h | h
    · have holds := List.find?_some found
      rw [h y (List.mem_of_find?_eq_some found)] at holds
      exact absurd holds (by decide)
    · exact congrArg Host.Outcome.next (if_pos h)

/-- A core that has one context less on its way holds the launches that it held. -/
theorem State.holdsLaunch_outbound (s : State) (k j n : Nat) (x : Travel) :
    (s.setLp k { s.lp k with outbound := n }).holdsLaunch j x = s.holdsLaunch j x := by
  by_cases h : j = k
  · subst h
    simp only [State.holdsLaunch, State.lp, State.setLp, State.lc_setLc]
  · simp only [State.holdsLaunch, State.lp, State.setLp, State.lc_setLc_ne _ _ _ _ h]

theorem return_queued (hk : k = coreIndex x.src) (hl : s.holdsLaunch k x = true) (hs : (s.lc k).spill = [])
    (hroom : (s.lp k).arrivals.length < maxArrivals) :
    ∃ u, exec (.contextReturn x) s = .next u ∧ (u.lp k).arrivals = (s.lp k).arrivals ++ [x] ∧ (u.lp k).outbound = (s.lp k).outbound - 1 ∧
      u.mem = s.mem := by
  obtain ⟨v, hv⟩ : ∃ v, v = s.setLp k { s.lp k with outbound := (s.lp k).outbound - 1 } := ⟨_, rfl⟩
  have lp : v.lp k = { s.lp k with outbound := (s.lp k).outbound - 1 } := by rw [hv, State.lp_setLp]
  have spill : (v.lc k).spill = [] := by rw [hv, State.setLp, State.lc_setLc]; exact hs
  have queued : v.enqueue k x = _ := State.enqueue_arrivals spill (by rw [lp]; exact hroom)
  have holds : v.holdsLaunch k x = true := by rw [hv, State.holdsLaunch_outbound, hl]
  have run : exec (.contextReturn x) s = .next (v.enqueue k x).2 := by
    show execContextReturn x s = _
    simp only [execContextReturn, ← hk, ← hv, holds, if_true]
  rw [queued] at run
  refine ⟨_, run, ?_, ?_, ?_⟩
  · simp only [State.lp_push, State.lp_setLp, lp]
  · simp only [State.lp_push, State.lp_setLp, lp]
  · rw [State.push_mem, State.setLp_mem, hv, State.setLp_mem]

/-- The contexts on their way from a core are none the fewer for a context that has started. -/
theorem State.outbound_travelStarted (s : State) (x : Travel) (k : Nat) : ((s.travelStarted x).lp k).outbound = (s.lp k).outbound := by
  unfold State.travelStarted
  split
  · rfl
  · split
    · simp only [State.spawnStarted, State.lp, State.lc, getAt]
      rw [findAt_map (hg := by intro; rfl)]
      cases findAt s.lcs k <;> rfl
    · simp only [State.lp, State.lc, State.sendPacket_lcs]

/-- The fault record of a returned context that its sender has no task for (R173). -/
def lostRecord (x : Travel) : FaultRec where
  cause := (x.back.getD ⟨0x13, 0x20, x.dst⟩).cause
  tag := x.tag
  core := x.src
  tval := (x.back.getD ⟨0x13, 0x20, x.dst⟩).tval
  tinfo := (x.back.getD ⟨0x13, 0x20, x.dst⟩).detail
  key := x.key
  epc := x.pc.toNat

theorem return_discarded (hk : k = coreIndex x.src) (hl : s.holdsLaunch k x = false) :
    ∃ u v : State, exec (.contextReturn x) s = .next u ∧ u = (v.setLaunch x.tag fun l => { l with killed := l.killed + 1 }).lowerTravel x.tag ∧
      (v.lp k).outbound = (s.lp k).outbound - 1 := by
  subst hk
  obtain ⟨v, hv⟩ : ∃ v, v = s.setLp (coreIndex x.src) { s.lp (coreIndex x.src) with outbound := (s.lp (coreIndex x.src)).outbound - 1 } := ⟨_, rfl⟩
  have gone : v.holdsLaunch (coreIndex x.src) x = false := by rw [hv, State.holdsLaunch_outbound, hl]
  have run : exec (.contextReturn x) s =
      .next ((((v.travelStarted x).postFault (lostRecord x)).setLaunch x.tag fun l => { l with killed := l.killed + 1 }).lowerTravel x.tag) := by
    show execContextReturn x s = _
    simp only [execContextReturn, ← hv, gone, Bool.false_eq_true, if_false, lostRecord]
  have started := State.outbound_travelStarted v x (coreIndex x.src)
  refine ⟨_, _, run, rfl, ?_⟩
  simp only [State.lp, State.lc, State.postFault_lcs]
  rw [hv, State.lp_setLp, ← hv] at started
  exact started

end

/-- Settles O45: the instructions that move or start a thread by what they send, and each arrival, return and spill by where its context goes. -/
theorem contextsOnTheMove : Obligations.ContextsOnTheMove := by
  intro s c t n a b m hf ho
  refine ⟨fun hu hfull hr => ⟨fun hn => ?_, fun hn hsp hb => ?_, fun hc h6 hn => ⟨?_, fun hsp hb => ?_⟩, fun w i hin hc h6 hn => ?_⟩,
    fun w i bs hin hfail hfull hn => rldMigrate_leaves hf ho hin hfail hfull hn, exec_migr_noCore ho hf, fun x => ⟨fun hm => ?_, fun hm ha => ?_,
    fun ht _ => State.slot_depart hf ht x, arrival_queued rfl, fun hl hst hroom hfull => ⟨arrival_spills rfl hl hst hroom hfull, s.spillTo_spill _ x⟩,
    arrival_returned rfl, fun rest => spillReturn_first, spillReturn_none, return_queued rfl, return_discarded rfl⟩⟩
  · exact State.leaves_of_migrateTo hr hfull hu (exec_migr ho hn)
  · exact State.spawns_of_spawnTo hf hr hfull hsp (exec_spawn ho hn hb)
  · exact State.leaves_of_migrateTo hr hfull hu (exec_migrHandle ho hc h6 hn)
  · exact State.spawns_of_spawnTo hf hr hfull hsp (exec_spawnHandle ho hc h6 hn hb)
  · exact rldMigrate_reads hf ho hin hu hfull hr hc h6 hn
  · exact if_pos hm
  · exact (if_neg hm).trans (if_pos ha)

end Sys2Proof.Machine
end

section
/-! SUPPORT. Where the bytes of a milestone word are written (R68, R116), and a state in which that is not at the word's own address. -/

namespace Sys2Proof.Machine

/-- Telling who waits for a word's generation changes no memory (R111). -/
theorem State.wordMoved_mem (s : State) (pa : Nat) : (s.wordMoved pa).mem = s.mem := by
  simp only [State.wordMoved, State.pushAll_mem]
  exact foldl_keeps State.mem (fun x w => by simp) _ _

/-- A word changed at its site is written where its bytes lie, which is its address only where no range that covers it is mapped (R68, R116). -/
theorem State.setMilestone_mem (s : State) (pa : Nat) (m : Milestone) :
    (s.setMilestone pa m).mem = memWrite s.mem (s.byteSite (canon pa)) (natToBytes 16 m.word) := by
  simp only [State.setMilestone]
  split
  · rfl
  · exact State.wordMoved_mem _ _

/-- Core 0 of module 0 whose thread 0 holds a handle of its scratchpad in h1, the offset 64 in x1 and the count 8 in x2; and, over the scratchpad, a
range that core 1 has mapped from its first byte on. RBIND makes no range there (R60), but no hypothesis of O32 excludes one. -/
def mappedPad : State :=
  { State.reset with
    ctxs := [(0, { Ctx.reset with
      x := (Ctx.reset.x.set 1 64#64).set 2 8#64
      h := Ctx.reset.h.set 1 (mkHandle false false 7 true 14 0 (4 * 2 ^ 48)) })]
    lcs := [(0, { LCore.reset with plane := { LPlane.reset with banks := 16 } })]
    homes := { Homes.reset with
      ranges := [⟨0, 0, 0, 0, 4 * 2 ^ 48, 0x4000, 7#3, 0, some (coreNumber 0 (.lc 1), 0, 0), false, 0, false, []⟩] } }

/-- The milestone word that the thread arms. -/
def mappedWord : Nat := 4 * 2 ^ 48 + 64

/-- The word armed for eight bytes. -/
def armedWord : Milestone := ⟨8, 0, 0, false, false, false, 0⟩

/-- MSARM of the word writes byte 64 + 11 of core 1's scratchpad, which is no byte of the word. -/
theorem mappedPad_written : memGet ((mappedPad.setMilestone mappedWord armedWord).setCur (mappedPad.cur.advance 4#48)).mem
    (windowAddr 0 (.lc 1) (64 + 11)) = 8#8 := by
  have elsewhere : mappedPad.byteSite (canon mappedWord) = windowAddr 0 (.lc 1) 64 := by decide +kernel
  have address : windowAddr 0 (.lc 1) (64 + 11) = windowAddr 0 (.lc 1) 64 + 11 := rfl
  rw [State.setCur_mem, State.setMilestone_mem, elsewhere, address, memGet_memWrite _ _ 11 _ rfl (by decide +kernel)]
  decide +kernel

/-- Refutes O32: MSARM of a word of the own scratchpad keeps every byte outside the word, says the statement; where a mapped range covers the word, its
bytes lie in the mapper's scratchpad and are written there. -/
theorem not_milestoneWords : ¬ Obligations.MilestoneWords := by
  intro h
  obtain ⟨own, -⟩ := h.1 mappedPad 0 0 0 1 2 1 0 rfl rfl (by decide +kernel)
  obtain ⟨arms, -⟩ := (own 64 (by decide +kernel) (by decide +kernel) (by decide +kernel)).1 (by decide +kernel)
  obtain ⟨u, -, rfl, kept⟩ := arms armedWord (by decide +kernel) (by decide +kernel)
  have unchanged := kept (windowAddr 0 (.lc 1) (64 + 11)) (.inr (by decide +kernel))
  have before : memGet mappedPad.mem (windowAddr 0 (.lc 1) (64 + 11)) = 0#8 := rfl
  exact absurd (mappedPad_written.symm.trans (unchanged.trans before)) (by decide)

end Sys2Proof.Machine
end

section
/-! SUPPORT. The predicate bits that lanes cover, what a compare code and a logic code answer, and how VCMP and VKOP write a predicate register
(R242, R298, R305, R314). -/

namespace Sys2Proof.Machine

/-! ### The predicate bits of lanes -/

/-- The predicate bits that the lanes `js` of `w` bits cover (R305). -/
def lanePreds (w : Nat) (js : List Nat) : Nat := js.foldl (fun m i => m + lanePred w i) 0

/-- The lowest predicate bit of a lane of 16 * p bits (R298). -/
theorem lanePlace_eq (p i : Nat) : i * (16 * p) / 16 = p * i := by
  rw [Nat.mul_left_comm, Nat.mul_div_cancel_left _ (by decide), Nat.mul_comm]

theorem lanePred_eq (p i : Nat) : lanePred (16 * p) i = 2 ^ (p * i) * (2 ^ p - 1) := by
  rw [lanePred, lanePlace_eq, Nat.mul_div_cancel_left _ (by decide), Nat.mul_comm]

/-- Lanes of 16 * p bits cover p predicate bits each, one lane's above those of the lane before it. -/
theorem testBit_lanePreds {p : Nat} (hp : 0 < p) (P : Nat → Bool) (n k : Nat) :
    (lanePreds (16 * p) ((List.range n).filter P)).testBit k = (decide (k / p < n) && P (k / p)) := by
  induction n generalizing k with
  | zero => simp [lanePreds]
  | succ n ih =>
    have below : lanePreds (16 * p) ((List.range n).filter P) < 2 ^ (p * n) :=
      Nat.lt_pow_two_of_testBit _ fun k hk => by
        have : ¬k / p < n := by rwa [Nat.div_lt_iff_lt_mul hp, Nat.mul_comm, Nat.not_lt]
        simp [ih, this]
    have next : lanePreds (16 * p) ((List.range (n + 1)).filter P) =
        2 ^ (p * n) * (if P n then 2 ^ p - 1 else 0) + lanePreds (16 * p) ((List.range n).filter P) := by
      rw [List.range_succ, List.filter_append, lanePreds, List.foldl_append]
      cases hP : P n <;> simp [hP, lanePreds, lanePred_eq, Nat.add_comm]
    rw [next, Nat.testBit_two_pow_mul_add _ below]
    split
    case isTrue lower =>
      have : k / p < n := by rwa [Nat.div_lt_iff_lt_mul hp, Nat.mul_comm]
      simp [ih, this, Nat.lt_succ_of_lt this]
    case isFalse upper =>
      have : n ≤ k / p := by rw [Nat.le_div_iff_mul_le hp, Nat.mul_comm]; omega
      obtain own | above := Nat.eq_or_lt_of_le this
      · have : k - p * n < p := by
          have := Nat.lt_mul_div_succ k hp
          rw [← own, Nat.mul_add, Nat.mul_one] at this
          omega
        cases hP : P n <;> simp [← own, hP, this]
      · have : ¬k - p * n < p := by
          have := (Nat.le_div_iff_mul_le hp).mp above
          rw [Nat.succ_mul, Nat.mul_comm] at this
          omega
        have beyond : ¬k / p < n + 1 := by omega
        cases hP : P n <;> simp [beyond, this]

/-- Every type but the 8-bit one has elements of a multiple of 16 bits (R224). -/
theorem elemBits_eq_mul {t : BitVec 3} (ht : t ≠ 0#3) : ∃ p, 0 < p ∧ elemBits t = 16 * p := by
  have halves : ∀ t : BitVec 3, t ≠ 0#3 → 0 < elemBytes t / 2 ∧ elemBits t = 16 * (elemBytes t / 2) := by decide
  exact ⟨_, halves t ht⟩

/-- The lanes of a register of either class cover no more bits than a predicate register has (R164, R298). -/
theorem laneCount_mul_le (a : Agent) (p : Nat) : laneCount (vectorBytes a) (16 * p) * p ≤ 256 := by
  have bytes : vectorBytes a ≤ 512 := by unfold vectorBytes; split <;> decide
  have fits : laneCount (vectorBytes a) (16 * p) * (16 * p) ≤ 8 * vectorBytes a := Nat.div_mul_le_self _ _
  rw [Nat.mul_left_comm] at fits
  omega

/-- A bit that a lane covers is set in the bits of the lanes of `P` exactly where the lane is one of them. -/
theorem getLsbD_lanePreds {w : Nat} {a : Agent} {p i j : Nat} (hw : w = 16 * p) (hi : i < laneCount (vectorBytes a) w) (hj : j < w / 16)
    (P : Nat → Bool) : (BitVec.ofNat 256 (lanePreds w ((List.range (laneCount (vectorBytes a) w)).filter P))).getLsbD (i * w / 16 + j) = P i := by
  subst hw
  rw [Nat.mul_div_cancel_left _ (by decide)] at hj
  have lane : (p * i + j) / p = i := by rw [Nat.mul_add_div (by omega), Nat.div_eq_of_lt hj, Nat.add_zero]
  have room : p * i + j < 256 := by
    have nextLane : p * i + p ≤ laneCount (vectorBytes a) (16 * p) * p := by
      rw [Nat.mul_comm p i, ← Nat.succ_mul]
      exact Nat.mul_le_mul_right p hi
    have := laneCount_mul_le a p
    omega
  rw [lanePlace_eq, BitVec.getLsbD_ofNat, testBit_lanePreds (Nat.zero_lt_of_lt hj)]
  simp [lane, room, hi]

/-- A bit beyond those of the last lane is not set. -/
theorem getLsbD_lanePreds_beyond {w p l j : Nat} (hw : w = 16 * p) (hp : 0 < p) (hj : l * w / 16 ≤ j) (P : Nat → Bool) :
    (BitVec.ofNat 256 (lanePreds w ((List.range l).filter P))).getLsbD j = false := by
  subst hw
  have beyond : ¬j / p < l := by
    rw [Nat.div_lt_iff_lt_mul hp]
    rw [lanePlace_eq, Nat.mul_comm] at hj
    exact Nat.not_lt.mpr hj
  rw [BitVec.getLsbD_ofNat, testBit_lanePreds hp]
  simp [beyond]

/-! ### Compare codes -/

theorem cmpInt_codes (w : Nat) (f : BitVec 3) (x y : Nat) :
    (f = 0#3 → (cmpInt w f.toNat x y = true ↔ x = y)) ∧ (f = 1#3 → (cmpInt w f.toNat x y = true ↔ x ≠ y)) ∧
    (f = 2#3 → (cmpInt w f.toNat x y = true ↔ signedOf w x < signedOf w y)) ∧
    (f = 3#3 → (cmpInt w f.toNat x y = true ↔ signedOf w x ≤ signedOf w y)) ∧
    (f = 4#3 → (cmpInt w f.toNat x y = true ↔ x < y)) ∧ (f = 5#3 → (cmpInt w f.toNat x y = true ↔ x ≤ y)) := by
  refine ⟨?_, ?_, ?_, ?_, ?_, ?_⟩ <;> rintro rfl <;> simp [cmpInt]

/-- A NaN operand makes ne and unordered hold and no other code (R242). -/
theorem cmpFloat_of_isNan (f : BitVec 3) {x y : Val} (h : x.isNan = true ∨ y.isNan = true) :
    cmpFloat f.toNat x y = true ↔ f = 1#3 ∨ f = 6#3 := by
  simp [cmpFloat, h, BitVec.toNat_eq]

theorem cmpFloat_codes (f : BitVec 3) {x y : Val} (hx : x.isNan = false) (hy : y.isNan = false) :
    (f = 0#3 → (cmpFloat f.toNat x y = true ↔ cmpVal x y = .eq)) ∧ (f = 1#3 → (cmpFloat f.toNat x y = true ↔ cmpVal x y ≠ .eq)) ∧
    (f = 2#3 → (cmpFloat f.toNat x y = true ↔ cmpVal x y = .lt)) ∧ (f = 3#3 → (cmpFloat f.toNat x y = true ↔ cmpVal x y ≠ .gt)) ∧
    (f = 6#3 → cmpFloat f.toNat x y = false) := by
  refine ⟨?_, ?_, ?_, ?_, ?_⟩ <;> rintro rfl <;> simp [cmpFloat, hx, hy]

/-! ### VCMP -/

/-- What VCMP answers for lane `i` (R305). -/
def State.compares (s : State) (a b : BitVec 5) (t f : BitVec 3) (i : Nat) : Bool :=
  let x := laneAt s a (elemBits t) i
  let y := laneAt s b (elemBits t) i
  if isFloatType t then cmpFloat f.toNat ((floatOf t).decode x) ((floatOf t).decode y) else cmpInt (elemBits t) f.toNat x y

theorem exec_vcmp {t : BitVec 3} (ht : t ≠ 0#3) (s : State) (d : BitVec 3) (a b : BitVec 5) (q f : BitVec 3) :
    let w := elemBits t
    let bits (P : Nat → Bool) : BitVec 256 := BitVec.ofNat 256 (lanePreds w ((List.range (laneCount (vectorBytes s.focus) w)).filter P))
    exec (.vcmp d a b t q f) s = .next (s.setK 2 d (bits fun i => s.compares a b t f i && s.act q w i) (bits (s.act q w))).complete := by
  intro w bits
  change execVcmp d a b t q f s = _
  simp only [execVcmp, if_neg ht, State.activeLanes, List.filter_filter]
  rfl

theorem exec_vcmp_bytes {s : State} {c n : Nat} (hf : s.focus = .thread c n) (d : BitVec 3) (a b : BitVec 5) (q f : BitVec 3) :
    exec (.vcmp d a b 0#3 q f) s =
      .next (s.takeTrap s.focus { cause := 0x1D, tval := (wordOf (.vcmp d a b 0#3 q f)).setWidth 64, tinfo := 0#64 } s.cur.pc) :=
  congrArg Host.Outcome.next (s.trap_thread hf _ _ _)

/-! ### Logic codes and VKOP -/

/-- A logic code works on each of the `w` bits by itself (R242). -/
theorem testBit_logicBits {w j : Nat} (hj : j < w) (f : BitVec 3) (a b : Nat) :
    let p := a.testBit j
    let r := b.testBit j
    let v := (logicBits w f.toNat a b).testBit j
    (f = 0#3 → v = (p && r)) ∧ (f = 1#3 → v = (p || r)) ∧ (f = 2#3 → v = (p ^^ r)) ∧ (f = 3#3 → v = (p && !r)) ∧ (f = 4#3 → v = (p || !r)) ∧
    (f = 5#3 → v = !(p ^^ r)) ∧ (f = 6#3 → v = !(p || r)) := by
  have inv (x : Nat) : (2 ^ w - 1 - x % 2 ^ w).testBit j = !x.testBit j := by
    rw [Nat.sub_sub, Nat.add_comm, Nat.testBit_two_pow_sub_succ (Nat.mod_lt _ (Nat.two_pow_pos w))]
    simp [hj]
  refine ⟨?_, ?_, ?_, ?_, ?_, ?_, ?_⟩ <;> rintro rfl <;> simp [logicBits, inv]

theorem predBits_le (a : Agent) : predBits a ≤ 256 := by
  unfold predBits
  split <;> decide

theorem exec_vkop (s : State) (d g h f : BitVec 3) :
    exec (.vkop d g h f) s = .next (s.setK 2 d (BitVec.ofNat 256 (logicBits (predBits s.focus) f.toNat (s.k g).toNat (s.k h).toNat))
      (BitVec.ofNat 256 (2 ^ predBits s.focus - 1))).complete := rfl

/-- Settles O21: VCMP by the predicate bits of its active lanes and its compare code, VKOP bit by bit. -/
theorem predicates : Obligations.Predicates := by
  intro s d a b t q f
  refine ⟨fun ht _ => ?_, fun c n hf => exec_vcmp_bytes hf d a b q f, fun g h => ?_⟩
  case refine_1 =>
    obtain ⟨p, hp, hw⟩ := elemBits_eq_mul ht
    refine ⟨_, _, exec_vcmp ht s d a b q f, fun i hi j hj => getLsbD_lanePreds hw hi hj _, fun j hj => getLsbD_lanePreds_beyond hw hp hj _,
      fun i hi act j hj => ?_⟩
    rw [getLsbD_lanePreds hw hi hj, act, Bool.and_true]
    refine ⟨fun int => ?_, fun float nan => ?_, fun float hx hy => ?_⟩
    · simp only [State.compares, int]
      exact cmpInt_codes _ f _ _
    · simp only [State.compares, float]
      exact cmpFloat_of_isNan f nan
    · simp only [State.compares, float]
      exact cmpFloat_codes f hx hy
  case refine_2 =>
    have room {j : Nat} (hj : j < predBits s.focus) : j < 256 := Nat.lt_of_lt_of_le hj (predBits_le s.focus)
    refine ⟨_, _, exec_vkop s d g h f, fun j hj => ?_, fun j hj => ⟨?_, ?_⟩⟩
    · simp [BitVec.getLsbD_ofNat, Nat.not_lt.mpr hj]
    · simp [BitVec.getLsbD_ofNat, hj, room hj, -BitVec.getLsbD_eq_getElem]
    · simpa only [BitVec.getLsbD_ofNat, room hj, decide_true, Bool.true_and, BitVec.testBit_toNat] using
        testBit_logicBits hj f (s.k g).toNat (s.k h).toNat

end Sys2Proof.Machine
end
